-- ==== Sys2Proof/Word.lean ====
section
/-! DEFINITION. The word types of the machine (R1): 64-bit scalar words and bytes, as bit vectors. -/
namespace Sys2Proof

/-- A 64-bit scalar value (R21). -/
abbrev Word := BitVec 64

/-- One byte of memory (R1). -/
abbrev Byte := BitVec 8

end Sys2Proof
end

