-- ==== Sys2Proof/Config.lean ====
section
/-! DEFINITION. Values that the spec leaves to the implementation or to the moment, as constants without a body. -/
namespace Sys2Proof.Config

/-- Free values. The n-th use of a value that the spec leaves open takes `freeWord n`; `State.free` is the counter
(log 2). Nothing is known of any of them. -/
opaque freeWord : Nat → Word

/-- The signature that the device's ECDSA P-384 attestation key gives to a transcript (R473); the key is not in the
spec (log 10). The argument is the transcript as a number. -/
opaque attestation : Nat → BitVec 768

/-- Digests that the boot ROM measures into registers 1 to 3 (R472, R473), by boot count and register; the firmware
is not in the spec (log 10). -/
opaque bootDigest : Nat → Nat → BitVec 384

/-- The fixed measurement of the boot ROM, index 1 of R473 (log 10). -/
opaque romDigest : BitVec 384

/-- The wavelengths that the device manager would give a partition (first argument) at a destination (second), as far as
they reach (R371); the values are the manager's (log 22). -/
opaque allotment : Nat → Nat → Nat

/-- The device whose time is the domain's reference (R44, R490), and the destination by which each device reaches its parent in
the spanning tree of the escape channel (R388), after each rebuild of the tree: the domain's choice (log 24). -/
opaque reference : Nat → Nat
opaque treeParent : Nat → Nat → Nat

/-- A checkpoint's state block as bytes (R478, R479): its encoding is not in the spec (log 23). The argument counts the uses. -/
opaque stateBlock : Nat → List Byte

/-- What a meeting-class flit carries in OPD: the spec gives no layout for it (log 25). The argument counts the uses. -/
opaque meetingBody : Nat → BitVec 192

/-- Whether the boot ROM finds a later stage well signed, by boot count and stage (R472, log 10). -/
opaque bootVerified : Nat → Nat → Bool

/-- Whether an access uses the translation that a cache holds in place of the one its tables give now, where both are
allowed (R225, R231, R232): by tick, cycle, cursor, unit and core of the holder, and address (log 56). -/
opaque keepsTranslation : Nat → Nat → Nat → Nat → Nat → Nat → Bool

end Sys2Proof.Config
end

