-- ==== Sys2Proof/Syntax.lean ====
section
/-! DEFINITION. The instructions and device steps of the opcode table: `Instr`, one constructor per row, and the
records of their operands. Register numbers and fields are kept as the encoding holds them (R79 to R87). -/
namespace Sys2Proof

/-- Operands of family H0 (R80): ARG5. -/
structure H0 where
  arg : BitVec 5
  deriving DecidableEq, Repr

/-- Operands of family H1 (R80, R81). -/
structure H1 where
  d : BitVec 5
  sub : BitVec 3
  a : BitVec 5
  b : BitVec 5
  deriving DecidableEq, Repr

/-- Operands of family H2 (R80, R82). -/
structure H2 where
  d : BitVec 5
  sub : BitVec 3
  a : BitVec 5
  b : BitVec 5
  mask : BitVec 4
  ty : BitVec 4
  imm : BitVec 8
  deriving DecidableEq, Repr

/-- Operands of family H3 (R80, R83). -/
structure H3 where
  d : BitVec 5
  sub : BitVec 3
  a : BitVec 5
  b : BitVec 5
  mask : BitVec 4
  ty : BitVec 4
  c : BitVec 5
  dl : BitVec 5
  imm : BitVec 16
  deriving DecidableEq, Repr

/-- Operands of the wide variant of H3 (R84). -/
structure Wide where
  d : BitVec 5
  sub : BitVec 3
  imm : BitVec 44
  deriving DecidableEq, Repr

/-- A head of the hint space with whatever tail it carries (R94). -/
structure HintWord where
  tl : BitVec 2
  ha : BitVec 8
  tail : BitVec 48
  deriving DecidableEq, Repr

/-- What the flit of a meeting-class request carries beside what it asks (R379, R389, R391, R392): OSEQ, TAG, DINC and SINC. -/
structure ReqHdr where
  oseq : Nat := 0
  tag : Nat := 0
  dinc : Nat := 0
  sinc : Nat := 0
  deriving DecidableEq, Repr

/-- A party of a Headgate object: device address, partition, place (R24), the model's own context
number and the stamp of the instruction; of another device's party also the header of its request. -/
structure Who where
  dev : Nat
  part : Nat
  core : Nat
  pos : Nat
  slot : Nat
  id : Nat
  stamp : Nat
  hdr : ReqHdr := {}
  deriving DecidableEq, Repr

/-- An object that has a home: a meeting or lock record by its physical address (R51), a group's meeting by partition
and number (R363), a core's named barrier (R61), a buffer or a chain of a partition (R157). -/
inductive Obj where
  | meet (pa : Nat)
  | group (part g : Nat)
  | barrier (core n : Nat)
  | lock (pa : Nat)
  | buf (part n : Nat)
  | chain (part n : Nat)
  deriving DecidableEq, Repr

/-- What a message asks of a home. `u` is a deadline of the asker (its stamp for a poll). -/
inductive Req where
  /-- `mt.init` (R57) with membership, grace and scope -/
  | mtInit (memb : Word) (grace scope : Nat)
  /-- an arrival (R57); `sync` when the sender also waits (R153); the digest of R397 for a group,
  or the membership that a barrier takes when it is not live (R152) -/
  | mtArrive (party u : Nat) (sync : Bool) (digest : BitVec 64)
  /-- the collecting wait of `mt.wait` (R154) -/
  | mtWait (party u : Nat)
  /-- `mt.join` (R18) -/
  | mtJoin (party : Nat) (digest : BitVec 64)
  /-- `lk.acq` with hold deadline (R63) -/
  | lkAcquire (hdl u : Nat)
  | lkRelease
  | lkMend
  /-- a claim of n slots whose fill deadline is `fill` (R161, R359) -/
  | cbClaim (n u fill : Nat)
  /-- a fill (R162); `copy` when an engine makes it (R359) -/
  | cbFill (slot : Nat) (copy : Bool)
  /-- `recv`, or `rt.recv` when `routed` (R163, R414) -/
  | cbRecv (n u : Nat) (routed : Bool)
  | cbFree (slot : Nat)
  | chPub (h : Nat)
  /-- a chained `vsetl` at position `es` that wants `full` elements (R67) -/
  | chRead (full es u : Nat)
  /-- a request whose home is another device (R137): 0 `cb.def`, 1 `chain.def`, 2 `cb.st`, 3 `rt.open.rx`,
  4 `rt.close.rx`; the record's address plus one or 0 to unbind, or the expert -/
  | query (what arg : Nat)
  deriving DecidableEq, Repr

/-- A request on its way to a home (R52); `die` is the die whose memory holds the record. -/
structure Msg where
  who : Who
  die : Nat
  arrive : Nat
  obj : Obj
  req : Req
  deriving DecidableEq, Repr

/-- An answer of a home to a waiting context: a `ws` code and two results, or a trap (R160). The verdict of a group's
meeting says as well which generation closed and who was present, for the reducers (R366). -/
structure Ans where
  ctx : Nat
  stamp : Nat
  arrive : Nat
  code : Nat
  r1 : Word
  r2 : Word
  trap : Option (Nat × Word)
  gen : Nat := 0
  pres : Word := 0
  /-- the TAG of the request, of an answer of another device's home (R391) -/
  tag : Nat := 0
  deriving DecidableEq, Repr

/-- A flit (R379); `payload` is bytes 64 to 575. -/
structure Flit where
  kind : BitVec 4
  seq : BitVec 12
  nak : Bool
  /-- the reserved bits: bytes 12-13 [15:10], bytes 16-23 [63:52], bytes 2-3 [14:12] -/
  rsv : BitVec 21
  ack : BitVec 12
  ddev : BitVec 16
  sdev : BitVec 16
  cls : BitVec 2
  dpart : BitVec 6
  esc : Bool
  vc : Bool
  spart : BitVec 6
  oseq : BitVec 16
  len : BitVec 10
  dinc : BitVec 8
  sinc : BitVec 8
  addr : BitVec 52
  fn : BitVec 4
  lgw : BitVec 4
  op : BitVec 8
  tag : BitVec 32
  retry : BitVec 16
  opd : BitVec 192
  crc : BitVec 64
  payload : List Byte
  deriving DecidableEq, Repr

/-- What an error of the hardware strikes (R191, R455, R481): a partition, the tag of a tile-cache way, or a 64-byte unit of
data, by its key divided by 64. -/
inductive ErrAt where
  | inPart (part : Nat)
  | tag (slice set_ way : Nat)
  | data (unit : Nat)
  deriving DecidableEq, Repr

/-- A translation cache (R230): the unit (0 a core, 1 its cluster's copy engine, 2 the routing engine, 3 its operand-fetch
engine, 4 and above stream register 0 and above) and the core, or for a stream register the context. -/
structure Holder where
  unit : Nat
  who : Nat
  deriving DecidableEq, Repr

/-- What comes with the training of a link: at bring-up the reference's tick (R44), the coordinate and the extents that the manager writes before bring-up training
(R369), its values of TR (R371) and of the inbound cap (R375), whether it keeps 24
wavelengths of partition 0's there for checkpoints (R395), and, when the link is not this device's, the device whose
link it is. -/
structure LinkSetup where
  tick : Option Nat
  place : Option (Nat × Nat × Nat)
  tr : Option Nat
  cap : Option Nat
  keep : Bool
  far : Option Nat
  deriving DecidableEq, Repr

/-- A link: this device's to destination d, or another device's, as the device manager knows it (R53, R387). -/
inductive LinkAt where
  | here (d : Nat)
  | far (dev d : Nat)
  deriving DecidableEq, Repr

/-- How a time-flit exchange ends at the child: the tick t3 at which the parent answered (R394), the link that the answer came
on, and the round trip that the exchange measured (R373). -/
structure TimeReply where
  t3 : Nat
  d : Nat
  rtt : Option Nat
  deriving DecidableEq, Repr

/-- Every instruction and every device step of the opcode table. The device steps stand first, because the compiler
cannot build constructors with fields beyond the 245th: functions that build the later ones are noncomputable, and the
kernel evaluates them. -/
inductive Instr where
  | atomicAnswer (ctx : Nat)
  | registerWrite (reg : BitVec 8) (val : Word)
  | vcfgWrite (val : Word)
  | vlWrite (val : Word)
  | fpsWrite (val : Word)
  | whzWrite (val : Word)
  | lprWrite (val : Word)
  | lprTakeEffect (core : Nat) (pos : Nat)
  | spwmodeWrite (val : Word)
  | spwstWrite (val : Word)
  | wptWrite (n : Fin 4) (val : Word)
  | wfeWake (ctx : Nat)
  | waittCompletion (ctx : Nat)
  | meetingInitAtHome (m : Msg)
  | meetingArrivalAtHome (m : Msg)
  | meetingCloseDeadline (o : Obj)
  | meetingWaitGiveUp (o : Obj) (w : Who)
  | meetingJoinAtHome (m : Msg)
  | verdictReceived (r : Ans)
  | homeAckReceived (ctx : Nat) (dl : Nat) (grace : Nat)
  | homeLossTimeout (ctx : Nat)
  | lockAcquireAtHome (m : Msg)
  | lockReleaseAtHome (m : Msg)
  | lockMendAtHome (m : Msg)
  | lockHoldLapse (pa : Nat)
  | lockAcquireTimeout (pa : Nat) (w : Who)
  | bufferClaimAtHome (m : Msg)
  | bufferFillAtHome (m : Msg)
  | bufferRecvAtHome (m : Msg)
  | bufferFreeAtHome (m : Msg)
  | slotHoleConversion (part : Nat) (buf : Nat) (slot : Nat)
  | claimTimeout (part : Nat) (buf : Nat) (w : Who)
  | recvTimeout (part : Nat) (buf : Nat) (w : Who)
  | chainPubAtHome (m : Msg)
  | chainReadTimeout (part : Nat) (ch : Nat) (w : Who)
  | stageFiring (part : Nat)
  | spawnPlacement (part : Nat)
  | stageAging (part : Nat) (g : Nat) (stage : Nat)
  | vectorIssue (core : Nat) (pos : Nat) (err : Option (Nat × Nat))
  | copyHandoff (id : Nat)
  | copyCompletion (id : Nat)
  | copyFaultDelivery (ctx : Nat)
  | reductionPartial (part : Nat) (g : Nat) (child : Nat) (vec : List (BitVec 32))
  | reductionResult (part : Nat) (g : Nat) (vec : List (BitVec 32))
  | leaseDrainComplete (part : Nat) (id : Nat)
  | leaseRequestAtPeer (d : Nat) (k : Nat)
  | leaseReleaseNotice (d : Nat) (k : Nat)
  | leaseGrant (part : Nat) (id : Nat) (k : Nat)
  | leaseTerm (part : Nat) (id : Nat)
  | leaseRevocation (part : Nat) (id : Nat)
  | leaseReversionComplete (part : Nat) (id : Nat)
  | starvationReclaim (d : Nat)
  | routingItemDelivery (f : Flit)
  | routingAnswer (part : Nat) (die : Nat) (tag : Nat) (op : Nat)
  | meterSnapshot
  | scrubBlock (part : Nat)
  | checkpointCommitAck (part : Nat) (ok : Bool)
  | checkpointTimeout (part : Nat)
  | uncontainedError (at_ : ErrAt)
  | preemption (ctx : Nat)
  | sliceEnd (core : Nat) (pos : Nat)
  | contextRestore (part : Nat) (bad : Bool)
  | clusterRetirement (cl : Nat)
  | rotationSet (core : Nat) (pos : Nat) (turns : List (Nat × Nat))
  | notify (vf : Nat) (val : BitVec 32) (ro : Bool)
  | hostMemoryRequest (vf : Nat) (addr : Nat) (wr : Bool) (data : List Byte) (len : Nat)
  | hostCompletion (ctx : Nat) (st : Nat) (val : Word)
  | requestTimeout (tag : Nat)
  | fabricRequest (f : Flit)
  | fabricAnswer (f : Flit)
  | busyRetry (tag : Nat)
  | shootdownAck (holder : Holder) (line : Nat)
  | migrationStart (src : Nat) (dst : Nat)
  | migrationSwitch (src : Nat)
  | migrationDone (src : Nat)
  | linkTraining (d : Nat) (peer : Nat) (e1 : Nat) (e2 : Nat) (rtt : Nat) (set : LinkSetup)
  | flitReceived (d : Nat) (f : Flit)
  | replayTimeout (d : Nat)
  | linkDown (l : LinkAt)
  | idleFlit (d : Nat)
  | escapeMove (d : Nat)
  | timeFlitExchange
  | timeFlitAnswer (t1 : Nat) (t2 : Nat) (reply : TimeReply)
  | ppsPulse
  | referenceLost
  | referenceAcquired
  | functionLevelReset (vf : Nat)
  | deviceReset
  | lifeCycleChange (signed : Bool) (target : Nat)
  | spdmGetMeasurements (vf : Option Nat) (idx : Nat) (nonce : Nat)
  | thermalThrottle (temp : Nat)
  | thermalShutdown
  | coolingRestored
  | tdispRequest (vf : Nat) (target : Nat)
  | incarnationNotice (dev : Nat) (part : Nat) (inc : Nat)
  | beatLend (core : Nat) (pos : Nat) (toPos : Nat)
  | addReg (f : H1)
  | subReg (f : H1)
  | andReg (f : H1)
  | orReg (f : H1)
  | xorReg (f : H1)
  | andnReg (f : H1)
  | shlReg (f : H1)
  | shrReg (f : H1)
  | sraReg (f : H1)
  | rotReg (f : H1)
  | minReg (f : H1)
  | maxReg (f : H1)
  | minN64Reg (f : H1)
  | maxN64Reg (f : H1)
  | addImm (f : H3)
  | subImm (f : H3)
  | andImm (f : H3)
  | orImm (f : H3)
  | xorImm (f : H3)
  | andnImm (f : H3)
  | shlImm (f : H3)
  | shrImm (f : H3)
  | sraImm (f : H3)
  | rotImm (f : H3)
  | minImm (f : H3)
  | maxImm (f : H3)
  | minN64Imm (f : H3)
  | maxN64Imm (f : H3)
  | li (f : Wide)
  | lea (f : Wide)
  | lih (f : Wide)
  | mul (f : H3)
  | mulh (f : H3)
  | div (f : H3)
  | rem (f : H3)
  | fadd (f : H3)
  | fsub (f : H3)
  | fmul (f : H3)
  | fdiv (f : H3)
  | fma (f : H3)
  | fcvt (f : H3)
  | clz (f : H1)
  | ctz (f : H1)
  | popc (f : H1)
  | sextS8 (f : H1)
  | sextS16 (f : H1)
  | sextS32 (f : H1)
  | zextN8 (f : H1)
  | zextN16 (f : H1)
  | zextN32 (f : H1)
  | cmp (f : H2)
  | setEq (f : H2)
  | setNe (f : H2)
  | setLt (f : H2)
  | setGe (f : H2)
  | fcmpEq (f : H2)
  | fcmpLt (f : H2)
  | fcmpLe (f : H2)
  | fcmpUn (f : H2)
  | ld (f : H3)
  | ldAcq (f : H3)
  | st (f : H3)
  | stRel (f : H3)
  | amoAdd (f : H3)
  | amoFadd (f : H3)
  | amoAnd (f : H3)
  | amoOr (f : H3)
  | amoXor (f : H3)
  | amoMin (f : H3)
  | amoMax (f : H3)
  | amoSwap (f : H3)
  | amoCas (f : H3)
  | bEq (f : H3)
  | bNe (f : H3)
  | bLt (f : H3)
  | bGe (f : H3)
  | bLtN64 (f : H3)
  | bGeN64 (f : H3)
  | jmp (f : H3)
  | call (f : H3)
  | jr (f : H3)
  | csrr (f : H2)
  | csrw (f : H2)
  | csrs (f : H2)
  | csrc (f : H2)
  | trap (f : H0)
  | eret (f : H0)
  | wfe (f : H0)
  | fenceSv (f : H0)
  | fenceVs (f : H0)
  | fenceRel (f : H0)
  | fenceAcq (f : H0)
  | fenceFull (f : H0)
  | tick (f : H3)
  | waitt (f : H3)
  | nbArr (f : H3)
  | nbWait (f : H3)
  | nbSync (f : H3)
  | nbJoin (f : H3)
  | mtInit (f : H3)
  | mtArr (f : H3)
  | mtWait (f : H3)
  | mtSync (f : H3)
  | mtJoin (f : H3)
  | lkAcq (f : H3)
  | lkRel (f : H3)
  | lkMend (f : H3)
  | cbDef (f : H3)
  | cbClaim (f : H3)
  | cbFill (f : H3)
  | recv (f : H3)
  | cbFree (f : H3)
  | cbSt (f : H3)
  | chainDef (f : H3)
  | chainPub (f : H3)
  | spawn (f : H3)
  | gdef (f : H3)
  | gstart (f : H3)
  | exit (f : H3)
  | yield (f : H3)
  | vsetl (f : H3)
  | vsetlChained (f : H3)
  | vnext (f : H3)
  | vcfg (f : H3)
  | vlanes (f : H3)
  | vgang (f : H3)
  | vadd (f : H2)
  | vsub (f : H2)
  | vrsub (f : H2)
  | vand (f : H2)
  | vor (f : H2)
  | vxor (f : H2)
  | vandn (f : H2)
  | vshl (f : H2)
  | vshr (f : H2)
  | vsra (f : H2)
  | vmin (f : H2)
  | vmax (f : H2)
  | vmul (f : H2)
  | vmulh (f : H2)
  | vadds (f : H2)
  | vsubs (f : H2)
  | vfadd (f : H2)
  | vfsub (f : H2)
  | vfmul (f : H2)
  | vfdiv (f : H2)
  | vfmin (f : H2)
  | vfmax (f : H2)
  | vfsqrt (f : H2)
  | vfabs (f : H2)
  | vfneg (f : H2)
  | vfsgn (f : H2)
  | vfma (f : H2)
  | vfms (f : H2)
  | vfnma (f : H2)
  | vfnms (f : H2)
  | vmac (f : H2)
  | vnmsc (f : H2)
  | vcmpEq (f : H2)
  | vcmpNe (f : H2)
  | vcmpLt (f : H2)
  | vcmpLe (f : H2)
  | vcmpGt (f : H2)
  | vcmpGe (f : H2)
  | vcmpUn (f : H2)
  | vcvt (f : H2)
  | vqnt (f : H2)
  | vdq (f : H2)
  | vbsc (f : H2)
  | vfrcp (f : H2)
  | vfrsq (f : H2)
  | vfexp2 (f : H2)
  | vflog2 (f : H2)
  | vfexp (f : H2)
  | vftanh (f : H2)
  | vfsig (f : H2)
  | vrsum (f : H2) (tree : Bool)
  | vrmin (f : H2) (tree : Bool)
  | vrmax (f : H2) (tree : Bool)
  | vrand (f : H2) (tree : Bool)
  | vror (f : H2) (tree : Bool)
  | vrxor (f : H2) (tree : Bool)
  | vscanAdd (f : H2)
  | vscanMin (f : H2)
  | vscanMax (f : H2)
  | vperm (f : H2)
  | vslup (f : H2)
  | vsldn (f : H2)
  | vcomp (f : H2)
  | vexpd (f : H2)
  | vxchg (f : H2)
  | vmov (f : H2)
  | vbcast (f : H2)
  | vbcastImm (f : H2)
  | vidx (f : H2)
  | vmerge (f : H2)
  | vgetx (f : H2)
  | vsetx (f : H2)
  | vm2v (f : H2)
  | mand (f : H1)
  | mor (f : H1)
  | mxor (f : H1)
  | mandn (f : H1)
  | mnot (f : H1)
  | mset (f : H1)
  | mclr (f : H1)
  | mmov (f : H1)
  | mpop (f : H1)
  | mfirst (f : H1)
  | qset (f : H2)
  | qsetImm (f : H2)
  | qadv (f : H2)
  | qinfo (f : H2)
  | qinfoB (f : H2)
  | qinfoS (f : H2)
  | vld (f : H2)
  | vlds (f : H2)
  | vpf (f : H2)
  | vst (f : H2)
  | vsts (f : H2)
  | vldx (f : H2)
  | vstx (f : H2)
  | vamoAdd (f : H2)
  | vamoFadd (f : H2)
  | vamoAnd (f : H2)
  | vamoOr (f : H2)
  | vamoXor (f : H2)
  | vamoMin (f : H2)
  | vamoMax (f : H2)
  | vamoSwap (f : H2)
  | vamoCas (f : H2)
  | vredAddIndexed (f : H2)
  | vredFaddIndexed (f : H2)
  | vredAndIndexed (f : H2)
  | vredOrIndexed (f : H2)
  | vredXorIndexed (f : H2)
  | vredMinIndexed (f : H2)
  | vredMaxIndexed (f : H2)
  | vredAddStream (f : H2)
  | vredFaddStream (f : H2)
  | vredAndStream (f : H2)
  | vredOrStream (f : H2)
  | vredXorStream (f : H2)
  | vredMinStream (f : H2)
  | vredMaxStream (f : H2)
  | vldl (f : H2)
  | vldlIndexed (f : H2)
  | vstl (f : H2)
  | vstlIndexed (f : H2)
  | mwld (f : H2)
  | mmla (f : H2)
  | acz (f : H2)
  | aci (f : H2)
  | aciAdd (f : H2)
  | aciSat (f : H2)
  | acx (f : H2)
  | unfCfg (f : H2)
  | spwDrain (f : H1)
  | spwMode (f : H1)
  | spwSt (f : H1)
  | fmtLd (f : H2)
  | fmtSt (f : H2)
  | dld (f : H2)
  | dst (f : H2)
  | tcopy (f : H3)
  | tcopySh (f : H3)
  | tcopyCb (f : H3)
  | pub (f : H1)
  | tcReg (f : H3)
  | tcDrop (f : H3)
  | tcPf (f : H3)
  | tcHalo (f : H3)
  | tcInv (f : H3)
  | tcCln (f : H3)
  | mgrpDef (f : H3)
  | mgrpDrop (f : H3)
  | mldRed (f : H3)
  | mst (f : H3)
  | mgrpJoin (f : H3)
  | bwl (f : H3)
  | bwr (f : H3)
  | bwq (f : H3)
  | bwqD (f : H3)
  | rtOpen (f : H3)
  | rtOpenRx (f : H3)
  | rtAdd (f : H3)
  | rtGo (f : H3)
  | rtRecv (f : H3)
  | rtStat (f : H3)
  | rtClose (f : H3)
  | rtCloseRx (f : H3)
  | flmRd (f : H2)
  | flmSeal (f : H2)
  | dgst (f : H2)
  | prtNew (f : H3)
  | prtAsg (f : H3)
  | prtStop (f : H3)
  | prtKill (f : H3)
  | prtSt (f : H3)
  | scbGo (f : H2)
  | scbSt (f : H2)
  | keyLd (f : H2)
  | keyZ (f : H2)
  | ckpGo (f : H3)
  | ckpSt (f : H3)
  | ckpRb (f : H3)
  | nop
  | hint (h : HintWord)
  deriving DecidableEq, Repr

end Sys2Proof
end

