-- ==== Sys2Proof/WellFormed.lean ====
section
/-! DEFINITION. Well-formed instructions: checks 4 to 6 of R91 as one table of shapes, one row per instruction, and
the rules of R85 to R87 for the values of its fields. -/
namespace Sys2Proof

/-- What a register field of an instruction holds (R85). `none`: the field must be zero. -/
inductive Kind where
  | none
  /-- a scalar register, 0 to 31 -/
  | s
  /-- a vector or accumulator register, 0 to 31 -/
  | v
  /-- a mask register, 0 to 7 -/
  | m
  /-- a stream, format or tensor-descriptor register, 0 to 15 -/
  | q
  /-- a status register when SUB[0] = 1, else zero (R116) -/
  | st
  /-- a count from 1 to 31 (R159) -/
  | n
  /-- part of a wider value, any bits (R88, R169) -/
  | x
  /-- operand b of SUB 0 or 1 (R306) -/
  | vs
  /-- operand b of SUB 0, 1 or 2; zero for SUB 2 (R306) -/
  | vsi
  /-- a scalar for SUB 1, zero for SUB 2 (R326) -/
  | si
  /-- a format register for TYPE 13, else zero (R348) -/
  | acxf
  deriving DecidableEq, Repr

/-- The rule of an immediate field. -/
inductive ImmKind where
  | zero | any
  /-- bits above [5:0] zero (R101) -/
  | lt64
  | cvt4 | cvt12
  /-- K and S of `vqnt` and `vbsc` (R317) -/
  | ks
  /-- K of `vdq` (R317) -/
  | k0
  /-- ordering and scope of R116 -/
  | amo
  | vamo | vcas | vred
  /-- an assigned control register; one that can be written at some level (R124) -/
  | csrr | csrw
  /-- a barrier, a buffer, a chain or a group, and a graph or a lease (R85) -/
  | nb | buf | g6 | g4
  | vcfg
  /-- zero unless SUB = 2 (R306) -/
  | sub2
  /-- nf of R243 -/
  | nf
  | acx
  | lt3 | le8 | le9 | halo | lease | rtn | lt32
  deriving DecidableEq, Repr

/-- A further condition of one instruction's own description. -/
inductive Extra where
  | none
  /-- SUB 0 names no instruction (R153, R326) -/
  | subpos
  /-- SUB is 2 (R330) -/
  | subtwo
  /-- MASK ≠ 0 (R330) -/
  | masked
  /-- the immediate form takes integer types only (R316) -/
  | immInt
  deriving DecidableEq, Repr

/-- One instruction's use of its fields. `sub` is the largest SUB, `arg` the largest ARG5, `priv` the level of R99. -/
structure Shape where
  d : Kind := .none
  a : Kind := .none
  b : Kind := .none
  c : Kind := .none
  dl : Kind := .none
  mask : Bool := false
  types : List Nat := [0]
  sub : Nat := 0
  imm : ImmKind := .zero
  extra : Extra := .none
  arg : Nat := 0
  priv : Nat := 0
  deriving DecidableEq, Repr

/-- The fields of an encoded instruction, by family. -/
inductive Fields where
  | h0 (f : H0)
  | h1 (f : H1)
  | h2 (f : H2)
  | h3 (f : H3)
  | wide (f : Wide)
  | hint (h : HintWord)
  /-- a fixed word -/
  | free
  /-- a device step, which has no encoding -/
  | event
  deriving DecidableEq, Repr

/-- Integer types (R87). -/
def tInt : List Nat := [1, 2, 3, 4, 5, 6, 7, 8]
/-- IEEE types (R87). -/
def tFloat : List Nat := [9, 10, 11, 12]
/-- Integer and IEEE types. -/
def tNum : List Nat := [1, 2, 3, 4, 5, 6, 7, 8, 9, 10, 11, 12]
/-- Every element type but `.q36`. -/
def tAny : List Nat := [1, 2, 3, 4, 5, 6, 7, 8, 9, 10, 11, 12, 13]
/-- BF16, FP16 and FP32 (R323). -/
def tShort : List Nat := [9, 10, 11]

/-- The numbers of R124 and R456 that name a control register. -/
def csrAssigned (n : Nat) : Bool :=
  decide (n ≤ 0x0C) || (decide (0x10 ≤ n) && decide (n ≤ 0x12)) ||
  (decide (0x20 ≤ n) && decide (n ≤ 0x24)) || (decide (0x28 ≤ n) && decide (n ≤ 0x2B))

/-- Registers that are read-only at every level: `seat`, `ncl`, `tick`, `tgb` (R124). -/
def csrReadOnly (n : Nat) : Bool := n = 0x09 || n = 0x0A || n = 0x10 || n = 0x11

/-- The shape of each instruction: the encoding tables of the instruction chapters. -/
def Instr.shape : Instr → Shape
  | .addReg _ => { d := .s, a := .s, b := .s }
  | .subReg _ => { d := .s, a := .s, b := .s }
  | .andReg _ => { d := .s, a := .s, b := .s }
  | .orReg _ => { d := .s, a := .s, b := .s }
  | .xorReg _ => { d := .s, a := .s, b := .s }
  | .andnReg _ => { d := .s, a := .s, b := .s }
  | .shlReg _ => { d := .s, a := .s, b := .s }
  | .shrReg _ => { d := .s, a := .s, b := .s }
  | .sraReg _ => { d := .s, a := .s, b := .s }
  | .rotReg _ => { d := .s, a := .s, b := .s }
  | .minReg _ => { d := .s, a := .s, b := .s }
  | .maxReg _ => { d := .s, a := .s, b := .s }
  | .minN64Reg _ => { d := .s, a := .s, b := .s }
  | .maxN64Reg _ => { d := .s, a := .s, b := .s }
  | .addImm _ => { d := .s, a := .s, imm := .any }
  | .subImm _ => { d := .s, a := .s, imm := .any }
  | .andImm _ => { d := .s, a := .s, imm := .any }
  | .orImm _ => { d := .s, a := .s, imm := .any }
  | .xorImm _ => { d := .s, a := .s, imm := .any }
  | .andnImm _ => { d := .s, a := .s, imm := .any }
  | .shlImm _ => { d := .s, a := .s, imm := .lt64 }
  | .shrImm _ => { d := .s, a := .s, imm := .lt64 }
  | .sraImm _ => { d := .s, a := .s, imm := .lt64 }
  | .rotImm _ => { d := .s, a := .s, imm := .lt64 }
  | .minImm _ => { d := .s, a := .s, imm := .any }
  | .maxImm _ => { d := .s, a := .s, imm := .any }
  | .minN64Imm _ => { d := .s, a := .s, imm := .any }
  | .maxN64Imm _ => { d := .s, a := .s, imm := .any }
  | .li _ => { }
  | .lea _ => { }
  | .lih _ => { }
  | .mul _ => { d := .s, a := .s, b := .s }
  | .mulh _ => { d := .s, a := .s, b := .s, types := [4, 8] }
  | .div _ => { d := .s, a := .s, b := .s, types := [4, 8] }
  | .rem _ => { d := .s, a := .s, b := .s, types := [4, 8] }
  | .fadd _ => { d := .s, a := .s, b := .s, types := [11, 12] }
  | .fsub _ => { d := .s, a := .s, b := .s, types := [11, 12] }
  | .fmul _ => { d := .s, a := .s, b := .s, types := [11, 12] }
  | .fdiv _ => { d := .s, a := .s, b := .s, types := [11, 12] }
  | .fma _ => { d := .s, a := .s, b := .s, c := .s, types := [11, 12] }
  | .fcvt _ => { d := .s, a := .s, types := [4, 8, 11, 12], imm := .cvt4 }
  | .clz _ => { d := .s, a := .s }
  | .ctz _ => { d := .s, a := .s }
  | .popc _ => { d := .s, a := .s }
  | .sextS8 _ => { d := .s, a := .s }
  | .sextS16 _ => { d := .s, a := .s }
  | .sextS32 _ => { d := .s, a := .s }
  | .zextN8 _ => { d := .s, a := .s }
  | .zextN16 _ => { d := .s, a := .s }
  | .zextN32 _ => { d := .s, a := .s }
  | .cmp _ => { d := .s, a := .s, b := .s, types := [4, 8] }
  | .setEq _ => { d := .s, a := .s, b := .s }
  | .setNe _ => { d := .s, a := .s, b := .s }
  | .setLt _ => { d := .s, a := .s, b := .s, types := [4, 8] }
  | .setGe _ => { d := .s, a := .s, b := .s, types := [4, 8] }
  | .fcmpEq _ => { d := .s, a := .s, b := .s, types := [11, 12] }
  | .fcmpLt _ => { d := .s, a := .s, b := .s, types := [11, 12] }
  | .fcmpLe _ => { d := .s, a := .s, b := .s, types := [11, 12] }
  | .fcmpUn _ => { d := .s, a := .s, b := .s, types := [11, 12] }
  | .ld _ => { d := .s, a := .s, types := [1, 2, 3, 5, 6, 7, 8], imm := .any }
  | .ldAcq _ => { d := .s, a := .s, types := [1, 2, 3, 5, 6, 7, 8], sub := 4, imm := .any }
  | .st _ => { a := .s, b := .s, types := [5, 6, 7, 8], imm := .any }
  | .stRel _ => { a := .s, b := .s, types := [5, 6, 7, 8], sub := 4, imm := .any }
  | .amoAdd _ => { d := .s, a := .s, b := .s, c := .st, types := [3, 4, 7, 8], sub := 1, imm := .amo }
  | .amoFadd _ => { d := .s, a := .s, b := .s, c := .st, types := [11, 12], sub := 1, imm := .amo }
  | .amoAnd _ => { d := .s, a := .s, b := .s, c := .st, types := [7, 8], sub := 1, imm := .amo }
  | .amoOr _ => { d := .s, a := .s, b := .s, c := .st, types := [7, 8], sub := 1, imm := .amo }
  | .amoXor _ => { d := .s, a := .s, b := .s, c := .st, types := [7, 8], sub := 1, imm := .amo }
  | .amoMin _ => { d := .s, a := .s, b := .s, c := .st, types := [3, 4, 7, 8], sub := 1, imm := .amo }
  | .amoMax _ => { d := .s, a := .s, b := .s, c := .st, types := [3, 4, 7, 8], sub := 1, imm := .amo }
  | .amoSwap _ => { d := .s, a := .s, b := .s, c := .st, types := [7, 8], sub := 1, imm := .amo }
  | .amoCas _ => { d := .s, a := .s, b := .s, c := .st, types := [7, 8], sub := 1, imm := .amo }
  | .bEq _ => { a := .s, b := .s, imm := .any }
  | .bNe _ => { a := .s, b := .s, imm := .any }
  | .bLt _ => { a := .s, b := .s, imm := .any }
  | .bGe _ => { a := .s, b := .s, imm := .any }
  | .bLtN64 _ => { a := .s, b := .s, imm := .any }
  | .bGeN64 _ => { a := .s, b := .s, imm := .any }
  | .jmp _ => { c := .x, dl := .x, imm := .any }
  | .call _ => { d := .s, c := .x, dl := .x, imm := .any }
  | .jr _ => { d := .s, a := .s }
  | .csrr _ => { d := .s, imm := .csrr }
  | .csrw _ => { a := .s, imm := .csrw }
  | .csrs _ => { a := .s, imm := .csrw }
  | .csrc _ => { a := .s, imm := .csrw }
  | .trap _ => { arg := 31 }
  | .eret _ => { priv := 1 }
  | .wfe _ => { }
  | .fenceSv _ => { }
  | .fenceVs _ => { }
  | .fenceRel _ => { arg := 4 }
  | .fenceAcq _ => { arg := 4 }
  | .fenceFull _ => { arg := 4 }
  | .tick _ => { d := .s }
  | .waitt _ => { dl := .s }
  | .nbArr _ => { b := .s, dl := .s, imm := .nb }
  | .nbWait _ => { d := .s, c := .s, dl := .s, imm := .nb }
  | .nbSync _ => { d := .s, b := .s, c := .s, dl := .s, imm := .nb }
  | .nbJoin _ => { d := .s, imm := .nb }
  | .mtInit _ => { a := .s, b := .s, sub := 4, imm := .any, extra := .subpos }
  | .mtArr _ => { a := .s, b := .s, dl := .s }
  | .mtWait _ => { d := .s, a := .s, b := .s, c := .s, dl := .s }
  | .mtSync _ => { d := .s, a := .s, b := .s, c := .s, dl := .s }
  | .mtJoin _ => { d := .s, a := .s, b := .s }
  | .lkAcq _ => { d := .s, a := .s, b := .s, dl := .s }
  | .lkRel _ => { a := .s }
  | .lkMend _ => { a := .s }
  | .cbDef _ => { d := .s, a := .s, imm := .buf }
  | .cbClaim _ => { d := .s, c := .n, dl := .s, imm := .buf }
  | .cbFill _ => { a := .s, imm := .buf }
  | .recv _ => { d := .s, b := .s, c := .n, dl := .s, imm := .buf }
  | .cbFree _ => { a := .s, imm := .buf }
  | .cbSt _ => { d := .s, imm := .buf }
  | .chainDef _ => { d := .s, a := .s, imm := .g6 }
  | .chainPub _ => { a := .s, imm := .g6 }
  | .spawn _ => { d := .s, a := .s, c := .x, dl := .x, sub := 3, imm := .any }
  | .gdef _ => { d := .s, a := .s, b := .s, imm := .g4 }
  | .gstart _ => { d := .s, imm := .g4 }
  | .exit _ => { }
  | .yield _ => { }
  | .vsetl _ => { d := .s, a := .s }
  | .vsetlChained _ => { d := .s, a := .s, dl := .s, imm := .g6 }
  | .vnext _ => { d := .s }
  | .vcfg _ => { types := [1, 2, 3, 4, 5, 6, 7, 8, 9, 10, 11, 12, 13, 14], imm := .vcfg }
  | .vlanes _ => { d := .s }
  | .vgang _ => { d := .s, a := .s, b := .s, dl := .s }
  | .vadd _ => { d := .v, a := .v, b := .vsi, mask := true, types := tInt, sub := 2, imm := .sub2 }
  | .vsub _ => { d := .v, a := .v, b := .vsi, mask := true, types := tInt, sub := 2, imm := .sub2 }
  | .vrsub _ => { d := .v, a := .v, b := .vsi, mask := true, types := tInt, sub := 2, imm := .sub2 }
  | .vand _ => { d := .v, a := .v, b := .vsi, mask := true, types := tInt, sub := 2, imm := .sub2 }
  | .vor _ => { d := .v, a := .v, b := .vsi, mask := true, types := tInt, sub := 2, imm := .sub2 }
  | .vxor _ => { d := .v, a := .v, b := .vsi, mask := true, types := tInt, sub := 2, imm := .sub2 }
  | .vandn _ => { d := .v, a := .v, b := .vsi, mask := true, types := tInt, sub := 2, imm := .sub2 }
  | .vshl _ => { d := .v, a := .v, b := .vsi, mask := true, types := tInt, sub := 2, imm := .sub2 }
  | .vshr _ => { d := .v, a := .v, b := .vsi, mask := true, types := tInt, sub := 2, imm := .sub2 }
  | .vsra _ => { d := .v, a := .v, b := .vsi, mask := true, types := tInt, sub := 2, imm := .sub2 }
  | .vmin _ => { d := .v, a := .v, b := .vsi, mask := true, types := tInt, sub := 2, imm := .sub2 }
  | .vmax _ => { d := .v, a := .v, b := .vsi, mask := true, types := tInt, sub := 2, imm := .sub2 }
  | .vmul _ => { d := .v, a := .v, b := .vsi, mask := true, types := tInt, sub := 2, imm := .sub2 }
  | .vmulh _ => { d := .v, a := .v, b := .vsi, mask := true, types := tInt, sub := 2, imm := .sub2 }
  | .vadds _ => { d := .v, a := .v, b := .vsi, mask := true, types := tInt, sub := 2, imm := .sub2 }
  | .vsubs _ => { d := .v, a := .v, b := .vsi, mask := true, types := tInt, sub := 2, imm := .sub2 }
  | .vfadd _ => { d := .v, a := .v, b := .vs, mask := true, types := tFloat, sub := 1 }
  | .vfsub _ => { d := .v, a := .v, b := .vs, mask := true, types := tFloat, sub := 1 }
  | .vfmul _ => { d := .v, a := .v, b := .vs, mask := true, types := tFloat, sub := 1 }
  | .vfdiv _ => { d := .v, a := .v, b := .vs, mask := true, types := tFloat, sub := 1 }
  | .vfmin _ => { d := .v, a := .v, b := .vs, mask := true, types := tFloat, sub := 1 }
  | .vfmax _ => { d := .v, a := .v, b := .vs, mask := true, types := tFloat, sub := 1 }
  | .vfsqrt _ => { d := .v, a := .v, mask := true, types := tFloat }
  | .vfabs _ => { d := .v, a := .v, mask := true, types := tFloat }
  | .vfneg _ => { d := .v, a := .v, mask := true, types := tFloat }
  | .vfsgn _ => { d := .v, a := .v, b := .vs, mask := true, types := tFloat, sub := 1 }
  | .vfma _ => { d := .v, a := .v, b := .vs, mask := true, types := tFloat, sub := 1 }
  | .vfms _ => { d := .v, a := .v, b := .vs, mask := true, types := tFloat, sub := 1 }
  | .vfnma _ => { d := .v, a := .v, b := .vs, mask := true, types := tFloat, sub := 1 }
  | .vfnms _ => { d := .v, a := .v, b := .vs, mask := true, types := tFloat, sub := 1 }
  | .vmac _ => { d := .v, a := .v, b := .vs, mask := true, types := tInt, sub := 1 }
  | .vnmsc _ => { d := .v, a := .v, b := .vs, mask := true, types := tInt, sub := 1 }
  | .vcmpEq _ => { d := .m, a := .v, b := .vsi, mask := true, types := tNum, sub := 2, imm := .sub2, extra := .immInt }
  | .vcmpNe _ => { d := .m, a := .v, b := .vsi, mask := true, types := tNum, sub := 2, imm := .sub2, extra := .immInt }
  | .vcmpLt _ => { d := .m, a := .v, b := .vsi, mask := true, types := tNum, sub := 2, imm := .sub2, extra := .immInt }
  | .vcmpLe _ => { d := .m, a := .v, b := .vsi, mask := true, types := tNum, sub := 2, imm := .sub2, extra := .immInt }
  | .vcmpGt _ => { d := .m, a := .v, b := .vsi, mask := true, types := tNum, sub := 2, imm := .sub2, extra := .immInt }
  | .vcmpGe _ => { d := .m, a := .v, b := .vsi, mask := true, types := tNum, sub := 2, imm := .sub2, extra := .immInt }
  | .vcmpUn _ => { d := .m, a := .v, b := .vs, mask := true, types := tFloat, sub := 1 }
  | .vcvt _ => { d := .v, a := .v, mask := true, types := tNum, imm := .cvt12 }
  | .vqnt _ => { d := .v, a := .v, b := .v, mask := true, types := [13], imm := .ks }
  | .vdq _ => { d := .v, a := .v, b := .v, mask := true, types := tShort, imm := .k0 }
  | .vbsc _ => { d := .v, a := .v, mask := true, types := [13], imm := .ks }
  | .vfrcp _ => { d := .v, a := .v, mask := true, types := tShort }
  | .vfrsq _ => { d := .v, a := .v, mask := true, types := tShort }
  | .vfexp2 _ => { d := .v, a := .v, mask := true, types := tShort }
  | .vflog2 _ => { d := .v, a := .v, mask := true, types := tShort }
  | .vfexp _ => { d := .v, a := .v, mask := true, types := tShort }
  | .vftanh _ => { d := .v, a := .v, mask := true, types := tShort }
  | .vfsig _ => { d := .v, a := .v, mask := true, types := tShort }
  | .vrsum _ _ => { d := .v, a := .v, b := .v, mask := true, types := tNum }
  | .vrmin _ _ => { d := .v, a := .v, b := .v, mask := true, types := tNum }
  | .vrmax _ _ => { d := .v, a := .v, b := .v, mask := true, types := tNum }
  | .vrand _ _ => { d := .v, a := .v, b := .v, mask := true, types := tInt }
  | .vror _ _ => { d := .v, a := .v, b := .v, mask := true, types := tInt }
  | .vrxor _ _ => { d := .v, a := .v, b := .v, mask := true, types := tInt }
  | .vscanAdd _ => { d := .v, a := .v, b := .v, mask := true, types := tNum }
  | .vscanMin _ => { d := .v, a := .v, b := .v, mask := true, types := tNum }
  | .vscanMax _ => { d := .v, a := .v, b := .v, mask := true, types := tNum }
  | .vperm _ => { d := .v, a := .v, b := .v, mask := true, types := tAny }
  | .vslup _ => { d := .v, a := .v, b := .si, mask := true, types := tAny, sub := 2, imm := .sub2, extra := .subpos }
  | .vsldn _ => { d := .v, a := .v, b := .si, mask := true, types := tAny, sub := 2, imm := .sub2, extra := .subpos }
  | .vcomp _ => { d := .v, a := .v, mask := true, types := tAny }
  | .vexpd _ => { d := .v, a := .v, mask := true, types := tAny }
  | .vxchg _ => { d := .v, a := .v, mask := true, types := tAny }
  | .vmov _ => { d := .v, a := .v, mask := true, types := tAny }
  | .vbcast _ => { d := .v, a := .s, mask := true, types := tAny }
  | .vbcastImm _ => { d := .v, mask := true, types := tInt, sub := 2, imm := .any, extra := .subtwo }
  | .vidx _ => { d := .v, mask := true, types := tInt }
  | .vmerge _ => { d := .v, a := .v, b := .v, mask := true, types := tAny, extra := .masked }
  | .vgetx _ => { d := .s, a := .v, b := .s, types := tAny }
  | .vsetx _ => { d := .v, a := .s, b := .s, types := tAny }
  | .vm2v _ => { d := .v, a := .m, mask := true, types := tInt }
  | .mand _ => { d := .m, a := .m, b := .m }
  | .mor _ => { d := .m, a := .m, b := .m }
  | .mxor _ => { d := .m, a := .m, b := .m }
  | .mandn _ => { d := .m, a := .m, b := .m }
  | .mnot _ => { d := .m, a := .m }
  | .mset _ => { d := .m }
  | .mclr _ => { d := .m }
  | .mmov _ => { d := .m, a := .m }
  | .mpop _ => { d := .s, a := .m }
  | .mfirst _ => { d := .s, a := .m }
  | .qset _ => { d := .q, a := .s, b := .s }
  | .qsetImm _ => { d := .q, a := .s, imm := .any }
  | .qadv _ => { d := .q, a := .s }
  | .qinfo _ => { d := .s, a := .q }
  | .qinfoB _ => { d := .s, a := .q }
  | .qinfoS _ => { d := .s, a := .q }
  | .vld _ => { d := .v, a := .q, mask := true, types := tAny }
  | .vlds _ => { d := .v, a := .q, mask := true, types := tAny, imm := .nf }
  | .vpf _ => { a := .q, sub := 1, imm := .any }
  | .vst _ => { a := .q, b := .v, mask := true, types := tAny }
  | .vsts _ => { a := .q, b := .v, mask := true, types := tAny, imm := .nf }
  | .vldx _ => { d := .v, a := .q, b := .v, mask := true, types := tAny }
  | .vstx _ => { d := .v, a := .q, b := .v, mask := true, types := tAny }
  | .vamoAdd _ => { d := .v, a := .q, b := .v, mask := true, types := [3, 4, 7, 8], sub := 4, imm := .vamo }
  | .vamoFadd _ => { d := .v, a := .q, b := .v, mask := true, types := [11, 12], sub := 4, imm := .vamo }
  | .vamoAnd _ => { d := .v, a := .q, b := .v, mask := true, types := [7, 8], sub := 4, imm := .vamo }
  | .vamoOr _ => { d := .v, a := .q, b := .v, mask := true, types := [7, 8], sub := 4, imm := .vamo }
  | .vamoXor _ => { d := .v, a := .q, b := .v, mask := true, types := [7, 8], sub := 4, imm := .vamo }
  | .vamoMin _ => { d := .v, a := .q, b := .v, mask := true, types := [3, 4, 7, 8], sub := 4, imm := .vamo }
  | .vamoMax _ => { d := .v, a := .q, b := .v, mask := true, types := [3, 4, 7, 8], sub := 4, imm := .vamo }
  | .vamoSwap _ => { d := .v, a := .q, b := .v, mask := true, types := [7, 8], sub := 4, imm := .vamo }
  | .vamoCas _ => { d := .v, a := .q, b := .v, mask := true, types := [7, 8], sub := 4, imm := .vcas }
  | .vredAddIndexed _ => { d := .v, a := .q, b := .v, mask := true, types := [3, 4, 7, 8], sub := 4, imm := .vred }
  | .vredFaddIndexed _ => { d := .v, a := .q, b := .v, mask := true, types := [9, 11, 12], sub := 4, imm := .vred }
  | .vredAndIndexed _ => { d := .v, a := .q, b := .v, mask := true, types := [7, 8], sub := 4, imm := .vred }
  | .vredOrIndexed _ => { d := .v, a := .q, b := .v, mask := true, types := [7, 8], sub := 4, imm := .vred }
  | .vredXorIndexed _ => { d := .v, a := .q, b := .v, mask := true, types := [7, 8], sub := 4, imm := .vred }
  | .vredMinIndexed _ => { d := .v, a := .q, b := .v, mask := true, types := [3, 4, 7, 8], sub := 4, imm := .vred }
  | .vredMaxIndexed _ => { d := .v, a := .q, b := .v, mask := true, types := [3, 4, 7, 8], sub := 4, imm := .vred }
  | .vredAddStream _ => { d := .v, a := .q, mask := true, types := [3, 4, 7, 8], sub := 4, imm := .vred }
  | .vredFaddStream _ => { d := .v, a := .q, mask := true, types := [9, 11, 12], sub := 4, imm := .vred }
  | .vredAndStream _ => { d := .v, a := .q, mask := true, types := [7, 8], sub := 4, imm := .vred }
  | .vredOrStream _ => { d := .v, a := .q, mask := true, types := [7, 8], sub := 4, imm := .vred }
  | .vredXorStream _ => { d := .v, a := .q, mask := true, types := [7, 8], sub := 4, imm := .vred }
  | .vredMinStream _ => { d := .v, a := .q, mask := true, types := [3, 4, 7, 8], sub := 4, imm := .vred }
  | .vredMaxStream _ => { d := .v, a := .q, mask := true, types := [3, 4, 7, 8], sub := 4, imm := .vred }
  | .vldl _ => { d := .v, a := .s, mask := true, types := tAny }
  | .vldlIndexed _ => { d := .v, a := .s, b := .v, mask := true, types := tAny }
  | .vstl _ => { d := .v, a := .s, mask := true, types := tAny }
  | .vstlIndexed _ => { d := .v, a := .s, b := .v, mask := true, types := tAny }
  | .mwld _ => { d := .q, a := .s }
  | .mmla _ => { d := .v, mask := true }
  | .acz _ => { d := .v, mask := true }
  | .aci _ => { d := .v, a := .v, mask := true, types := [1, 2, 3, 5, 6, 7, 9, 10, 11] }
  | .aciAdd _ => { d := .v, a := .v, mask := true, types := [1, 2, 3, 5, 6, 7, 9, 10, 11] }
  | .aciSat _ => { d := .s, a := .v }
  | .acx _ => { d := .v, a := .v, b := .acxf, mask := true, types := [1, 2, 3, 5, 6, 7, 9, 10, 11, 13], imm := .acx }
  | .unfCfg _ => { d := .q, a := .q, b := .s }
  | .spwDrain _ => { }
  | .spwMode _ => { d := .s, a := .s, priv := 1 }
  | .spwSt _ => { d := .s }
  | .fmtLd _ => { d := .q, a := .s, imm := .any }
  | .fmtSt _ => { a := .s, b := .q, imm := .any }
  | .dld _ => { d := .q, a := .s, b := .s }
  | .dst _ => { a := .s, b := .q }
  | .tcopy _ => { d := .q, a := .q }
  | .tcopySh _ => { d := .q, a := .q }
  | .tcopyCb _ => { d := .s, a := .q, b := .q, c := .s, dl := .s, imm := .buf }
  | .pub _ => { d := .s, a := .q, sub := 4 }
  | .tcReg _ => { d := .s, a := .q, b := .s, imm := .lt3 }
  | .tcDrop _ => { d := .s, a := .s }
  | .tcPf _ => { a := .s, imm := .le8 }
  | .tcHalo _ => { a := .s, b := .s, imm := .halo }
  | .tcInv _ => { d := .s, a := .s }
  | .tcCln _ => { d := .s, a := .s }
  | .mgrpDef _ => { d := .s, a := .s, imm := .g6 }
  | .mgrpDrop _ => { d := .s, imm := .g6 }
  | .mldRed _ => { d := .v, a := .v, b := .s, c := .s, dl := .s, types := tShort, imm := .g6 }
  | .mst _ => { d := .s, a := .s, b := .v, mask := true, types := tAny, imm := .g6 }
  | .mgrpJoin _ => { d := .s, imm := .g6 }
  | .bwl _ => { d := .s, a := .s, b := .s, imm := .lease }
  | .bwr _ => { d := .s, imm := .g4 }
  | .bwq _ => { d := .s, imm := .g4 }
  | .bwqD _ => { d := .s, imm := .le9 }
  | .rtOpen _ => { d := .s, a := .s, b := .s }
  | .rtOpenRx _ => { d := .s, a := .s, imm := .buf }
  | .rtAdd _ => { d := .s, a := .s, b := .s }
  | .rtGo _ => { d := .s }
  | .rtRecv _ => { d := .s, b := .s, dl := .s, imm := .rtn }
  | .rtStat _ => { d := .s, a := .s }
  | .rtClose _ => { d := .s }
  | .rtCloseRx _ => { d := .s, imm := .buf }
  | .flmRd _ => { d := .s, a := .s, imm := .lt32 }
  | .flmSeal _ => { d := .s, a := .s, priv := 1 }
  | .dgst _ => { d := .s, a := .s, b := .s }
  | .prtNew _ => { d := .s, a := .s, b := .s, priv := 2 }
  | .prtAsg _ => { d := .s, a := .s, b := .s, priv := 2 }
  | .prtStop _ => { d := .s, a := .s, priv := 2 }
  | .prtKill _ => { d := .s, a := .s, b := .s, priv := 2 }
  | .prtSt _ => { d := .s, a := .s, priv := 2 }
  | .scbGo _ => { d := .s, a := .s, b := .s, priv := 2 }
  | .scbSt _ => { d := .s, a := .s, priv := 2 }
  | .keyLd _ => { d := .s, a := .s, b := .s, priv := 2 }
  | .keyZ _ => { d := .s, a := .s, priv := 2 }
  | .ckpGo _ => { d := .s, a := .s, priv := 2 }
  | .ckpSt _ => { d := .s, a := .s, priv := 2 }
  | .ckpRb _ => { d := .s, a := .s, priv := 2 }
  | .nop => { }
  | .hint _ => { }
  | .atomicAnswer _ => { }
  | .registerWrite _ _ => { }
  | .vcfgWrite _ => { }
  | .vlWrite _ => { }
  | .fpsWrite _ => { }
  | .whzWrite _ => { }
  | .lprWrite _ => { }
  | .lprTakeEffect _ _ => { }
  | .spwmodeWrite _ => { }
  | .spwstWrite _ => { }
  | .wptWrite _ _ => { }
  | .wfeWake _ => { }
  | .waittCompletion _ => { }
  | .meetingInitAtHome _ => { }
  | .meetingArrivalAtHome _ => { }
  | .meetingCloseDeadline _ => { }
  | .meetingWaitGiveUp _ _ => { }
  | .meetingJoinAtHome _ => { }
  | .verdictReceived _ => { }
  | .homeAckReceived _ _ _ => { }
  | .homeLossTimeout _ => { }
  | .lockAcquireAtHome _ => { }
  | .lockReleaseAtHome _ => { }
  | .lockMendAtHome _ => { }
  | .lockHoldLapse _ => { }
  | .lockAcquireTimeout _ _ => { }
  | .bufferClaimAtHome _ => { }
  | .bufferFillAtHome _ => { }
  | .bufferRecvAtHome _ => { }
  | .bufferFreeAtHome _ => { }
  | .slotHoleConversion _ _ _ => { }
  | .claimTimeout _ _ _ => { }
  | .recvTimeout _ _ _ => { }
  | .chainPubAtHome _ => { }
  | .chainReadTimeout _ _ _ => { }
  | .stageFiring _ => { }
  | .spawnPlacement _ => { }
  | .stageAging _ _ _ => { }
  | .vectorIssue _ _ _ => { }
  | .copyHandoff _ => { }
  | .copyCompletion _ => { }
  | .copyFaultDelivery _ => { }
  | .reductionPartial _ _ _ _ => { }
  | .reductionResult _ _ _ => { }
  | .leaseDrainComplete _ _ => { }
  | .leaseRequestAtPeer _ _ => { }
  | .leaseReleaseNotice _ _ => { }
  | .leaseGrant _ _ _ => { }
  | .leaseTerm _ _ => { }
  | .leaseRevocation _ _ => { }
  | .leaseReversionComplete _ _ => { }
  | .starvationReclaim _ => { }
  | .routingItemDelivery _ => { }
  | .routingAnswer _ _ _ _ => { }
  | .meterSnapshot => { }
  | .scrubBlock _ => { }
  | .checkpointCommitAck _ _ => { }
  | .checkpointTimeout _ => { }
  | .uncontainedError _ => { }
  | .preemption _ => { }
  | .sliceEnd _ _ => { }
  | .contextRestore _ _ => { }
  | .clusterRetirement _ => { }
  | .rotationSet _ _ _ => { }
  | .notify _ _ _ => { }
  | .hostMemoryRequest _ _ _ _ _ => { }
  | .hostCompletion _ _ _ => { }
  | .requestTimeout _ => { }
  | .fabricRequest _ => { }
  | .fabricAnswer _ => { }
  | .busyRetry _ => { }
  | .shootdownAck _ _ => { }
  | .migrationStart _ _ => { }
  | .migrationSwitch _ => { }
  | .migrationDone _ => { }
  | .linkTraining _ _ _ _ _ _ => { }
  | .flitReceived _ _ => { }
  | .replayTimeout _ => { }
  | .linkDown _ => { }
  | .idleFlit _ => { }
  | .escapeMove _ => { }
  | .timeFlitExchange => { }
  | .timeFlitAnswer _ _ _ => { }
  | .ppsPulse => { }
  | .referenceLost => { }
  | .referenceAcquired => { }
  | .functionLevelReset _ => { }
  | .deviceReset => { }
  | .lifeCycleChange _ _ => { }
  | .spdmGetMeasurements _ _ _ => { }
  | .thermalThrottle _ => { }
  | .thermalShutdown => { }
  | .coolingRestored => { }
  | .tdispRequest _ _ => { }
  | .incarnationNotice _ _ _ => { }
  | .beatLend _ _ _ => { }

/-- The operand fields of an encoded instruction; none for a device step. -/
def Instr.fields : Instr → Fields
  | .addReg f => .h1 f
  | .subReg f => .h1 f
  | .andReg f => .h1 f
  | .orReg f => .h1 f
  | .xorReg f => .h1 f
  | .andnReg f => .h1 f
  | .shlReg f => .h1 f
  | .shrReg f => .h1 f
  | .sraReg f => .h1 f
  | .rotReg f => .h1 f
  | .minReg f => .h1 f
  | .maxReg f => .h1 f
  | .minN64Reg f => .h1 f
  | .maxN64Reg f => .h1 f
  | .addImm f => .h3 f
  | .subImm f => .h3 f
  | .andImm f => .h3 f
  | .orImm f => .h3 f
  | .xorImm f => .h3 f
  | .andnImm f => .h3 f
  | .shlImm f => .h3 f
  | .shrImm f => .h3 f
  | .sraImm f => .h3 f
  | .rotImm f => .h3 f
  | .minImm f => .h3 f
  | .maxImm f => .h3 f
  | .minN64Imm f => .h3 f
  | .maxN64Imm f => .h3 f
  | .li f => .wide f
  | .lea f => .wide f
  | .lih f => .wide f
  | .mul f => .h3 f
  | .mulh f => .h3 f
  | .div f => .h3 f
  | .rem f => .h3 f
  | .fadd f => .h3 f
  | .fsub f => .h3 f
  | .fmul f => .h3 f
  | .fdiv f => .h3 f
  | .fma f => .h3 f
  | .fcvt f => .h3 f
  | .clz f => .h1 f
  | .ctz f => .h1 f
  | .popc f => .h1 f
  | .sextS8 f => .h1 f
  | .sextS16 f => .h1 f
  | .sextS32 f => .h1 f
  | .zextN8 f => .h1 f
  | .zextN16 f => .h1 f
  | .zextN32 f => .h1 f
  | .cmp f => .h2 f
  | .setEq f => .h2 f
  | .setNe f => .h2 f
  | .setLt f => .h2 f
  | .setGe f => .h2 f
  | .fcmpEq f => .h2 f
  | .fcmpLt f => .h2 f
  | .fcmpLe f => .h2 f
  | .fcmpUn f => .h2 f
  | .ld f => .h3 f
  | .ldAcq f => .h3 f
  | .st f => .h3 f
  | .stRel f => .h3 f
  | .amoAdd f => .h3 f
  | .amoFadd f => .h3 f
  | .amoAnd f => .h3 f
  | .amoOr f => .h3 f
  | .amoXor f => .h3 f
  | .amoMin f => .h3 f
  | .amoMax f => .h3 f
  | .amoSwap f => .h3 f
  | .amoCas f => .h3 f
  | .bEq f => .h3 f
  | .bNe f => .h3 f
  | .bLt f => .h3 f
  | .bGe f => .h3 f
  | .bLtN64 f => .h3 f
  | .bGeN64 f => .h3 f
  | .jmp f => .h3 f
  | .call f => .h3 f
  | .jr f => .h3 f
  | .csrr f => .h2 f
  | .csrw f => .h2 f
  | .csrs f => .h2 f
  | .csrc f => .h2 f
  | .trap f => .h0 f
  | .eret f => .h0 f
  | .wfe f => .h0 f
  | .fenceSv f => .h0 f
  | .fenceVs f => .h0 f
  | .fenceRel f => .h0 f
  | .fenceAcq f => .h0 f
  | .fenceFull f => .h0 f
  | .tick f => .h3 f
  | .waitt f => .h3 f
  | .nbArr f => .h3 f
  | .nbWait f => .h3 f
  | .nbSync f => .h3 f
  | .nbJoin f => .h3 f
  | .mtInit f => .h3 f
  | .mtArr f => .h3 f
  | .mtWait f => .h3 f
  | .mtSync f => .h3 f
  | .mtJoin f => .h3 f
  | .lkAcq f => .h3 f
  | .lkRel f => .h3 f
  | .lkMend f => .h3 f
  | .cbDef f => .h3 f
  | .cbClaim f => .h3 f
  | .cbFill f => .h3 f
  | .recv f => .h3 f
  | .cbFree f => .h3 f
  | .cbSt f => .h3 f
  | .chainDef f => .h3 f
  | .chainPub f => .h3 f
  | .spawn f => .h3 f
  | .gdef f => .h3 f
  | .gstart f => .h3 f
  | .exit f => .h3 f
  | .yield f => .h3 f
  | .vsetl f => .h3 f
  | .vsetlChained f => .h3 f
  | .vnext f => .h3 f
  | .vcfg f => .h3 f
  | .vlanes f => .h3 f
  | .vgang f => .h3 f
  | .vadd f => .h2 f
  | .vsub f => .h2 f
  | .vrsub f => .h2 f
  | .vand f => .h2 f
  | .vor f => .h2 f
  | .vxor f => .h2 f
  | .vandn f => .h2 f
  | .vshl f => .h2 f
  | .vshr f => .h2 f
  | .vsra f => .h2 f
  | .vmin f => .h2 f
  | .vmax f => .h2 f
  | .vmul f => .h2 f
  | .vmulh f => .h2 f
  | .vadds f => .h2 f
  | .vsubs f => .h2 f
  | .vfadd f => .h2 f
  | .vfsub f => .h2 f
  | .vfmul f => .h2 f
  | .vfdiv f => .h2 f
  | .vfmin f => .h2 f
  | .vfmax f => .h2 f
  | .vfsqrt f => .h2 f
  | .vfabs f => .h2 f
  | .vfneg f => .h2 f
  | .vfsgn f => .h2 f
  | .vfma f => .h2 f
  | .vfms f => .h2 f
  | .vfnma f => .h2 f
  | .vfnms f => .h2 f
  | .vmac f => .h2 f
  | .vnmsc f => .h2 f
  | .vcmpEq f => .h2 f
  | .vcmpNe f => .h2 f
  | .vcmpLt f => .h2 f
  | .vcmpLe f => .h2 f
  | .vcmpGt f => .h2 f
  | .vcmpGe f => .h2 f
  | .vcmpUn f => .h2 f
  | .vcvt f => .h2 f
  | .vqnt f => .h2 f
  | .vdq f => .h2 f
  | .vbsc f => .h2 f
  | .vfrcp f => .h2 f
  | .vfrsq f => .h2 f
  | .vfexp2 f => .h2 f
  | .vflog2 f => .h2 f
  | .vfexp f => .h2 f
  | .vftanh f => .h2 f
  | .vfsig f => .h2 f
  | .vrsum f _ => .h2 f
  | .vrmin f _ => .h2 f
  | .vrmax f _ => .h2 f
  | .vrand f _ => .h2 f
  | .vror f _ => .h2 f
  | .vrxor f _ => .h2 f
  | .vscanAdd f => .h2 f
  | .vscanMin f => .h2 f
  | .vscanMax f => .h2 f
  | .vperm f => .h2 f
  | .vslup f => .h2 f
  | .vsldn f => .h2 f
  | .vcomp f => .h2 f
  | .vexpd f => .h2 f
  | .vxchg f => .h2 f
  | .vmov f => .h2 f
  | .vbcast f => .h2 f
  | .vbcastImm f => .h2 f
  | .vidx f => .h2 f
  | .vmerge f => .h2 f
  | .vgetx f => .h2 f
  | .vsetx f => .h2 f
  | .vm2v f => .h2 f
  | .mand f => .h1 f
  | .mor f => .h1 f
  | .mxor f => .h1 f
  | .mandn f => .h1 f
  | .mnot f => .h1 f
  | .mset f => .h1 f
  | .mclr f => .h1 f
  | .mmov f => .h1 f
  | .mpop f => .h1 f
  | .mfirst f => .h1 f
  | .qset f => .h2 f
  | .qsetImm f => .h2 f
  | .qadv f => .h2 f
  | .qinfo f => .h2 f
  | .qinfoB f => .h2 f
  | .qinfoS f => .h2 f
  | .vld f => .h2 f
  | .vlds f => .h2 f
  | .vpf f => .h2 f
  | .vst f => .h2 f
  | .vsts f => .h2 f
  | .vldx f => .h2 f
  | .vstx f => .h2 f
  | .vamoAdd f => .h2 f
  | .vamoFadd f => .h2 f
  | .vamoAnd f => .h2 f
  | .vamoOr f => .h2 f
  | .vamoXor f => .h2 f
  | .vamoMin f => .h2 f
  | .vamoMax f => .h2 f
  | .vamoSwap f => .h2 f
  | .vamoCas f => .h2 f
  | .vredAddIndexed f => .h2 f
  | .vredFaddIndexed f => .h2 f
  | .vredAndIndexed f => .h2 f
  | .vredOrIndexed f => .h2 f
  | .vredXorIndexed f => .h2 f
  | .vredMinIndexed f => .h2 f
  | .vredMaxIndexed f => .h2 f
  | .vredAddStream f => .h2 f
  | .vredFaddStream f => .h2 f
  | .vredAndStream f => .h2 f
  | .vredOrStream f => .h2 f
  | .vredXorStream f => .h2 f
  | .vredMinStream f => .h2 f
  | .vredMaxStream f => .h2 f
  | .vldl f => .h2 f
  | .vldlIndexed f => .h2 f
  | .vstl f => .h2 f
  | .vstlIndexed f => .h2 f
  | .mwld f => .h2 f
  | .mmla f => .h2 f
  | .acz f => .h2 f
  | .aci f => .h2 f
  | .aciAdd f => .h2 f
  | .aciSat f => .h2 f
  | .acx f => .h2 f
  | .unfCfg f => .h2 f
  | .spwDrain f => .h1 f
  | .spwMode f => .h1 f
  | .spwSt f => .h1 f
  | .fmtLd f => .h2 f
  | .fmtSt f => .h2 f
  | .dld f => .h2 f
  | .dst f => .h2 f
  | .tcopy f => .h3 f
  | .tcopySh f => .h3 f
  | .tcopyCb f => .h3 f
  | .pub f => .h1 f
  | .tcReg f => .h3 f
  | .tcDrop f => .h3 f
  | .tcPf f => .h3 f
  | .tcHalo f => .h3 f
  | .tcInv f => .h3 f
  | .tcCln f => .h3 f
  | .mgrpDef f => .h3 f
  | .mgrpDrop f => .h3 f
  | .mldRed f => .h3 f
  | .mst f => .h3 f
  | .mgrpJoin f => .h3 f
  | .bwl f => .h3 f
  | .bwr f => .h3 f
  | .bwq f => .h3 f
  | .bwqD f => .h3 f
  | .rtOpen f => .h3 f
  | .rtOpenRx f => .h3 f
  | .rtAdd f => .h3 f
  | .rtGo f => .h3 f
  | .rtRecv f => .h3 f
  | .rtStat f => .h3 f
  | .rtClose f => .h3 f
  | .rtCloseRx f => .h3 f
  | .flmRd f => .h2 f
  | .flmSeal f => .h2 f
  | .dgst f => .h2 f
  | .prtNew f => .h3 f
  | .prtAsg f => .h3 f
  | .prtStop f => .h3 f
  | .prtKill f => .h3 f
  | .prtSt f => .h3 f
  | .scbGo f => .h2 f
  | .scbSt f => .h2 f
  | .keyLd f => .h2 f
  | .keyZ f => .h2 f
  | .ckpGo f => .h3 f
  | .ckpSt f => .h3 f
  | .ckpRb f => .h3 f
  | .nop => .free
  | .hint h => .hint h
  | .atomicAnswer _ => .event
  | .registerWrite _ _ => .event
  | .vcfgWrite _ => .event
  | .vlWrite _ => .event
  | .fpsWrite _ => .event
  | .whzWrite _ => .event
  | .lprWrite _ => .event
  | .lprTakeEffect _ _ => .event
  | .spwmodeWrite _ => .event
  | .spwstWrite _ => .event
  | .wptWrite _ _ => .event
  | .wfeWake _ => .event
  | .waittCompletion _ => .event
  | .meetingInitAtHome _ => .event
  | .meetingArrivalAtHome _ => .event
  | .meetingCloseDeadline _ => .event
  | .meetingWaitGiveUp _ _ => .event
  | .meetingJoinAtHome _ => .event
  | .verdictReceived _ => .event
  | .homeAckReceived _ _ _ => .event
  | .homeLossTimeout _ => .event
  | .lockAcquireAtHome _ => .event
  | .lockReleaseAtHome _ => .event
  | .lockMendAtHome _ => .event
  | .lockHoldLapse _ => .event
  | .lockAcquireTimeout _ _ => .event
  | .bufferClaimAtHome _ => .event
  | .bufferFillAtHome _ => .event
  | .bufferRecvAtHome _ => .event
  | .bufferFreeAtHome _ => .event
  | .slotHoleConversion _ _ _ => .event
  | .claimTimeout _ _ _ => .event
  | .recvTimeout _ _ _ => .event
  | .chainPubAtHome _ => .event
  | .chainReadTimeout _ _ _ => .event
  | .stageFiring _ => .event
  | .spawnPlacement _ => .event
  | .stageAging _ _ _ => .event
  | .vectorIssue _ _ _ => .event
  | .copyHandoff _ => .event
  | .copyCompletion _ => .event
  | .copyFaultDelivery _ => .event
  | .reductionPartial _ _ _ _ => .event
  | .reductionResult _ _ _ => .event
  | .leaseDrainComplete _ _ => .event
  | .leaseRequestAtPeer _ _ => .event
  | .leaseReleaseNotice _ _ => .event
  | .leaseGrant _ _ _ => .event
  | .leaseTerm _ _ => .event
  | .leaseRevocation _ _ => .event
  | .leaseReversionComplete _ _ => .event
  | .starvationReclaim _ => .event
  | .routingItemDelivery _ => .event
  | .routingAnswer _ _ _ _ => .event
  | .meterSnapshot => .event
  | .scrubBlock _ => .event
  | .checkpointCommitAck _ _ => .event
  | .checkpointTimeout _ => .event
  | .uncontainedError _ => .event
  | .preemption _ => .event
  | .sliceEnd _ _ => .event
  | .contextRestore _ _ => .event
  | .clusterRetirement _ => .event
  | .rotationSet _ _ _ => .event
  | .notify _ _ _ => .event
  | .hostMemoryRequest _ _ _ _ _ => .event
  | .hostCompletion _ _ _ => .event
  | .requestTimeout _ => .event
  | .fabricRequest _ => .event
  | .fabricAnswer _ => .event
  | .busyRetry _ => .event
  | .shootdownAck _ _ => .event
  | .migrationStart _ _ => .event
  | .migrationSwitch _ => .event
  | .migrationDone _ => .event
  | .linkTraining _ _ _ _ _ _ => .event
  | .flitReceived _ _ => .event
  | .replayTimeout _ => .event
  | .linkDown _ => .event
  | .idleFlit _ => .event
  | .escapeMove _ => .event
  | .timeFlitExchange => .event
  | .timeFlitAnswer _ _ _ => .event
  | .ppsPulse => .event
  | .referenceLost => .event
  | .referenceAcquired => .event
  | .functionLevelReset _ => .event
  | .deviceReset => .event
  | .lifeCycleChange _ _ => .event
  | .spdmGetMeasurements _ _ _ => .event
  | .thermalThrottle _ => .event
  | .thermalShutdown => .event
  | .coolingRestored => .event
  | .tdispRequest _ _ => .event
  | .incarnationNotice _ _ _ => .event
  | .beatLend _ _ _ => .event

/-- A register field holds a value its kind allows (R85, R91 check 5 and 6). -/
def kindOk (k : Kind) (sub ty v : Nat) : Bool :=
  match k with
  | .none => v = 0
  | .s | .v | .x | .vs => decide (v < 32)
  | .m => decide (v < 8)
  | .q => decide (v < 16)
  | .st => sub % 2 = 1 || v = 0
  | .n => decide (1 ≤ v)
  | .vsi | .si => sub ≠ 2 || v = 0
  | .acxf => if ty = 13 then decide (v < 16) else v = 0

/-- The ordering and scope of an atomic: relaxed has scope 0 (R116, R249). -/
def orderOk (order scope : Nat) : Bool := decide (scope ≤ 4) && (order ≠ 0 || scope = 0)

/-- An immediate field obeys its instruction's rule; `sub` and `ty` are the other fields the rule reads. -/
def immOk (k : ImmKind) (sub ty v : Nat) : Bool :=
  match k with
  | .zero => v = 0
  | .any => true
  | .lt64 | .g6 => decide (v < 64)
  | .cvt4 => (v = 4 || v = 8 || v = 11 || v = 12) && v ≠ ty
  | .cvt12 => decide (1 ≤ v) && decide (v ≤ 12) && v ≠ ty
  | .ks => decide (1 ≤ v % 16) && decide (v % 16 ≤ 12)
  | .k0 => v % 16 = 0
  | .amo => decide (v < 32) && orderOk (v / 8) (v % 8)
  | .vamo => v % 64 = 0 && orderOk (v / 64) sub
  | .vcas => v / 32 % 2 = 0 && orderOk (v / 64) sub
  | .vred => v % 64 = 0 && orderOk (v / 64) sub && (v / 64) % 2 = 0
  | .csrr => csrAssigned v
  | .csrw => csrAssigned v && !csrReadOnly v
  | .nb => decide (v < 48)
  | .buf => decide (v < 256)
  | .g4 => decide (v < 16)
  | .vcfg => decide (v < 32) && decide (v / 4 ≤ 4)
  | .sub2 => sub = 2 || v = 0
  | .nf => decide (2 ≤ v) && decide (v ≤ 8)
  | .acx => v / 32 % 2 = 0 &&
      (v % 32 = 0 || (if decide (ty ≤ 8) then decide (v < 128) else decide (128 ≤ v)))
  | .lt3 => decide (v < 3)
  | .le8 => decide (v ≤ 8)
  | .le9 => decide (v ≤ 9)
  | .halo => decide (v < 4096)
  | .lease => decide (v < 256) && decide (v % 16 ≤ 9) && decide (v / 16 ≤ 9) && v % 16 ≠ v / 16
  | .rtn => decide (256 ≤ v)
  | .lt32 => decide (v < 32)

/-- MASK is not reserved, and is zero where the instruction takes no mask (R86). -/
def maskOk (allowed : Bool) (m : Nat) : Bool := m = 0 || (allowed && decide (4 ≤ m))

/-- The conditions of `Extra`. -/
def extraOk (e : Extra) (sub mask ty : Nat) : Bool :=
  match e with
  | .none => true
  | .subpos => decide (0 < sub)
  | .subtwo => sub = 2
  | .masked => mask ≠ 0
  | .immInt => sub ≠ 2 || decide (ty ≤ 8)

/-- Checks 4 to 6 of R91 for the fields of an instruction of shape `p`. -/
def fieldsOk (p : Shape) : Fields → Bool
  | .h0 f => decide (f.arg.toNat ≤ p.arg)
  | .h1 f => decide (f.sub.toNat ≤ p.sub) && kindOk p.d f.sub.toNat 0 f.d.toNat &&
      kindOk p.a f.sub.toNat 0 f.a.toNat && kindOk p.b f.sub.toNat 0 f.b.toNat
  | .h2 f => decide (f.sub.toNat ≤ p.sub) && kindOk p.d f.sub.toNat f.ty.toNat f.d.toNat &&
      kindOk p.a f.sub.toNat f.ty.toNat f.a.toNat && kindOk p.b f.sub.toNat f.ty.toNat f.b.toNat &&
      maskOk p.mask f.mask.toNat && p.types.contains f.ty.toNat &&
      immOk p.imm f.sub.toNat f.ty.toNat f.imm.toNat && extraOk p.extra f.sub.toNat f.mask.toNat f.ty.toNat
  | .h3 f => decide (f.sub.toNat ≤ p.sub) && kindOk p.d f.sub.toNat f.ty.toNat f.d.toNat &&
      kindOk p.a f.sub.toNat f.ty.toNat f.a.toNat && kindOk p.b f.sub.toNat f.ty.toNat f.b.toNat &&
      kindOk p.c f.sub.toNat f.ty.toNat f.c.toNat && kindOk p.dl f.sub.toNat f.ty.toNat f.dl.toNat &&
      maskOk p.mask f.mask.toNat && p.types.contains f.ty.toNat &&
      immOk p.imm f.sub.toNat f.ty.toNat f.imm.toNat && extraOk p.extra f.sub.toNat f.mask.toNat f.ty.toNat
  | .wide f => f.sub = 0
  | .hint _ => true
  | .free => true
  | .event => true

/-- The hint word of `nop` is written `nop` alone, a hint's unused tail bits are zero, and `lih` leaves IMM44[43:20]
zero (R94, R102); every other instruction has no condition of this kind. -/
def Instr.special : Instr → Bool
  | .hint h => (h.ha ≠ 0 || h.tl ≠ 0) && decide (h.tail.toNat < 2 ^ (16 * h.tl.toNat))
  | .lih f => decide (f.imm.toNat < 2 ^ 20)
  | .vbcast f => f.sub = 0
  | _ => true

/-- An instruction that `encode` can write and the decoder accepts. A device step has no encoding and is well formed
as it stands. -/
def Instr.wf (i : Instr) : Bool := fieldsOk i.shape i.fields && i.special

end Sys2Proof
end

