-- ==== Sys2Proof/Decode.lean ====
section
/-! DEFINITION. Decoding: heads and tails to instructions (R79 to R91), lines (R73 to R75), and the encoder. -/
namespace Sys2Proof

/-- Why a head is no instruction (R91, checks 2 to 6). -/
inductive DecErr where
  /-- check 2: a major that is never an instruction -/
  | reservedMajor
  /-- check 3: a TL that the major does not take -/
  | tailLength
  /-- check 4: no such (SUB, FN) -/
  | noSuchIdentity
  /-- checks 5 and 6: a field out of range, or an unused field that is not zero -/
  | badField
  deriving DecidableEq, Repr

/-- Bits [lo+w−1 : lo] of x. -/
def bitsAt {n : Nat} (x : BitVec n) (lo w : Nat) : BitVec w := x.extractLsb' lo w

/-- The instructions of family H0, by SUB (R131). -/
def decH0 (sub : Nat) (f : H0) : Option Instr :=
  match sub with
  | 0 => some (.trap f)
  | 1 => some (.eret f)
  | 2 => some (.wfe f)
  | 3 => some (.fenceSv f)
  | 4 => some (.fenceVs f)
  | 5 => some (.fenceRel f)
  | 6 => some (.fenceAcq f)
  | 7 => some (.fenceFull f)
  | _ => none

/-- Major 0x01. -/
noncomputable def dec01 (fn : Nat) (f : H1) : Option Instr :=
  match fn with
  | 0 => some (.addReg f)
  | 1 => some (.subReg f)
  | 2 => some (.andReg f)
  | 3 => some (.orReg f)
  | 4 => some (.xorReg f)
  | 5 => some (.andnReg f)
  | 6 => some (.shlReg f)
  | 7 => some (.shrReg f)
  | 8 => some (.sraReg f)
  | 9 => some (.rotReg f)
  | 10 => some (.minReg f)
  | 11 => some (.maxReg f)
  | 12 => some (.minN64Reg f)
  | 13 => some (.maxN64Reg f)
  | _ => none

/-- Major 0x05. -/
noncomputable def dec05 (fn : Nat) (f : H1) : Option Instr :=
  match fn with
  | 0 => some (.clz f)
  | 1 => some (.ctz f)
  | 2 => some (.popc f)
  | 3 => some (.sextS8 f)
  | 4 => some (.sextS16 f)
  | 5 => some (.sextS32 f)
  | 6 => some (.zextN8 f)
  | 7 => some (.zextN16 f)
  | 8 => some (.zextN32 f)
  | _ => none

/-- Major 0x1D. -/
noncomputable def dec1D (fn : Nat) (f : H1) : Option Instr :=
  match fn with
  | 0 => some (.mand f)
  | 1 => some (.mor f)
  | 2 => some (.mxor f)
  | 3 => some (.mandn f)
  | 4 => some (.mnot f)
  | 5 => some (.mset f)
  | 6 => some (.mclr f)
  | 7 => some (.mmov f)
  | 8 => some (.mpop f)
  | 9 => some (.mfirst f)
  | _ => none

/-- Major 0x29. -/
noncomputable def dec29 (fn : Nat) (f : H1) : Option Instr :=
  match fn with
  | 0 => some (.spwDrain f)
  | 1 => some (.spwMode f)
  | 2 => some (.spwSt f)
  | _ => none

/-- Major 0x2D. -/
noncomputable def dec2D (fn : Nat) (f : H1) : Option Instr :=
  match fn with
  | 0 => some (.pub f)
  | _ => none

/-- The instructions of family H1, by major and FN (R80). -/
noncomputable def decH1 (maj fn : Nat) (f : H1) : Option Instr :=
  match maj with
  | 0x01 => dec01 fn f
  | 0x05 => dec05 fn f
  | 0x1D => dec1D fn f
  | 0x29 => dec29 fn f
  | 0x2D => dec2D fn f
  | _ => none

/-- Major 0x06. -/
noncomputable def dec06 (fn : Nat) (f : H2) : Option Instr :=
  match fn with
  | 0 => some (.cmp f)
  | 1 => some (.setEq f)
  | 2 => some (.setNe f)
  | 3 => some (.setLt f)
  | 4 => some (.setGe f)
  | 16 => some (.fcmpEq f)
  | 17 => some (.fcmpLt f)
  | 18 => some (.fcmpLe f)
  | 19 => some (.fcmpUn f)
  | _ => none

/-- Major 0x0C. -/
noncomputable def dec0C (fn : Nat) (f : H2) : Option Instr :=
  match fn with
  | 0 => some (.csrr f)
  | 1 => some (.csrw f)
  | 2 => some (.csrs f)
  | 3 => some (.csrc f)
  | _ => none

/-- Major 0x14. -/
noncomputable def dec14 (fn : Nat) (f : H2) : Option Instr :=
  match fn with
  | 0 => some (.vadd f)
  | 1 => some (.vsub f)
  | 2 => some (.vrsub f)
  | 3 => some (.vand f)
  | 4 => some (.vor f)
  | 5 => some (.vxor f)
  | 6 => some (.vandn f)
  | 7 => some (.vshl f)
  | 8 => some (.vshr f)
  | 9 => some (.vsra f)
  | 10 => some (.vmin f)
  | 11 => some (.vmax f)
  | 12 => some (.vmul f)
  | 13 => some (.vmulh f)
  | 14 => some (.vadds f)
  | 15 => some (.vsubs f)
  | _ => none

/-- Major 0x15. -/
noncomputable def dec15 (fn : Nat) (f : H2) : Option Instr :=
  match fn with
  | 0 => some (.vfadd f)
  | 1 => some (.vfsub f)
  | 2 => some (.vfmul f)
  | 3 => some (.vfdiv f)
  | 4 => some (.vfmin f)
  | 5 => some (.vfmax f)
  | 6 => some (.vfsqrt f)
  | 7 => some (.vfabs f)
  | 8 => some (.vfneg f)
  | 9 => some (.vfsgn f)
  | _ => none

/-- Major 0x16. -/
noncomputable def dec16 (fn : Nat) (f : H2) : Option Instr :=
  match fn with
  | 0 => some (.vfma f)
  | 1 => some (.vfms f)
  | 2 => some (.vfnma f)
  | 3 => some (.vfnms f)
  | 8 => some (.vmac f)
  | 9 => some (.vnmsc f)
  | _ => none

/-- Major 0x17. -/
noncomputable def dec17 (fn : Nat) (f : H2) : Option Instr :=
  match fn with
  | 0 => some (.vcmpEq f)
  | 1 => some (.vcmpNe f)
  | 2 => some (.vcmpLt f)
  | 3 => some (.vcmpLe f)
  | 4 => some (.vcmpGt f)
  | 5 => some (.vcmpGe f)
  | 6 => some (.vcmpUn f)
  | _ => none

/-- Major 0x18. -/
noncomputable def dec18 (fn : Nat) (f : H2) : Option Instr :=
  match fn with
  | 0 => some (.vcvt f)
  | 1 => some (.vqnt f)
  | 2 => some (.vdq f)
  | 3 => some (.vbsc f)
  | _ => none

/-- Major 0x19. -/
noncomputable def dec19 (fn : Nat) (f : H2) : Option Instr :=
  match fn with
  | 0 => some (.vfrcp f)
  | 1 => some (.vfrsq f)
  | 2 => some (.vfexp2 f)
  | 3 => some (.vflog2 f)
  | 4 => some (.vfexp f)
  | 5 => some (.vftanh f)
  | 6 => some (.vfsig f)
  | _ => none

/-- Major 0x1A. -/
noncomputable def dec1A (fn : Nat) (f : H2) : Option Instr :=
  match fn with
  | 0 => some (.vrsum f false)
  | 16 => some (.vrsum f true)
  | 1 => some (.vrmin f false)
  | 17 => some (.vrmin f true)
  | 2 => some (.vrmax f false)
  | 18 => some (.vrmax f true)
  | 3 => some (.vrand f false)
  | 19 => some (.vrand f true)
  | 4 => some (.vror f false)
  | 20 => some (.vror f true)
  | 5 => some (.vrxor f false)
  | 21 => some (.vrxor f true)
  | 32 => some (.vscanAdd f)
  | 33 => some (.vscanMin f)
  | 34 => some (.vscanMax f)
  | _ => none

/-- Major 0x1B. -/
noncomputable def dec1B (fn : Nat) (f : H2) : Option Instr :=
  match fn with
  | 0 => some (.vperm f)
  | 1 => some (.vslup f)
  | 2 => some (.vsldn f)
  | 3 => some (.vcomp f)
  | 4 => some (.vexpd f)
  | 5 => some (.vxchg f)
  | _ => none

/-- Major 0x1C. -/
noncomputable def dec1C (fn : Nat) (f : H2) : Option Instr :=
  match fn with
  | 0 => some (.vmov f)
  | 1 => if f.sub = 2 then some (.vbcastImm f) else some (.vbcast f)
  | 2 => some (.vidx f)
  | 3 => some (.vmerge f)
  | 4 => some (.vgetx f)
  | 5 => some (.vsetx f)
  | 6 => some (.vm2v f)
  | _ => none

/-- Major 0x1E. -/
noncomputable def dec1E (fn : Nat) (f : H2) : Option Instr :=
  match fn with
  | 0 => some (.qset f)
  | 1 => some (.qsetImm f)
  | 2 => some (.qadv f)
  | 3 => some (.qinfo f)
  | 4 => some (.qinfoB f)
  | 5 => some (.qinfoS f)
  | _ => none

/-- Major 0x1F. -/
noncomputable def dec1F (fn : Nat) (f : H2) : Option Instr :=
  match fn with
  | 0 => some (.vld f)
  | 1 => some (.vlds f)
  | 2 => some (.vpf f)
  | _ => none

/-- Major 0x20. -/
noncomputable def dec20 (fn : Nat) (f : H2) : Option Instr :=
  match fn with
  | 0 => some (.vst f)
  | 1 => some (.vsts f)
  | _ => none

/-- Major 0x21. -/
noncomputable def dec21 (fn : Nat) (f : H2) : Option Instr :=
  match fn with
  | 0 => some (.vldx f)
  | 1 => some (.vstx f)
  | _ => none

/-- Major 0x22. -/
noncomputable def dec22 (fn : Nat) (f : H2) : Option Instr :=
  match fn with
  | 0 => some (.vamoAdd f)
  | 1 => some (.vamoFadd f)
  | 2 => some (.vamoAnd f)
  | 3 => some (.vamoOr f)
  | 4 => some (.vamoXor f)
  | 5 => some (.vamoMin f)
  | 6 => some (.vamoMax f)
  | 7 => some (.vamoSwap f)
  | 8 => some (.vamoCas f)
  | _ => none

/-- Major 0x23. -/
noncomputable def dec23 (fn : Nat) (f : H2) : Option Instr :=
  match fn with
  | 0 => some (.vredAddIndexed f)
  | 1 => some (.vredFaddIndexed f)
  | 2 => some (.vredAndIndexed f)
  | 3 => some (.vredOrIndexed f)
  | 4 => some (.vredXorIndexed f)
  | 5 => some (.vredMinIndexed f)
  | 6 => some (.vredMaxIndexed f)
  | 32 => some (.vredAddStream f)
  | 33 => some (.vredFaddStream f)
  | 34 => some (.vredAndStream f)
  | 35 => some (.vredOrStream f)
  | 36 => some (.vredXorStream f)
  | 37 => some (.vredMinStream f)
  | 38 => some (.vredMaxStream f)
  | _ => none

/-- Major 0x24. -/
noncomputable def dec24 (fn : Nat) (f : H2) : Option Instr :=
  match fn with
  | 0 => some (.vldl f)
  | 1 => some (.vldlIndexed f)
  | 2 => some (.vstl f)
  | 3 => some (.vstlIndexed f)
  | _ => none

/-- Major 0x25. -/
noncomputable def dec25 (fn : Nat) (f : H2) : Option Instr :=
  match fn with
  | 0 => some (.mwld f)
  | _ => none

/-- Major 0x26. -/
noncomputable def dec26 (fn : Nat) (f : H2) : Option Instr :=
  match fn with
  | 0 => some (.mmla f)
  | _ => none

/-- Major 0x27. -/
noncomputable def dec27 (fn : Nat) (f : H2) : Option Instr :=
  match fn with
  | 0 => some (.acz f)
  | 1 => some (.aci f)
  | 2 => some (.aciAdd f)
  | 3 => some (.aciSat f)
  | 8 => some (.acx f)
  | _ => none

/-- Major 0x28. -/
noncomputable def dec28 (fn : Nat) (f : H2) : Option Instr :=
  match fn with
  | 0 => some (.unfCfg f)
  | _ => none

/-- Major 0x2A. -/
noncomputable def dec2A (fn : Nat) (f : H2) : Option Instr :=
  match fn with
  | 0 => some (.fmtLd f)
  | 1 => some (.fmtSt f)
  | _ => none

/-- Major 0x2B. -/
noncomputable def dec2B (fn : Nat) (f : H2) : Option Instr :=
  match fn with
  | 0 => some (.dld f)
  | 1 => some (.dst f)
  | _ => none

/-- Major 0x32. -/
noncomputable def dec32 (fn : Nat) (f : H2) : Option Instr :=
  match fn with
  | 0 => some (.flmRd f)
  | 1 => some (.flmSeal f)
  | 2 => some (.dgst f)
  | _ => none

/-- Major 0x34. -/
noncomputable def dec34 (fn : Nat) (f : H2) : Option Instr :=
  match fn with
  | 0 => some (.scbGo f)
  | 1 => some (.scbSt f)
  | 2 => some (.keyLd f)
  | 3 => some (.keyZ f)
  | _ => none

/-- The instructions of family H2, by major and FN (R80). -/
noncomputable def decH2 (maj fn : Nat) (f : H2) : Option Instr :=
  match maj with
  | 0x06 => dec06 fn f
  | 0x0C => dec0C fn f
  | 0x14 => dec14 fn f
  | 0x15 => dec15 fn f
  | 0x16 => dec16 fn f
  | 0x17 => dec17 fn f
  | 0x18 => dec18 fn f
  | 0x19 => dec19 fn f
  | 0x1A => dec1A fn f
  | 0x1B => dec1B fn f
  | 0x1C => dec1C fn f
  | 0x1E => dec1E fn f
  | 0x1F => dec1F fn f
  | 0x20 => dec20 fn f
  | 0x21 => dec21 fn f
  | 0x22 => dec22 fn f
  | 0x23 => dec23 fn f
  | 0x24 => dec24 fn f
  | 0x25 => dec25 fn f
  | 0x26 => dec26 fn f
  | 0x27 => dec27 fn f
  | 0x28 => dec28 fn f
  | 0x2A => dec2A fn f
  | 0x2B => dec2B fn f
  | 0x32 => dec32 fn f
  | 0x34 => dec34 fn f
  | _ => none

/-- Major 0x02. -/
noncomputable def dec02 (fn : Nat) (f : H3) : Option Instr :=
  match fn with
  | 0 => some (.addImm f)
  | 1 => some (.subImm f)
  | 2 => some (.andImm f)
  | 3 => some (.orImm f)
  | 4 => some (.xorImm f)
  | 5 => some (.andnImm f)
  | 6 => some (.shlImm f)
  | 7 => some (.shrImm f)
  | 8 => some (.sraImm f)
  | 9 => some (.rotImm f)
  | 10 => some (.minImm f)
  | 11 => some (.maxImm f)
  | 12 => some (.minN64Imm f)
  | 13 => some (.maxN64Imm f)
  | _ => none

/-- Major 0x04. -/
noncomputable def dec04 (fn : Nat) (f : H3) : Option Instr :=
  match fn with
  | 0 => some (.mul f)
  | 1 => some (.mulh f)
  | 2 => some (.div f)
  | 3 => some (.rem f)
  | 8 => some (.fadd f)
  | 9 => some (.fsub f)
  | 10 => some (.fmul f)
  | 11 => some (.fdiv f)
  | 12 => some (.fma f)
  | 13 => some (.fcvt f)
  | _ => none

/-- Major 0x07. -/
noncomputable def dec07 (fn : Nat) (f : H3) : Option Instr :=
  match fn with
  | 0 => some (.ld f)
  | 1 => some (.ldAcq f)
  | _ => none

/-- Major 0x08. -/
noncomputable def dec08 (fn : Nat) (f : H3) : Option Instr :=
  match fn with
  | 0 => some (.st f)
  | 1 => some (.stRel f)
  | _ => none

/-- Major 0x09. -/
noncomputable def dec09 (fn : Nat) (f : H3) : Option Instr :=
  match fn with
  | 0 => some (.amoAdd f)
  | 1 => some (.amoFadd f)
  | 2 => some (.amoAnd f)
  | 3 => some (.amoOr f)
  | 4 => some (.amoXor f)
  | 5 => some (.amoMin f)
  | 6 => some (.amoMax f)
  | 7 => some (.amoSwap f)
  | 8 => some (.amoCas f)
  | _ => none

/-- Major 0x0A. -/
noncomputable def dec0A (fn : Nat) (f : H3) : Option Instr :=
  match fn with
  | 0 => some (.bEq f)
  | 1 => some (.bNe f)
  | 2 => some (.bLt f)
  | 3 => some (.bGe f)
  | 4 => some (.bLtN64 f)
  | 5 => some (.bGeN64 f)
  | _ => none

/-- Major 0x0B. -/
noncomputable def dec0B (fn : Nat) (f : H3) : Option Instr :=
  match fn with
  | 0 => some (.jmp f)
  | 1 => some (.call f)
  | 2 => some (.jr f)
  | _ => none

/-- Major 0x0E. -/
noncomputable def dec0E (fn : Nat) (f : H3) : Option Instr :=
  match fn with
  | 0 => some (.tick f)
  | 1 => some (.waitt f)
  | 2 => some (.nbArr f)
  | 3 => some (.nbWait f)
  | 4 => some (.nbSync f)
  | 5 => some (.nbJoin f)
  | _ => none

/-- Major 0x0F. -/
noncomputable def dec0F (fn : Nat) (f : H3) : Option Instr :=
  match fn with
  | 0 => some (.mtInit f)
  | 1 => some (.mtArr f)
  | 2 => some (.mtWait f)
  | 3 => some (.mtSync f)
  | 4 => some (.mtJoin f)
  | _ => none

/-- Major 0x10. -/
noncomputable def dec10 (fn : Nat) (f : H3) : Option Instr :=
  match fn with
  | 0 => some (.lkAcq f)
  | 1 => some (.lkRel f)
  | 2 => some (.lkMend f)
  | _ => none

/-- Major 0x11. -/
noncomputable def dec11 (fn : Nat) (f : H3) : Option Instr :=
  match fn with
  | 0 => some (.cbDef f)
  | 1 => some (.cbClaim f)
  | 2 => some (.cbFill f)
  | 3 => some (.recv f)
  | 4 => some (.cbFree f)
  | 5 => some (.cbSt f)
  | 6 => some (.chainDef f)
  | 7 => some (.chainPub f)
  | _ => none

/-- Major 0x12. -/
noncomputable def dec12 (fn : Nat) (f : H3) : Option Instr :=
  match fn with
  | 0 => some (.spawn f)
  | 1 => some (.gdef f)
  | 2 => some (.gstart f)
  | 3 => some (.exit f)
  | 4 => some (.yield f)
  | _ => none

/-- Major 0x13. -/
noncomputable def dec13 (fn : Nat) (f : H3) : Option Instr :=
  match fn with
  | 0 => some (.vsetl f)
  | 1 => some (.vsetlChained f)
  | 2 => some (.vnext f)
  | 3 => some (.vcfg f)
  | 4 => some (.vlanes f)
  | 5 => some (.vgang f)
  | _ => none

/-- Major 0x2C. -/
noncomputable def dec2C (fn : Nat) (f : H3) : Option Instr :=
  match fn with
  | 0 => some (.tcopy f)
  | 1 => some (.tcopySh f)
  | 2 => some (.tcopyCb f)
  | _ => none

/-- Major 0x2E. -/
noncomputable def dec2E (fn : Nat) (f : H3) : Option Instr :=
  match fn with
  | 0 => some (.tcReg f)
  | 1 => some (.tcDrop f)
  | 2 => some (.tcPf f)
  | 3 => some (.tcHalo f)
  | 4 => some (.tcInv f)
  | 5 => some (.tcCln f)
  | _ => none

/-- Major 0x2F. -/
noncomputable def dec2F (fn : Nat) (f : H3) : Option Instr :=
  match fn with
  | 0 => some (.mgrpDef f)
  | 1 => some (.mgrpDrop f)
  | 2 => some (.mldRed f)
  | 3 => some (.mst f)
  | 4 => some (.mgrpJoin f)
  | _ => none

/-- Major 0x30. -/
noncomputable def dec30 (fn : Nat) (f : H3) : Option Instr :=
  match fn with
  | 0 => some (.bwl f)
  | 1 => some (.bwr f)
  | 2 => some (.bwq f)
  | 3 => some (.bwqD f)
  | _ => none

/-- Major 0x31. -/
noncomputable def dec31 (fn : Nat) (f : H3) : Option Instr :=
  match fn with
  | 0 => some (.rtOpen f)
  | 1 => some (.rtOpenRx f)
  | 2 => some (.rtAdd f)
  | 3 => some (.rtGo f)
  | 4 => some (.rtRecv f)
  | 5 => some (.rtStat f)
  | 6 => some (.rtClose f)
  | 7 => some (.rtCloseRx f)
  | _ => none

/-- Major 0x33. -/
noncomputable def dec33 (fn : Nat) (f : H3) : Option Instr :=
  match fn with
  | 0 => some (.prtNew f)
  | 1 => some (.prtAsg f)
  | 2 => some (.prtStop f)
  | 3 => some (.prtKill f)
  | 4 => some (.prtSt f)
  | _ => none

/-- Major 0x35. -/
noncomputable def dec35 (fn : Nat) (f : H3) : Option Instr :=
  match fn with
  | 0 => some (.ckpGo f)
  | 1 => some (.ckpSt f)
  | 2 => some (.ckpRb f)
  | _ => none

/-- The instructions of family H3, by major and FN (R80). -/
noncomputable def decH3 (maj fn : Nat) (f : H3) : Option Instr :=
  match maj with
  | 0x02 => dec02 fn f
  | 0x04 => dec04 fn f
  | 0x07 => dec07 fn f
  | 0x08 => dec08 fn f
  | 0x09 => dec09 fn f
  | 0x0A => dec0A fn f
  | 0x0B => dec0B fn f
  | 0x0E => dec0E fn f
  | 0x0F => dec0F fn f
  | 0x10 => dec10 fn f
  | 0x11 => dec11 fn f
  | 0x12 => dec12 fn f
  | 0x13 => dec13 fn f
  | 0x2C => dec2C fn f
  | 0x2E => dec2E fn f
  | 0x2F => dec2F fn f
  | 0x30 => dec30 fn f
  | 0x31 => dec31 fn f
  | 0x33 => dec33 fn f
  | 0x35 => dec35 fn f
  | _ => none

/-- The instructions of the wide variant, by FN (R102). -/
noncomputable def decWide (fn : Nat) (f : Wide) : Option Instr :=
  match fn with
  | 0 => some (.li f)
  | 1 => some (.lea f)
  | 2 => some (.lih f)
  | _ => none

/-- Length of the tail that the major requires, as a TL code; none where no major stands (R80, R95). -/
def majorTL (maj : Nat) : Option Nat :=
  if maj = 0x0D then some 0
  else if maj = 0x01 || maj = 0x05 || maj = 0x1D || maj = 0x29 || maj = 0x2D then some 1
  else if maj = 0x02 || maj = 0x03 || maj = 0x04 || (0x07 ≤ maj && maj ≤ 0x0B) || (0x0E ≤ maj && maj ≤ 0x13) ||
      maj = 0x2C || maj = 0x2E || maj = 0x2F || maj = 0x30 || maj = 0x31 || maj = 0x33 || maj = 0x35 then some 3
  else if maj = 0x06 || maj = 0x0C || (0x14 ≤ maj && maj ≤ 0x2B) || maj = 0x32 || maj = 0x34 then some 2
  else none

/-- The fields of a head and a tail by family (R79 to R84) and the instruction they name (check 4). -/
noncomputable def nameOf (maj : Nat) (ha : BitVec 8) (t : BitVec 48) : Option Instr :=
  match majorTL maj with
  | none => none
  | some 0 => decH0 (bitsAt ha 0 3).toNat { arg := bitsAt ha 3 5 }
  | some 1 => decH1 maj (bitsAt t 0 6).toNat
      { d := bitsAt ha 3 5, sub := bitsAt ha 0 3, a := bitsAt t 11 5, b := bitsAt t 6 5 }
  | some 2 => decH2 maj (bitsAt t 8 6).toNat
      { d := bitsAt ha 3 5, sub := bitsAt ha 0 3, a := bitsAt t 27 5, b := bitsAt t 22 5, mask := bitsAt t 18 4,
        ty := bitsAt t 14 4, imm := bitsAt t 0 8 }
  | some _ =>
    if maj = 3 then decWide (bitsAt t 0 4).toNat { d := bitsAt ha 3 5, sub := bitsAt ha 0 3, imm := bitsAt t 4 44 }
    else decH3 maj (bitsAt t 26 4).toNat
      { d := bitsAt ha 3 5, sub := bitsAt ha 0 3, a := bitsAt t 43 5, b := bitsAt t 38 5, mask := bitsAt t 34 4,
        ty := bitsAt t 30 4, c := bitsAt t 21 5, dl := bitsAt t 16 5, imm := bitsAt t 0 16 }

/-- Decode a head with the tail that its own TL gives, zero above it (R91, checks 2 to 6 in order). -/
noncomputable def decodeHead (head : BitVec 16) (tail : BitVec 48) : Except DecErr Instr :=
  let tl := (bitsAt head 14 2).toNat
  let maj := (bitsAt head 8 6).toNat
  let ha := bitsAt head 0 8
  if maj = 0x3F then
    if head = 0x3F00#16 then .ok .nop else .ok (.hint { tl := bitsAt head 14 2, ha := ha, tail := tail })
  else match majorTL maj with
    | none => .error .reservedMajor
    | some t =>
      if tl ≠ t then .error .tailLength
      else match nameOf maj ha tail with
        | none => .error .noSuchIdentity
        | some i => if i.wf then .ok i else .error .badField

/-- The value of bytes at rising addresses, little-endian (R1). -/
def leNat : List Byte → Nat
  | [] => 0
  | b :: bs => b.toNat + 256 * leNat bs

/-- The n bytes of a value at rising addresses, little-endian (R1). -/
def leBytes : Nat → Nat → List Byte
  | 0, _ => []
  | n + 1, v => BitVec.ofNat 8 v :: leBytes n (v / 256)

/-- The n bytes of a list from offset i, as a number. -/
def fieldAt (l : List Byte) (i n : Nat) : Nat := leNat ((l.drop i).take n)

/-- A halfword of a line (R73, R1): bytes 2i and 2i + 1. -/
def lineHalf (line : List Byte) (i : Nat) : BitVec 16 := BitVec.ofNat 16 (fieldAt line (2 * i) 2)

/-- Bytes of the tail of head i (R74). -/
def tailLen (line : List Byte) (i : Nat) : Nat := 2 * (bitsAt (lineHalf line i) 14 2).toNat

/-- Bytes of the first n tails. -/
def tailsLen (line : List Byte) : Nat → Nat
  | 0 => 0
  | n + 1 => tailsLen line n + tailLen line n

/-- The head count of a line (R73). -/
def lineNH (line : List Byte) : Nat := fieldAt line 62 2 % 32

/-- A valid line (R75). -/
def lineValid (line : List Byte) : Bool :=
  decide (1 ≤ lineNH line) && decide (lineNH line ≤ 30) && fieldAt line 62 2 / 32 = 0 &&
  decide (2 * lineNH line + tailsLen line (lineNH line) ≤ 62)

/-- The tail of head i, zero above its length (R74). -/
def lineTail (line : List Byte) (i : Nat) : BitVec 48 :=
  BitVec.ofNat 48 (fieldAt line (62 - tailsLen line (i + 1)) (tailLen line i))

/-- The identity of an encoded instruction with its fields. -/
inductive Enc where
  | h0 (maj sub : Nat) (f : H0)
  | h1 (maj fn : Nat) (f : H1)
  | h2 (maj fn : Nat) (f : H2)
  | h3 (maj fn : Nat) (f : H3)
  | wide (maj fn : Nat) (f : Wide)
  | hint (h : HintWord)
  deriving DecidableEq, Repr

/-- The identity and fields of each encoded instruction (R80, R95); a device step has no words. -/
def Instr.enc : Instr → Option Enc
  | .addReg f => some (.h1 0x01 0x00 f)
  | .subReg f => some (.h1 0x01 0x01 f)
  | .andReg f => some (.h1 0x01 0x02 f)
  | .orReg f => some (.h1 0x01 0x03 f)
  | .xorReg f => some (.h1 0x01 0x04 f)
  | .andnReg f => some (.h1 0x01 0x05 f)
  | .shlReg f => some (.h1 0x01 0x06 f)
  | .shrReg f => some (.h1 0x01 0x07 f)
  | .sraReg f => some (.h1 0x01 0x08 f)
  | .rotReg f => some (.h1 0x01 0x09 f)
  | .minReg f => some (.h1 0x01 0x0A f)
  | .maxReg f => some (.h1 0x01 0x0B f)
  | .minN64Reg f => some (.h1 0x01 0x0C f)
  | .maxN64Reg f => some (.h1 0x01 0x0D f)
  | .addImm f => some (.h3 0x02 0x00 f)
  | .subImm f => some (.h3 0x02 0x01 f)
  | .andImm f => some (.h3 0x02 0x02 f)
  | .orImm f => some (.h3 0x02 0x03 f)
  | .xorImm f => some (.h3 0x02 0x04 f)
  | .andnImm f => some (.h3 0x02 0x05 f)
  | .shlImm f => some (.h3 0x02 0x06 f)
  | .shrImm f => some (.h3 0x02 0x07 f)
  | .sraImm f => some (.h3 0x02 0x08 f)
  | .rotImm f => some (.h3 0x02 0x09 f)
  | .minImm f => some (.h3 0x02 0x0A f)
  | .maxImm f => some (.h3 0x02 0x0B f)
  | .minN64Imm f => some (.h3 0x02 0x0C f)
  | .maxN64Imm f => some (.h3 0x02 0x0D f)
  | .li f => some (.wide 0x03 0 f)
  | .lea f => some (.wide 0x03 1 f)
  | .lih f => some (.wide 0x03 2 f)
  | .mul f => some (.h3 0x04 0x00 f)
  | .mulh f => some (.h3 0x04 0x01 f)
  | .div f => some (.h3 0x04 0x02 f)
  | .rem f => some (.h3 0x04 0x03 f)
  | .fadd f => some (.h3 0x04 0x08 f)
  | .fsub f => some (.h3 0x04 0x09 f)
  | .fmul f => some (.h3 0x04 0x0A f)
  | .fdiv f => some (.h3 0x04 0x0B f)
  | .fma f => some (.h3 0x04 0x0C f)
  | .fcvt f => some (.h3 0x04 0x0D f)
  | .clz f => some (.h1 0x05 0x00 f)
  | .ctz f => some (.h1 0x05 0x01 f)
  | .popc f => some (.h1 0x05 0x02 f)
  | .sextS8 f => some (.h1 0x05 0x03 f)
  | .sextS16 f => some (.h1 0x05 0x04 f)
  | .sextS32 f => some (.h1 0x05 0x05 f)
  | .zextN8 f => some (.h1 0x05 0x06 f)
  | .zextN16 f => some (.h1 0x05 0x07 f)
  | .zextN32 f => some (.h1 0x05 0x08 f)
  | .cmp f => some (.h2 0x06 0x00 f)
  | .setEq f => some (.h2 0x06 0x01 f)
  | .setNe f => some (.h2 0x06 0x02 f)
  | .setLt f => some (.h2 0x06 0x03 f)
  | .setGe f => some (.h2 0x06 0x04 f)
  | .fcmpEq f => some (.h2 0x06 0x10 f)
  | .fcmpLt f => some (.h2 0x06 0x11 f)
  | .fcmpLe f => some (.h2 0x06 0x12 f)
  | .fcmpUn f => some (.h2 0x06 0x13 f)
  | .ld f => some (.h3 0x07 0x00 f)
  | .ldAcq f => some (.h3 0x07 0x01 f)
  | .st f => some (.h3 0x08 0x00 f)
  | .stRel f => some (.h3 0x08 0x01 f)
  | .amoAdd f => some (.h3 0x09 0x00 f)
  | .amoFadd f => some (.h3 0x09 0x01 f)
  | .amoAnd f => some (.h3 0x09 0x02 f)
  | .amoOr f => some (.h3 0x09 0x03 f)
  | .amoXor f => some (.h3 0x09 0x04 f)
  | .amoMin f => some (.h3 0x09 0x05 f)
  | .amoMax f => some (.h3 0x09 0x06 f)
  | .amoSwap f => some (.h3 0x09 0x07 f)
  | .amoCas f => some (.h3 0x09 0x08 f)
  | .bEq f => some (.h3 0x0A 0x00 f)
  | .bNe f => some (.h3 0x0A 0x01 f)
  | .bLt f => some (.h3 0x0A 0x02 f)
  | .bGe f => some (.h3 0x0A 0x03 f)
  | .bLtN64 f => some (.h3 0x0A 0x04 f)
  | .bGeN64 f => some (.h3 0x0A 0x05 f)
  | .jmp f => some (.h3 0x0B 0x00 f)
  | .call f => some (.h3 0x0B 0x01 f)
  | .jr f => some (.h3 0x0B 0x02 f)
  | .csrr f => some (.h2 0x0C 0x00 f)
  | .csrw f => some (.h2 0x0C 0x01 f)
  | .csrs f => some (.h2 0x0C 0x02 f)
  | .csrc f => some (.h2 0x0C 0x03 f)
  | .trap f => some (.h0 0x0D 0 f)
  | .eret f => some (.h0 0x0D 1 f)
  | .wfe f => some (.h0 0x0D 2 f)
  | .fenceSv f => some (.h0 0x0D 3 f)
  | .fenceVs f => some (.h0 0x0D 4 f)
  | .fenceRel f => some (.h0 0x0D 5 f)
  | .fenceAcq f => some (.h0 0x0D 6 f)
  | .fenceFull f => some (.h0 0x0D 7 f)
  | .tick f => some (.h3 0x0E 0x00 f)
  | .waitt f => some (.h3 0x0E 0x01 f)
  | .nbArr f => some (.h3 0x0E 0x02 f)
  | .nbWait f => some (.h3 0x0E 0x03 f)
  | .nbSync f => some (.h3 0x0E 0x04 f)
  | .nbJoin f => some (.h3 0x0E 0x05 f)
  | .mtInit f => some (.h3 0x0F 0x00 f)
  | .mtArr f => some (.h3 0x0F 0x01 f)
  | .mtWait f => some (.h3 0x0F 0x02 f)
  | .mtSync f => some (.h3 0x0F 0x03 f)
  | .mtJoin f => some (.h3 0x0F 0x04 f)
  | .lkAcq f => some (.h3 0x10 0x00 f)
  | .lkRel f => some (.h3 0x10 0x01 f)
  | .lkMend f => some (.h3 0x10 0x02 f)
  | .cbDef f => some (.h3 0x11 0x00 f)
  | .cbClaim f => some (.h3 0x11 0x01 f)
  | .cbFill f => some (.h3 0x11 0x02 f)
  | .recv f => some (.h3 0x11 0x03 f)
  | .cbFree f => some (.h3 0x11 0x04 f)
  | .cbSt f => some (.h3 0x11 0x05 f)
  | .chainDef f => some (.h3 0x11 0x06 f)
  | .chainPub f => some (.h3 0x11 0x07 f)
  | .spawn f => some (.h3 0x12 0x00 f)
  | .gdef f => some (.h3 0x12 0x01 f)
  | .gstart f => some (.h3 0x12 0x02 f)
  | .exit f => some (.h3 0x12 0x03 f)
  | .yield f => some (.h3 0x12 0x04 f)
  | .vsetl f => some (.h3 0x13 0x00 f)
  | .vsetlChained f => some (.h3 0x13 0x01 f)
  | .vnext f => some (.h3 0x13 0x02 f)
  | .vcfg f => some (.h3 0x13 0x03 f)
  | .vlanes f => some (.h3 0x13 0x04 f)
  | .vgang f => some (.h3 0x13 0x05 f)
  | .vadd f => some (.h2 0x14 0x00 f)
  | .vsub f => some (.h2 0x14 0x01 f)
  | .vrsub f => some (.h2 0x14 0x02 f)
  | .vand f => some (.h2 0x14 0x03 f)
  | .vor f => some (.h2 0x14 0x04 f)
  | .vxor f => some (.h2 0x14 0x05 f)
  | .vandn f => some (.h2 0x14 0x06 f)
  | .vshl f => some (.h2 0x14 0x07 f)
  | .vshr f => some (.h2 0x14 0x08 f)
  | .vsra f => some (.h2 0x14 0x09 f)
  | .vmin f => some (.h2 0x14 0x0A f)
  | .vmax f => some (.h2 0x14 0x0B f)
  | .vmul f => some (.h2 0x14 0x0C f)
  | .vmulh f => some (.h2 0x14 0x0D f)
  | .vadds f => some (.h2 0x14 0x0E f)
  | .vsubs f => some (.h2 0x14 0x0F f)
  | .vfadd f => some (.h2 0x15 0x00 f)
  | .vfsub f => some (.h2 0x15 0x01 f)
  | .vfmul f => some (.h2 0x15 0x02 f)
  | .vfdiv f => some (.h2 0x15 0x03 f)
  | .vfmin f => some (.h2 0x15 0x04 f)
  | .vfmax f => some (.h2 0x15 0x05 f)
  | .vfsqrt f => some (.h2 0x15 0x06 f)
  | .vfabs f => some (.h2 0x15 0x07 f)
  | .vfneg f => some (.h2 0x15 0x08 f)
  | .vfsgn f => some (.h2 0x15 0x09 f)
  | .vfma f => some (.h2 0x16 0x00 f)
  | .vfms f => some (.h2 0x16 0x01 f)
  | .vfnma f => some (.h2 0x16 0x02 f)
  | .vfnms f => some (.h2 0x16 0x03 f)
  | .vmac f => some (.h2 0x16 0x08 f)
  | .vnmsc f => some (.h2 0x16 0x09 f)
  | .vcmpEq f => some (.h2 0x17 0x00 f)
  | .vcmpNe f => some (.h2 0x17 0x01 f)
  | .vcmpLt f => some (.h2 0x17 0x02 f)
  | .vcmpLe f => some (.h2 0x17 0x03 f)
  | .vcmpGt f => some (.h2 0x17 0x04 f)
  | .vcmpGe f => some (.h2 0x17 0x05 f)
  | .vcmpUn f => some (.h2 0x17 0x06 f)
  | .vcvt f => some (.h2 0x18 0x00 f)
  | .vqnt f => some (.h2 0x18 0x01 f)
  | .vdq f => some (.h2 0x18 0x02 f)
  | .vbsc f => some (.h2 0x18 0x03 f)
  | .vfrcp f => some (.h2 0x19 0x00 f)
  | .vfrsq f => some (.h2 0x19 0x01 f)
  | .vfexp2 f => some (.h2 0x19 0x02 f)
  | .vflog2 f => some (.h2 0x19 0x03 f)
  | .vfexp f => some (.h2 0x19 0x04 f)
  | .vftanh f => some (.h2 0x19 0x05 f)
  | .vfsig f => some (.h2 0x19 0x06 f)
  | .vrsum f t => some (.h2 0x1A (if t then 16 else 0) f)
  | .vrmin f t => some (.h2 0x1A (if t then 17 else 1) f)
  | .vrmax f t => some (.h2 0x1A (if t then 18 else 2) f)
  | .vrand f t => some (.h2 0x1A (if t then 19 else 3) f)
  | .vror f t => some (.h2 0x1A (if t then 20 else 4) f)
  | .vrxor f t => some (.h2 0x1A (if t then 21 else 5) f)
  | .vscanAdd f => some (.h2 0x1A 0x20 f)
  | .vscanMin f => some (.h2 0x1A 0x21 f)
  | .vscanMax f => some (.h2 0x1A 0x22 f)
  | .vperm f => some (.h2 0x1B 0x00 f)
  | .vslup f => some (.h2 0x1B 0x01 f)
  | .vsldn f => some (.h2 0x1B 0x02 f)
  | .vcomp f => some (.h2 0x1B 0x03 f)
  | .vexpd f => some (.h2 0x1B 0x04 f)
  | .vxchg f => some (.h2 0x1B 0x05 f)
  | .vmov f => some (.h2 0x1C 0x00 f)
  | .vbcast f => some (.h2 0x1C 0x01 f)
  | .vbcastImm f => some (.h2 0x1C 0x01 f)
  | .vidx f => some (.h2 0x1C 0x02 f)
  | .vmerge f => some (.h2 0x1C 0x03 f)
  | .vgetx f => some (.h2 0x1C 0x04 f)
  | .vsetx f => some (.h2 0x1C 0x05 f)
  | .vm2v f => some (.h2 0x1C 0x06 f)
  | .mand f => some (.h1 0x1D 0x00 f)
  | .mor f => some (.h1 0x1D 0x01 f)
  | .mxor f => some (.h1 0x1D 0x02 f)
  | .mandn f => some (.h1 0x1D 0x03 f)
  | .mnot f => some (.h1 0x1D 0x04 f)
  | .mset f => some (.h1 0x1D 0x05 f)
  | .mclr f => some (.h1 0x1D 0x06 f)
  | .mmov f => some (.h1 0x1D 0x07 f)
  | .mpop f => some (.h1 0x1D 0x08 f)
  | .mfirst f => some (.h1 0x1D 0x09 f)
  | .qset f => some (.h2 0x1E 0x00 f)
  | .qsetImm f => some (.h2 0x1E 0x01 f)
  | .qadv f => some (.h2 0x1E 0x02 f)
  | .qinfo f => some (.h2 0x1E 0x03 f)
  | .qinfoB f => some (.h2 0x1E 0x04 f)
  | .qinfoS f => some (.h2 0x1E 0x05 f)
  | .vld f => some (.h2 0x1F 0x00 f)
  | .vlds f => some (.h2 0x1F 0x01 f)
  | .vpf f => some (.h2 0x1F 0x02 f)
  | .vst f => some (.h2 0x20 0x00 f)
  | .vsts f => some (.h2 0x20 0x01 f)
  | .vldx f => some (.h2 0x21 0x00 f)
  | .vstx f => some (.h2 0x21 0x01 f)
  | .vamoAdd f => some (.h2 0x22 0x00 f)
  | .vamoFadd f => some (.h2 0x22 0x01 f)
  | .vamoAnd f => some (.h2 0x22 0x02 f)
  | .vamoOr f => some (.h2 0x22 0x03 f)
  | .vamoXor f => some (.h2 0x22 0x04 f)
  | .vamoMin f => some (.h2 0x22 0x05 f)
  | .vamoMax f => some (.h2 0x22 0x06 f)
  | .vamoSwap f => some (.h2 0x22 0x07 f)
  | .vamoCas f => some (.h2 0x22 0x08 f)
  | .vredAddIndexed f => some (.h2 0x23 0x00 f)
  | .vredFaddIndexed f => some (.h2 0x23 0x01 f)
  | .vredAndIndexed f => some (.h2 0x23 0x02 f)
  | .vredOrIndexed f => some (.h2 0x23 0x03 f)
  | .vredXorIndexed f => some (.h2 0x23 0x04 f)
  | .vredMinIndexed f => some (.h2 0x23 0x05 f)
  | .vredMaxIndexed f => some (.h2 0x23 0x06 f)
  | .vredAddStream f => some (.h2 0x23 0x20 f)
  | .vredFaddStream f => some (.h2 0x23 0x21 f)
  | .vredAndStream f => some (.h2 0x23 0x22 f)
  | .vredOrStream f => some (.h2 0x23 0x23 f)
  | .vredXorStream f => some (.h2 0x23 0x24 f)
  | .vredMinStream f => some (.h2 0x23 0x25 f)
  | .vredMaxStream f => some (.h2 0x23 0x26 f)
  | .vldl f => some (.h2 0x24 0x00 f)
  | .vldlIndexed f => some (.h2 0x24 0x01 f)
  | .vstl f => some (.h2 0x24 0x02 f)
  | .vstlIndexed f => some (.h2 0x24 0x03 f)
  | .mwld f => some (.h2 0x25 0x00 f)
  | .mmla f => some (.h2 0x26 0x00 f)
  | .acz f => some (.h2 0x27 0x00 f)
  | .aci f => some (.h2 0x27 0x01 f)
  | .aciAdd f => some (.h2 0x27 0x02 f)
  | .aciSat f => some (.h2 0x27 0x03 f)
  | .acx f => some (.h2 0x27 0x08 f)
  | .unfCfg f => some (.h2 0x28 0x00 f)
  | .spwDrain f => some (.h1 0x29 0x00 f)
  | .spwMode f => some (.h1 0x29 0x01 f)
  | .spwSt f => some (.h1 0x29 0x02 f)
  | .fmtLd f => some (.h2 0x2A 0x00 f)
  | .fmtSt f => some (.h2 0x2A 0x01 f)
  | .dld f => some (.h2 0x2B 0x00 f)
  | .dst f => some (.h2 0x2B 0x01 f)
  | .tcopy f => some (.h3 0x2C 0x00 f)
  | .tcopySh f => some (.h3 0x2C 0x01 f)
  | .tcopyCb f => some (.h3 0x2C 0x02 f)
  | .pub f => some (.h1 0x2D 0x00 f)
  | .tcReg f => some (.h3 0x2E 0x00 f)
  | .tcDrop f => some (.h3 0x2E 0x01 f)
  | .tcPf f => some (.h3 0x2E 0x02 f)
  | .tcHalo f => some (.h3 0x2E 0x03 f)
  | .tcInv f => some (.h3 0x2E 0x04 f)
  | .tcCln f => some (.h3 0x2E 0x05 f)
  | .mgrpDef f => some (.h3 0x2F 0x00 f)
  | .mgrpDrop f => some (.h3 0x2F 0x01 f)
  | .mldRed f => some (.h3 0x2F 0x02 f)
  | .mst f => some (.h3 0x2F 0x03 f)
  | .mgrpJoin f => some (.h3 0x2F 0x04 f)
  | .bwl f => some (.h3 0x30 0x00 f)
  | .bwr f => some (.h3 0x30 0x01 f)
  | .bwq f => some (.h3 0x30 0x02 f)
  | .bwqD f => some (.h3 0x30 0x03 f)
  | .rtOpen f => some (.h3 0x31 0x00 f)
  | .rtOpenRx f => some (.h3 0x31 0x01 f)
  | .rtAdd f => some (.h3 0x31 0x02 f)
  | .rtGo f => some (.h3 0x31 0x03 f)
  | .rtRecv f => some (.h3 0x31 0x04 f)
  | .rtStat f => some (.h3 0x31 0x05 f)
  | .rtClose f => some (.h3 0x31 0x06 f)
  | .rtCloseRx f => some (.h3 0x31 0x07 f)
  | .flmRd f => some (.h2 0x32 0x00 f)
  | .flmSeal f => some (.h2 0x32 0x01 f)
  | .dgst f => some (.h2 0x32 0x02 f)
  | .prtNew f => some (.h3 0x33 0x00 f)
  | .prtAsg f => some (.h3 0x33 0x01 f)
  | .prtStop f => some (.h3 0x33 0x02 f)
  | .prtKill f => some (.h3 0x33 0x03 f)
  | .prtSt f => some (.h3 0x33 0x04 f)
  | .scbGo f => some (.h2 0x34 0x00 f)
  | .scbSt f => some (.h2 0x34 0x01 f)
  | .keyLd f => some (.h2 0x34 0x02 f)
  | .keyZ f => some (.h2 0x34 0x03 f)
  | .ckpGo f => some (.h3 0x35 0x00 f)
  | .ckpSt f => some (.h3 0x35 0x01 f)
  | .ckpRb f => some (.h3 0x35 0x02 f)
  | .nop => some (.hint { tl := 0, ha := 0, tail := 0 })
  | .hint h => some (.hint h)
  | .atomicAnswer _ => none
  | .registerWrite _ _ => none
  | .vcfgWrite _ => none
  | .vlWrite _ => none
  | .fpsWrite _ => none
  | .whzWrite _ => none
  | .lprWrite _ => none
  | .lprTakeEffect _ _ => none
  | .spwmodeWrite _ => none
  | .spwstWrite _ => none
  | .wptWrite _ _ => none
  | .wfeWake _ => none
  | .waittCompletion _ => none
  | .meetingInitAtHome _ => none
  | .meetingArrivalAtHome _ => none
  | .meetingCloseDeadline _ => none
  | .meetingWaitGiveUp _ _ => none
  | .meetingJoinAtHome _ => none
  | .verdictReceived _ => none
  | .homeAckReceived _ _ _ => none
  | .homeLossTimeout _ => none
  | .lockAcquireAtHome _ => none
  | .lockReleaseAtHome _ => none
  | .lockMendAtHome _ => none
  | .lockHoldLapse _ => none
  | .lockAcquireTimeout _ _ => none
  | .bufferClaimAtHome _ => none
  | .bufferFillAtHome _ => none
  | .bufferRecvAtHome _ => none
  | .bufferFreeAtHome _ => none
  | .slotHoleConversion _ _ _ => none
  | .claimTimeout _ _ _ => none
  | .recvTimeout _ _ _ => none
  | .chainPubAtHome _ => none
  | .chainReadTimeout _ _ _ => none
  | .stageFiring _ => none
  | .spawnPlacement _ => none
  | .stageAging _ _ _ => none
  | .vectorIssue _ _ _ => none
  | .copyHandoff _ => none
  | .copyCompletion _ => none
  | .copyFaultDelivery _ => none
  | .reductionPartial _ _ _ _ => none
  | .reductionResult _ _ _ => none
  | .leaseDrainComplete _ _ => none
  | .leaseRequestAtPeer _ _ => none
  | .leaseReleaseNotice _ _ => none
  | .leaseGrant _ _ _ => none
  | .leaseTerm _ _ => none
  | .leaseRevocation _ _ => none
  | .leaseReversionComplete _ _ => none
  | .starvationReclaim _ => none
  | .routingItemDelivery _ => none
  | .routingAnswer _ _ _ _ => none
  | .meterSnapshot => none
  | .scrubBlock _ => none
  | .checkpointCommitAck _ _ => none
  | .checkpointTimeout _ => none
  | .uncontainedError _ => none
  | .preemption _ => none
  | .sliceEnd _ _ => none
  | .contextRestore _ _ => none
  | .clusterRetirement _ => none
  | .rotationSet _ _ _ => none
  | .notify _ _ _ => none
  | .hostMemoryRequest _ _ _ _ _ => none
  | .hostCompletion _ _ _ => none
  | .requestTimeout _ => none
  | .fabricRequest _ => none
  | .fabricAnswer _ => none
  | .busyRetry _ => none
  | .shootdownAck _ _ => none
  | .migrationStart _ _ => none
  | .migrationSwitch _ => none
  | .migrationDone _ => none
  | .linkTraining _ _ _ _ _ _ => none
  | .flitReceived _ _ => none
  | .replayTimeout _ => none
  | .linkDown _ => none
  | .idleFlit _ => none
  | .escapeMove _ => none
  | .timeFlitExchange => none
  | .timeFlitAnswer _ _ _ => none
  | .ppsPulse => none
  | .referenceLost => none
  | .referenceAcquired => none
  | .functionLevelReset _ => none
  | .deviceReset => none
  | .lifeCycleChange _ _ => none
  | .spdmGetMeasurements _ _ _ => none
  | .thermalThrottle _ => none
  | .thermalShutdown => none
  | .coolingRestored => none
  | .tdispRequest _ _ => none
  | .incarnationNotice _ _ _ => none
  | .beatLend _ _ _ => none

/-- A head of TL, MAJ and HA (R79). -/
def packHead (tl maj : Nat) (ha : BitVec 8) : BitVec 16 := BitVec.ofNat 2 tl ++ BitVec.ofNat 6 maj ++ ha

/-- A head argument of DST and SUB (R80). -/
def packHA (d : BitVec 5) (sub : BitVec 3) : BitVec 8 := d ++ sub

/-- The head and the tail (zero above its length) of an identity and its fields (R79 to R84). -/
def Enc.words : Enc → BitVec 16 × BitVec 48
  | .h0 maj sub f => (packHead 0 maj (packHA f.arg (BitVec.ofNat 3 sub)), 0)
  | .h1 maj fn f => (packHead 1 maj (packHA f.d f.sub), (f.a ++ f.b ++ BitVec.ofNat 6 fn : BitVec 16).setWidth 48)
  | .h2 maj fn f => (packHead 2 maj (packHA f.d f.sub),
      (f.a ++ f.b ++ f.mask ++ f.ty ++ BitVec.ofNat 6 fn ++ f.imm : BitVec 32).setWidth 48)
  | .h3 maj fn f => (packHead 3 maj (packHA f.d f.sub),
      (f.a ++ f.b ++ f.mask ++ f.ty ++ BitVec.ofNat 4 fn ++ f.c ++ f.dl ++ f.imm : BitVec 48))
  | .wide maj fn f => (packHead 3 maj (packHA f.d f.sub), (f.imm ++ BitVec.ofNat 4 fn : BitVec 48))
  | .hint h => (packHead h.tl.toNat 0x3F h.ha, h.tail)

/-- The head and tail of an instruction; none for a device step, which has no encoding. -/
def encode (i : Instr) : Option (BitVec 16 × BitVec 48) := i.enc.map Enc.words

/-- A line that holds one head with its tail (R73): the head at bytes 0 and 1, a gap of zeros, the tail below byte 62
and the line word. -/
def oneHeadLine (head : BitVec 16) (tail : BitVec 48) : List Byte :=
  let len := 2 * (bitsAt head 14 2).toNat
  leBytes 2 head.toNat ++ List.replicate (60 - len) 0 ++ leBytes len tail.toNat ++ [1, 0]

/-- Decode head i of a line. -/
noncomputable def decodeLine (line : List Byte) (i : Nat) : Except DecErr Instr :=
  decodeHead (lineHalf line i) (lineTail line i)

/-- The instruction the decoder reads from a word numbered as the opcode table numbers it: the head in bits 15..0 and
the tail from bit 16. The word is laid out as a line of one head and that line is decoded. -/
noncomputable def decodeTableWord (nbits w : Nat) : Option Instr :=
  let w := w % 2 ^ nbits
  match decodeLine (oneHeadLine (BitVec.ofNat 16 w) (BitVec.ofNat 48 (w / 65536))) 0 with
  | .ok i => some i
  | .error _ => none

end Sys2Proof
end

