-- ==== Sys2Proof/Machine/State.lean ====
section
/-! DEFINITION. The state of one device with its host memory, as plain data, and its value after reset. -/
namespace Sys2Proof.Machine

/-! ## A loop context -/

/-- The copy of a line that a context fetched at its last entry (R77). -/
structure Line where
  base : Nat
  bytes : List Byte
  deriving DecidableEq, Repr

/-- A translation that a cache holds (R225, R227, R229): the virtual address where the place of its leaf in the tables
starts, the leaf, and the table line it was read from. -/
structure Trans where
  va : Nat
  e : Nat
  line : Nat
  deriving DecidableEq, Repr

/-- A stream register (R227, R242): the translations it holds, from one table line, and those of its walk-ahead. -/
structure Stream where
  base : Word := 0
  stride : Word := 0
  pos : BitVec 48 := 0
  valid : Bool := false
  stale : Bool := false
  held : List Trans := []
  ahead : List Trans := []
  deriving DecidableEq, Repr

/-- An invalidation that a holder has not acknowledged (R230): the holder, the table line, and the context whose store
changed the line. -/
structure Shoot where
  holder : Holder
  line : Nat
  by_ : Nat
  deriving DecidableEq, Repr

/-- The weight-tile latch record of a context (R291, R341). -/
structure Latch where
  addr : Word
  fmt : Word
  complete : Bool
  deriving DecidableEq, Repr

/-- The unfold configuration of a context (R343). -/
structure Unf where
  desc : List Byte
  fmt : Word
  geo : Word
  deriving DecidableEq, Repr

/-- A progress entry (R441): the ordinal of a vector instruction, counted from the next one to issue, its first element or
row that is not done, and the stream position that it captured (R241). -/
structure Prog where
  ord : Nat
  idx : Nat
  pos : Option (BitVec 48) := none
  /-- the backings that a vector memory instruction has resolved (R262) -/
  backs : List (Nat × Bool) := []
  deriving DecidableEq, Repr

/-- What an `mmla` captured when it issued (R294). -/
structure MmCap where
  latch : Latch
  unf : Unf
  kcur : Nat
  vl : Word
  vcfg : Word
  maskBits : Nat
  deriving DecidableEq, Repr

/-- The instruction that a trap stopped part-way (R271, R443): its head, `es` at its first issue, whether `eret` has
returned to it, and the configuration an `mmla` keeps. -/
structure Resume where
  pc : BitVec 56
  es0 : Word
  active : Bool
  mm : Option MmCap
  /-- the stream position that the instruction captured (R241) -/
  pos : Option (BitVec 48) := none
  /-- whether its footprint touches an SO page, so that nothing has started behind it (R203) -/
  so : Bool := false
  deriving DecidableEq, Repr

/-- An answer to a request that left the device: 0 done, 2 GONE, 3 refused, 4 poisoned, 5 no answer in time (R379,
R391); from the host 0 success, 1 Unsupported Request, 2 Completer Abort, 4 poisoned, 5 none (R179). -/
structure FAns where
  st : Nat
  val : Nat
  deriving DecidableEq, Repr

/-- A context held part-way in an instruction (R177): the instruction's stamp, the next element or item, the reply
reservation it waits for, the answer once it has come, and words that the instruction has gathered. -/
structure Hold where
  stamp : Nat
  elem : Nat := 0
  tag : Option Nat := none
  ans : Option FAns := none
  aux : List Word := []
  /-- the elements that a vector memory instruction still has to perform, in their order -/
  todo : Option (List Nat) := none
  /-- the backing that a vector memory instruction has resolved of each buffer that it has reached (R262) -/
  backs : List (Nat × Bool) := []
  /-- the stream position that the instruction captured (R241) -/
  pos : Option (BitVec 48) := none
  /-- the address of the access that stopped the instruction -/
  stopAt : Option Nat := none
  /-- the requests of a multicast store (R400), each with its answer once it has come -/
  many : List (Nat × Option FAns) := []
  deriving DecidableEq, Repr

/-- An instruction in a context's vector queue (R21, R26, R441), or a scalar store that waits behind one (R440): its program
point, the scalar and control registers there, where it stands when it is part-way, and the beats that its operands and unit
still take. -/
structure VqEntry where
  pc : BitVec 56
  line : Option Line
  s : Vector Word 32
  avl : Word
  vl : Word
  vcfg : Word
  hold : Option Hold
  delay : Nat
  /-- whether the context has gone on to another strip behind it (R29) -/
  stripEnd : Bool := false
  deriving DecidableEq, Repr

/-- How far a binding that moves between two homes has come (R160): the new home, on another device, is asked to bind; the old
one is asked to give up what the new one has bound, or what this device will bind; this device binds. -/
inductive Rebind where
  | atNew | atOld | oldFirst | atHere
  deriving DecidableEq, Repr

/-- What the end of a home wait does to its context. -/
inductive WaitOp where
  /-- writes `ws` and two destinations (R14, R50) -/
  | plain (d1 d2 : Nat)
  /-- a chained `vsetl` (R146) with its length and chain, or `vnext` (R145) -/
  | grant (d : Nat) (next : Bool) (len : Word) (chn : Nat)
  /-- the claim of `tcopy.cb` (R359): DST, descriptors, buffer, fill deadline -/
  | copy (d : Nat) (dst src : List Byte) (buf fill : Nat)
  /-- `mld.red` (R367): vector destination, the two scalars, group -/
  | reduce (vd d1 d2 g : Nat)
  /-- `waitt` (R13) -/
  | tick
  /-- `wfe` (R134) -/
  | pause
  /-- `vgang` (R149): DST, seats, deadline -/
  | gang (d : Nat) (seats : List (Nat × Nat)) (dl : Nat)
  /-- a `cb.def` or `chain.def` at another device (R160): DST, number, chain or not, record, or none to unbind -/
  | bind (d n : Nat) (chain : Bool) (pa : Option Nat)
  /-- a `cb.def` or `chain.def` whose new record and old binding have homes on two devices (R160): how far it has come, DST,
  number, chain or not, the device, address and die of the new record, and what the new home has answered -/
  | rebind (step : Rebind) (d n : Nat) (chain : Bool) (dev pa die : Nat) (r1 r2 : Word)
  /-- the last request of a `cb.def` or `chain.def` that takes a change at one home back: DST, and how it then ends -/
  | undo (d code : Nat) (r1 : Word)
  /-- the result of an instruction without `ws` (R137): DST alone -/
  | result (d : Nat)
  deriving DecidableEq, Repr

/-- A context that waits (R47): for its home's answer, for a tick, or for an event. `limit` is the tick of R68 at
which a lost home ends the wait. -/
structure Wait where
  op : WaitOp
  obj : Option Obj
  /-- the device of the home -/
  dev : Nat
  stamp : Nat
  u : Nat
  limit : Option Nat
  deriving DecidableEq, Repr

/-- The firing that a task runs for (R34, R35): graph, stage and the slots it claimed and reserved. -/
structure Firing where
  graph : Nat
  stage : Nat
  ins : List (Nat × Nat)
  outs : List (Nat × Nat)
  deriving DecidableEq, Repr

/-- A resident loop context (R21). Register bytes lie in sparse lists: `v` by (register, lane, byte of the column)
and `a` by (register, row, column) as `vKey` and `aKey` of `Machine/Cells.lean` number them. -/
structure Ctx where
  id : Nat
  /-- false once the context has left its slot by `exit` or by a loss; such a context holds no slot -/
  alive : Bool
  core : Nat
  pos : Nat
  slot : Nat
  part : Nat
  priv : BitVec 2
  pc : BitVec 56
  line : Option Line
  s : Vector Word 32
  avl : Word
  vl : Word
  vcfg : Word
  es : Word
  esk : Word
  ws : Word
  fps : Word
  cause : Word
  epc : Word
  tval : Word
  tst : Word
  v : List (Nat × Byte)
  a : List (Nat × BitVec 36)
  m : Vector Nat 8
  vDirty : BitVec 32
  aDirty : BitVec 32
  mDirty : BitVec 8
  sat : BitVec 32
  q : Vector Stream 16
  f : Vector Word 16
  d : Vector (List Byte) 16
  latch : Option Latch
  unf : Option Unf
  kcur : Nat
  prog : List Prog
  gang : List (Nat × Nat)
  prio : Nat
  firing : Option Firing
  born : Nat
  wait : Option Wait
  hold : Option Hold
  resume : Option Resume
  waittDone : Bool
  /-- the head that is exempt once from the execute check of R456 (R438) -/
  bpExempt : Option (BitVec 56)
  /-- a residue mismatch that the next vector instruction will find twice: first element of the group, and `tval`
  (R453) -/
  perr : Option (Nat × Nat)
  /-- the stores that the context has made since its last `fence.full`, the last first (R78): key, the bytes that were there,
  and the bytes stored -/
  unseen : List (Nat × List Byte × List Byte)
  /-- the vector queue, oldest first, of at most 32 vector instructions (R21), with the stores that wait in it (R440) -/
  vq : List VqEntry := []
  /-- while an instruction that was stopped part-way is performed as far as it had come: the element or row that it had
  not completed (R441, R445) -/
  stop : Option Nat := none
  /-- while the context is being stopped (R445, R446): the first element that its vector instruction under way does not come
  to -/
  stopping : Option Nat := none
  /-- the head at which the last trap was taken, until the return (R441) -/
  trapPc : Option (BitVec 56) := none
  /-- when the context completed its last `waitt`: twice the cycle, plus one if in the course of it (R13) -/
  waittAt : Nat := 0
  deriving DecidableEq, Repr

/-! ## Seats and partitions -/

/-- A Spillway entry (R297): accumulator register, depth row of the core, column, count. -/
structure Spill where
  reg : Nat
  row : Nat
  col : Nat
  count : Int
  deriving DecidableEq, Repr

/-- A weight bank (R291): whose tile it holds, its format, the rows latched and the bytes of the tile's areas. -/
structure Bank where
  owner : Nat
  addr : Word
  fmt : Word
  rows : Nat
  codes : List Byte
  scales : List Byte
  lists : List Byte
  deriving DecidableEq, Repr

/-- A seat (R23) with its own registers (R27, R141, R298, R299). `size` is the positions spanned: 1, 2 or 4. -/
structure Seat where
  core : Nat
  pos : Nat
  size : Nat
  lgk : Nat
  part : Nat
  vcap : Word
  lpr : Word
  lprNew : Option Word
  spwmode : Word
  jams : Nat
  stalls : Nat
  peak : Nat
  spill : List Spill
  bank : Option Bank
  gangOf : Option Nat
  lent : List Nat
  deriving DecidableEq, Repr

/-- The states of a partition slot (R425). -/
inductive PState where
  | free | assigned | live | stopped | scrub
  deriving DecidableEq, Repr

/-- A spawned task that waits for a slot (R40, R170). -/
structure Spawn where
  entry : Word
  arg : Word
  scope : Nat
  core : Nat
  prio : Nat
  at_ : Nat
  deriving DecidableEq, Repr

/-- An event record (R458). -/
structure Ev where
  kind : Nat
  seq : Nat
  tick : Nat
  who : Nat
  data : Nat
  lost : Nat
  deriving DecidableEq, Repr

/-- A running stop of a partition (R427, R435, R465). -/
structure Stop where
  stamp : Nat
  kill : Bool
  byReset : Bool
  flr : Nat
  /-- whether step 2 of R427 is done -/
  cleared : Bool := false
  /-- the requests of the host and of other devices that came before the stop moment and still wait (R428) -/
  due : List Instr := []
  deriving DecidableEq, Repr

/-- A valid SEAT entry of a partition record (R463). -/
structure SeatRec where
  core : Nat
  pos : Nat
  size : Nat
  lgk : Nat
  /-- whether the seat is time-shared with other partitions (R447) -/
  turned : Bool := false
  deriving DecidableEq, Repr

/-- One partition (R6, R425, R463). -/
structure Part where
  st : PState
  kz : Bool
  inc : BitVec 8
  flrc : Nat
  scrt : Nat
  scrStart : Nat
  scrDone : Nat
  owner : Word
  key : BitVec 512
  root : Nat
  save : Nat
  savesz : Nat
  hga : Nat
  npq : Nat
  cke : Bool
  loose : Bool
  hostb : Nat
  hostl : Nat
  ckdev : Nat
  ckpt : Nat
  entry : Nat
  ranges : List (Nat × Nat)
  csp : Nat
  seatRecs : List SeatRec
  tvec : Word
  whz : Word
  wpt : Vector Word 4
  watch : List (Nat × Nat × Nat)
  spawnQ : List Spawn
  spawnCount : Nat
  preTick : Option Nat
  pending : Nat
  evSeq : Nat
  evLost : Nat
  /-- when the slot for the next event was asked for at `c255`'s home on another device -/
  evAsk : Option Nat := none
  evs : List Ev
  meters : Vector Word 32
  chain : BitVec 384
  chainBefore : BitVec 384
  snap : Nat
  record : List Byte
  allot : Vector Nat 10
  share : Vector Nat 10
  ckPhase : Nat
  ckHas : Bool
  ckLast : Nat
  ckN : Nat
  ckBlocks : Nat
  ckStart : Nat
  /-- checkpoint-dirty bits (R477): a 64 KiB block is dirty when its being in `ckList` differs from `ckAll` -/
  ckAll : Bool
  ckList : List Nat
  tdisp : Nat
  ntf : BitVec 32
  ronc : BitVec 32
  stop : Option Stop
  deriving DecidableEq, Repr

/-! ## The Headgates -/

/-- A waiting party at a meeting or barrier (R154); `u` is its deadline, or its stamp for a poll. A group's party that
was given up stays: its reducer still takes the verdict (R366, R367). -/
structure MtWaiter where
  who : Who
  party : Nat
  u : Nat
  gave : Bool := false
  deriving DecidableEq, Repr

/-- A verdict kept for a party (R154). -/
structure Verdict where
  party : Nat
  code : Nat
  r1 : Word
  r2 : Word
  deriving DecidableEq, Repr

/-- A live meeting, group meeting or named barrier at its home (R55, R57, R61, R363). -/
structure Meet where
  obj : Obj
  part : Nat
  die : Nat
  memb : Word
  arr : Word
  joined : Word
  labs : Word
  ljoin : Word
  dl : Nat
  dlv : Bool
  gen : BitVec 32
  grace : Nat
  scope : Nat
  digest : BitVec 64
  /-- parties held in the open generation, and whether each is late (R15) -/
  held : List (Nat × Bool)
  waits : List MtWaiter
  kept : List Verdict
  deriving DecidableEq, Repr

/-- A waiting acquirer (R63). -/
structure LkWaiter where
  who : Who
  hdl : Nat
  u : Nat
  b : Nat
  deriving DecidableEq, Repr

/-- A lock with a Headgate entry (R56, R62). -/
structure Lock where
  pa : Nat
  part : Nat
  die : Nat
  holder : Option Who
  hdl : Nat
  abdl : Nat
  abn : Bool
  queue : List LkWaiter
  deriving DecidableEq, Repr

/-- The state of a buffer's slot (R157, R161 to R166); `freed`: freed, with an earlier slot still taken. -/
inductive SlotSt where
  | free
  | reserved (dl : Nat)
  | filled
  | hole
  | taken
  | freed
  deriving DecidableEq, Repr

/-- A waiting claim or receive (R161, R163, R414). A receive holds `got` slots from `first` already. -/
structure CbWaiter where
  who : Who
  n : Nat
  u : Nat
  fill : Nat
  routed : Bool
  got : Nat
  first : Nat
  deriving DecidableEq, Repr

/-- A bound circular buffer (R157, R160). `home` and `die` are the device and the die of its record. -/
structure Buf where
  part : Nat
  n : Nat
  pa : Nat
  home : Nat
  die : Nat
  base : Nat
  cap : Nat
  lgsz : Nat
  host : Bool
  np : Bool
  scope : Nat
  rsv : BitVec 32
  fre : BitVec 32
  con : BitVec 32
  hpr : BitVec 32
  rpos : Nat
  fpos : Nat
  cpos : Nat
  slots : List SlotSt
  claims : List CbWaiter
  recvs : List CbWaiter
  expert : Option Nat
  /-- bound as the event buffer by partition-level code (R458) -/
  events : Bool
  deriving DecidableEq, Repr

/-- A waiting chained `vsetl` (R67). -/
structure ChWaiter where
  who : Who
  full : Nat
  es : Nat
  u : Nat
  deriving DecidableEq, Repr

/-- A bound chain (R157, R160, R168), with the device and the die of its record. -/
structure Chain where
  part : Nat
  n : Nat
  pa : Nat
  home : Nat
  die : Nat
  h : Word
  scope : Nat
  waits : List ChWaiter
  deriving DecidableEq, Repr

/-! ## Graphs, host queues, tensor units -/

/-- A stage of a graph with its record (R33) and its clocks (R38). -/
structure Stage where
  entry : Nat
  ins : List (Nat × Nat)
  outs : List (Nat × Nat)
  prio : Nat
  maxi : Nat
  aff : Word
  arg : Word
  term : Nat
  fired : Nat
  due : Nat
  running : Nat
  since : Option Nat
  level : Nat
  deriving DecidableEq, Repr

/-- A task graph (R33, R171, R172). -/
structure Graph where
  part : Nat
  g : Nat
  stages : List Stage
  running : Bool
  deriving DecidableEq, Repr

/-- A hardware queue slot (R42). -/
structure QSlot where
  idx : Nat
  part : Nat
  buf : Nat
  np : Bool
  last : Nat
  deriving DecidableEq, Repr

/-- A tensor window (R187): its range, the row length, the extent of dimension 1, the tile's span, its generation, and its
pages, physical and virtual. -/
structure Win where
  part : Nat
  id : Nat
  base : Nat
  size : Nat
  desc : List Byte
  r0 : Nat
  ext1 : Nat
  s0 : Nat
  gen : Nat
  pages : List (Nat × Nat)
  deriving DecidableEq, Repr

/-- The key of a tile-cache line: partition, tensor id, generation and tile number. -/
structure TcKey where
  part : Nat
  ten : Nat
  gen : Nat
  tile : Nat
  deriving DecidableEq, Repr

/-- A line that a slice of the tile cache holds (R185); slices count from 0 over both dies. -/
structure TcLine where
  slice : Nat
  set_ : Nat
  way : Nat
  tile : TcKey
  deriving DecidableEq, Repr

/-- A line that an L1 holds (R183): core, way, physical address divided by 128, key, whether it is modified, and its home die.
Its set is the sector modulo 512. -/
structure L1Line where
  core : Nat
  way : Nat
  sec : Nat
  tile : TcKey
  modified : Bool
  die : Nat := 0
  deriving DecidableEq, Repr

/-- A 128-byte sector that is dirty in a cache: physical address divided by 128, the key of its line, and what the port
still holds. -/
structure StaleSec where
  sec : Nat
  tile : TcKey
  old : List Byte
  deriving DecidableEq, Repr

/-- A Sluice binding (R336). `torn`: a copy into its shadow was cancelled before it completed (R214, R361). -/
structure Bind where
  part : Nat
  base : Nat
  alt : Nat
  span : Nat
  cur : Bool
  desc : List Byte
  torn : Bool
  deriving DecidableEq, Repr

/-- What a copy does when it completes (R353). -/
inductive CopyKind where
  /-- into the shadow of the binding at this BASE, writing this backing (R358) -/
  | shadow (base : Nat) (backing : Bool)
  /-- into a slot of a buffer, filled on completion (R359) -/
  | slot (buf slot fill : Nat)
  deriving DecidableEq, Repr

/-- A copy of the tensor-copy engine (R357, R360). `slot` is its engine slot once it is handed off, `at_` the tick at
which the engine goes on with it, `next` its next element, `fault` the cause and address at which it stands stopped,
`cur` the backing of each binding of its partition at hand-off, `got` a source element that waits to be written, and
`far` and `ans` its access to a remote frame in flight. -/
structure Copy where
  id : Nat
  part : Nat
  ctx : Nat
  core : Nat
  pos : Nat
  devl : Bool
  kind : CopyKind
  dst : List Byte
  src : List Byte
  slot : Option Nat
  at_ : Nat
  next : Nat
  fault : Option (Nat × Nat)
  delivered : Bool
  cur : List (Nat × Bool)
  got : Option (List Byte)
  far : Option Nat
  ans : Option FAns
  deriving DecidableEq, Repr

/-! ## Fabric -/

/-- What a reducer knows of a closed generation (R366, R367): its number, the `ws` code, the two masks and the members
that were present. -/
structure RedV where
  gen : Nat
  code : Nat
  absent : Word
  joined : Word
  pres : Word
  deriving DecidableEq, Repr

/-- One `mld.red` that a reducer serves: its context and stamp, its widened vector (R364), and whether its own verdict
has come. -/
structure Arrival where
  ctx : Nat
  stamp : Nat
  vec : List (BitVec 32)
  known : Bool := false
  deriving DecidableEq, Repr

/-- A reduction in a device's reducer (R366): the `mld.red`s that it serves, of which the first gives the device's vector
(R365), the verdict, the children's partial sums, whether this member's sum has gone to its parent, and the result. -/
structure Red where
  arrivals : List Arrival
  verdict : Option RedV
  parts : List (Nat × List (BitVec 32))
  sent : Bool
  result : Option (List (BitVec 32))
  deriving DecidableEq, Repr

/-- A multicast group defined on this device (R362, R397), with its reductions, oldest first, and the children's partial
sums that no reduction has taken yet. -/
structure Grp where
  part : Nat
  g : Nat
  record : List Byte
  me : Nat
  reds : List Red
  early : List (Nat × List (BitVec 32)) := []
  /-- the generation of the last reduction that is over -/
  last : Option Nat := none
  deriving DecidableEq, Repr

/-- Where a lease stands (R374, R404): 0 never used, 1 negotiating, 2 standing, 3 reverting, 4 ended. -/
structure Lease where
  part : Nat
  id : Nat
  state : Nat
  end_ : Nat
  taker : Nat
  giver : Nat
  k : Nat
  kGot : Nat
  term : Nat
  start : Nat
  /-- whether the channels that it moves are drained, and since when -/
  drained : Bool
  drainAt : Nat := 0
  /-- how many flits the link of those channels had sent when they were closed (R374) -/
  upTo : Nat := 0
  /-- the incarnation of the partition that made it -/
  inc : BitVec 8 := 0
  /-- the context that waits for the grant, and its destination register -/
  ctx : Option (Nat × Nat)
  /-- when its ending came: tick, and cycle since the reset -/
  endAt : Nat × Nat
  deriving DecidableEq, Repr

/-- A request for the lease unit (R378, R402): context, destination register, partition, count, term, taker, giver and
stamp. -/
structure LeaseReq where
  ctx : Nat
  d : Nat
  part : Nat
  k : Nat
  term : Nat
  taker : Nat
  giver : Nat
  stamp : Nat
  deriving DecidableEq, Repr

/-- What has reached the lease unit and waits for it (R378): a request, or an ending with its lease, its END code (R404) and when it
came. -/
inductive LeaseMsg where
  | ask (r : LeaseReq)
  | ending (part id code : Nat) (at_ : Nat × Nat)
  deriving DecidableEq, Repr

/-- A queue toward a destination that holds flits (R377, R388): its number, since when it has held one, the flit at its head
and since when that is there. -/
structure QClock where
  no : Nat
  since : Nat
  head : Flit
  headAt : Nat
  deriving DecidableEq, Repr

/-- One destination's link (R370 to R382). `inbound` counts the receive channels tuned to this peer and `resvRx` those
that a lease of the peer has released (R375); `kept` wavelengths of partition 0 are reserved for checkpoints (R395). -/
structure Link where
  peer : Nat
  up : Bool
  w : Nat
  tr : Nat
  rtt : Nat
  inbound : Nat
  cap : Nat
  resvRx : Nat
  kept : Nat
  txSeq : BitVec 12
  rxSeq : BitVec 12
  nakSent : Bool
  retry : List Flit
  lastAck : Nat
  replays : Nat
  /-- flits that wait, each with the partition whose queue it is in, 64 for a transit flit -/
  queue : List (Nat × Flit)
  /-- the buffers of the escape channel -/
  escQ : List (Nat × Flit)
  lastTx : Nat
  clocks : List QClock
  /-- the queue whose turn it is, and how many flits it may still send (R372) -/
  rr : Nat
  credit : Nat
  /-- flits sent since the reset, and flits accepted and discarded (R380) -/
  sentN : Nat
  discards : Nat
  deriving DecidableEq, Repr

/-- An AtomicOp under way in host memory (R118, R179): the word's key, function, type and operands, and whether the completion
of a later one has shown that the host has performed it. -/
structure HostOp where
  key : Nat
  fn : Nat
  ty : Nat
  b : Nat
  e : Nat
  done : Bool := false
  deriving DecidableEq, Repr

/-- A reply reservation (R391); `host` is that of an AtomicOp, which sends no flit. -/
structure Resv where
  tag : Nat
  ctx : Nat
  flit : Flit
  start : Nat
  busyUntil : Option Nat
  host : Option HostOp := none
  /-- what a meeting-class request asks (R383) -/
  msg : Option Msg := none
  deriving DecidableEq, Repr

/-- An item of a send list (R408, R409): the payload's address and the core that named it, the header, the payload bytes
read so far, a remote read of them in flight with its answer, and the request once it is sent. -/
structure RItem where
  payload : Nat
  core : Nat
  header : BitVec 128
  got : List Byte
  rd : Option Nat
  data : Option FAns
  tag : Option Nat
  deriving DecidableEq, Repr

/-- The sending side of a partition on a die (R407, R413, R419). `going` is the context whose `rt.go` is in flight, and
`queue` the contexts whose operations wait for its end (R423). -/
structure RSide where
  part : Nat
  die : Nat
  isOpen : Bool
  map : List Nat
  lists : List (Nat × List RItem)
  counters : Vector Word 6
  going : Option Nat
  delivered : Nat
  queue : List Nat
  deriving DecidableEq, Repr

/-- An import granted to another device's partition (R220). -/
structure Import where
  dev : Nat
  part : Nat
  base : Nat
  size : Nat
  wr : Bool
  skew : Nat
  deriving DecidableEq, Repr

/-- The DMTF value types of measurements (R473). -/
inductive DmtfType where
  | immutableRom | mutableFirmware | hardwareConfiguration | rawBitStream
  deriving DecidableEq, Repr

/-- What leaves the device toward an outside agent. -/
inductive Out where
  /-- what a meeting-class flit to another device's home asks (R52, R383) -/
  | msg (dev : Nat) (m : Msg)
  /-- a home's answer to a party on another device -/
  | ans (w : Who) (r : Ans)
  /-- a home's acknowledgement with DL and GRACE (R68) -/
  | ack (w : Who) (dl grace : Nat)
  /-- a flit on the link of a destination (R379 to R382) -/
  | flit (d : Nat) (f : Flit)
  /-- the notice, in the control class, that a partition has started or stopped in an incarnation (R392) -/
  | incarnation (part inc : Nat) (live : Bool)
  /-- a PCIe AtomicOp request (R118, R179): address, function, width, operands -/
  | atomicOp (ctx addr fn width : Nat) (b e : Word)
  /-- a PCIe completion to the host: data, or none for Unsupported Request -/
  | completion (data : Option (List Byte))
  /-- a write of a checkpoint to the safe tier (R478, R479): device, address, bytes -/
  | commit (dev addr : Nat) (record : List Byte)
  /-- an SPDM answer: index, value if present, signature (R473, R474), and the value's type -/
  | spdm (idx : Nat) (value : Option (List Byte)) (sig : BitVec 768) (type : Option DmtfType)
  deriving DecidableEq, Repr

/-- A meeting-class request that has come (R389): its OSEQ, what it asks, whether it was answered busy, and what its home has
said to it since. -/
structure MsgSeen where
  oseq : Nat
  msg : Msg
  busy : Bool := false
  said : List Out := []
  deriving DecidableEq, Repr

/-- A request stream as its destination knows it (R389): the lowest OSEQ that has not come, the requests above it that have
come, the answers kept, and the requests answered busy that have not come again (R390). -/
structure OStream where
  sdev : Nat
  spart : Nat
  sinc : Nat
  next : BitVec 16 := 0
  ahead : List Flit := []
  seen : List (Nat × Flit)
  busied : List Flit := []
  met : List MsgSeen := []
  deriving DecidableEq, Repr

/-- A vector of a reduction that is coming in (R393): partition, group, the child it comes from or 64 for the root's result,
and its pieces by their first elements. -/
structure VecIn where
  part : Nat
  g : Nat
  from_ : Nat
  pieces : List (Nat × List (BitVec 32))
  deriving DecidableEq, Repr

/-! ## The rest of the device -/

/-- A migrating 64 KiB block (R233): dirty granules, whether it is in SWITCH and since when, and what was answered busy: writes
of the hardware's own, in order, and write-backs of sectors. -/
structure Migr where
  src : Nat
  dst : Nat
  dirty : List Nat
  switching : Bool
  since : Nat := 0
  waiting : List (Nat × List Byte) := []
  backs : List Nat := []
  deriving DecidableEq, Repr

/-- A seat's rotation (R447): partitions with their slices, which holds it and since when. -/
structure Rot where
  core : Nat
  pos : Nat
  turns : List (Nat × Nat)
  holder : Nat
  since : Nat
  deriving DecidableEq, Repr

/-- A saved context (R449, R451): its image's address, and what the image does not hold. -/
structure Saved where
  part : Nat
  addr : Nat
  seat : Option (Nat × Nat)
  ctx : Ctx
  len : Nat
  dlen : Nat
  lanes : Nat
  rrows : Nat
  kept : Option Ans
  /-- when it was saved: its rank ages from then on (R40, R451) -/
  since : Nat := 0
  deriving DecidableEq, Repr

/-- A checkpoint as the safe tier holds it (R479), `done` once it is committed: the bytes of the partition's granules and
grants and local shares, its state block (R478), and its contexts. -/
structure Ckpt where
  part : Nat
  n : Nat
  done : Bool
  mem : List Host.Cell
  spawnQ : List Spawn
  meets : List Meet
  locks : List Lock
  bufs : List Buf
  chains : List Chain
  graphs : List Graph
  binds : List Bind
  sides : List RSide
  saved : List Saved
  deriving DecidableEq, Repr

/-- The bring-up of R491: still in the ROM's row, or running; held for cooling (R494); stuck in the ROM (R472). -/
inductive Boot where
  | booting (stage : Nat) | running | thermalHold | romOnly
  deriving DecidableEq, Repr

/-- The whole device (R21 to R494) with its host memory. The context that runs is `c`; the others lie in `others`. -/
structure State where
  c : Ctx
  others : List Ctx
  nextId : Nat
  tick : BitVec 64
  cyc : Nat
  /-- cycles since the reset (R25) -/
  cycle : Nat := 0
  /-- the lane sides that have issued a vector instruction in this cycle: core, position, side (R26) -/
  issued : List (Nat × Nat × Bool) := []
  /-- the 2^20-tick period whose periodic snapshot has been taken (R470) -/
  metered : Nat := 0
  parts : Vector Part 64
  seats : List Seat
  /-- memory by the numbering of `Machine/Cells.lean`: device HBM, host memory and the four local levels -/
  mem : List Host.Cell
  /-- the lines of the L1s, the last used first (R183) -/
  l1 : List L1Line
  /-- the lines of the tile cache (R185) -/
  tcl : List TcLine
  /-- the sectors that are dirty in a cache (R184) -/
  stale : List StaleSec
  /-- the skew of each frame that a leaf has reached (R192): frame number, skew -/
  skews : List (Nat × Nat)
  /-- poisoned 64-byte units (R455) -/
  poison : List Nat
  smap : Vector (BitVec 16) 256
  tgb : Word
  dev : Nat
  e1 : Nat
  e2 : Nat
  refPresent : Bool
  pps : Nat
  goodTime : Nat
  /-- the correction of the next increment (R44), and what the pulse per second still asks for (R490) -/
  tickAdj : Int
  ppsOff : Int
  /-- the correction of the increment after that, when it comes in a tick's last cycle -/
  adjNext : Int := 0
  meets : List Meet
  locks : List Lock
  bufs : List Buf
  chains : List Chain
  msgs : List Msg
  answers : List Ans
  graphs : List Graph
  /-- the occupied queue slots in the order of their last notifies (R42) -/
  qslots : List QSlot
  qserved : Nat
  /-- notifies that need another queue's slot, until the cycle ends (R43): partition and buffer -/
  evicts : List (Nat × Nat)
  /-- reserved slots that an `exit` or a loss turns into HOLEs in this cycle (R37, R59): partition, buffer, slot -/
  holes : List (Nat × Nat × Nat) := []
  wins : List Win
  binds : List Bind
  copies : List Copy
  nextCopy : Nat
  grps : List Grp
  leases : List Lease
  leaseQ : List LeaseMsg
  links : Vector Link 10
  /-- packets that have no working route (R387) -/
  unrouted : List (Nat × Flit)
  /-- since when each of their queues holds the packet at its head (R388) -/
  strayClocks : List QClock := []
  /-- links of other devices that are down: device and destination (R53, R387) -/
  farDown : List (Nat × Nat)
  /-- how often the tree of the escape channel has been rebuilt (R388) -/
  tree : Nat
  vecIns : List VecIn
  /-- whether the tick has been loaded at this bring-up (R44) -/
  tickSet : Bool
  resvs : List Resv
  nextTag : Nat
  oseqs : List ((Nat × Nat) × BitVec 16)
  streams : List OStream
  incs : List ((Nat × Nat) × BitVec 8)
  imports : List Import
  sides : List RSide
  migrs : List Migr
  redir : List (Nat × Nat)
  /-- the translations of the caches that are no stream registers: holder, partition, translation -/
  tlb : List (Holder × Nat × Trans)
  /-- invalidations under way (R230) -/
  shoot : List Shoot
  rots : List Rot
  saved : List Saved
  ckpts : List Ckpt
  ncl : Word
  meas : Vector (BitVec 384) 8
  life : Nat
  bootCount : BitVec 32
  boot : Boot
  throttle : Nat
  out : List Out
  /-- steps of outside agents, and device steps at moments the hardware chooses, that come next (log 1) -/
  inputs : List Instr
  /-- device steps that must wait for the next tick -/
  later : List Instr
  /-- latencies of the next messages to homes, in ticks; none left: 0 (log 1) -/
  lat : List Nat
  /-- how many free values have been used (log 2) -/
  free : Nat
  /-- the contexts whose queue heads a seat has chosen at its beat, and which issue next (R26) -/
  issue : List Nat
  /-- the beats that the next vector instructions wait in their queues for operands and a unit; none left: 0 (log 58) -/
  lag : List Nat
  /-- the first sequencer that has not had its slot in this cycle -/
  cursor : Nat
  /-- the context that issued last on each sequencer (R22) -/
  lastRun : List (Nat × Nat)
  deriving DecidableEq, Repr

/-- The model has no fault: every failure that the spec describes is a trap or a status, and both are next states.
No instruction raises one. -/
inductive Fault where
  deriving DecidableEq, Repr

/-- Refusals. -/
inductive Refusal where
  /-- an instruction without a meaning yet; raised by `exec` alone, and safe: the machine stops -/
  | notModelled (mnemonic : String)
  deriving DecidableEq, Repr

/-! ## Reset -/

/-- A context at its task-start values (R10, R35, R107, R140, R242, R274, R333, R448) in a place. -/
def Ctx.start (id core pos slot part : Nat) (priv : BitVec 2) (pc : BitVec 56) : Ctx :=
  { id := id, alive := true, core := core, pos := pos, slot := slot, part := part, priv := priv, pc := pc, line := none,
    s := Vector.replicate 32 0, avl := 0, vl := 0, vcfg := 0x700, es := 0, esk := 0, ws := 0,
    fps := 0x100000000, cause := 0, epc := 0, tval := 0, tst := 0, v := [], a := [], m := Vector.replicate 8 0,
    vDirty := 0, aDirty := 0, mDirty := 0, sat := 0, q := Vector.replicate 16 {}, f := Vector.replicate 16 0,
    d := Vector.replicate 16 (List.replicate 128 0), latch := none, unf := none, kcur := 0, prog := [], gang := [],
    prio := 0, firing := none, born := 0, wait := none, hold := none, resume := none, waittDone := false,
    bpExempt := none, perr := none, unseen := [] }

/-- A partition slot after the wipe of R476. -/
def Part.reset : Part :=
  { st := .free, kz := true, inc := 0, flrc := 0, scrt := 0, scrStart := 0, scrDone := 0, owner := 0, key := 0,
    root := 0, save := 0, savesz := 0, hga := 128, npq := 8, cke := false, loose := false, hostb := 0, hostl := 0,
    ckdev := 0, ckpt := 0, entry := 0, ranges := [], csp := 0, seatRecs := [], tvec := 0, whz := 0x100000,
    wpt := Vector.replicate 4 0, watch := [], spawnQ := [], spawnCount := 0, preTick := none, pending := 0,
    evSeq := 0, evLost := 0, evs := [], meters := Vector.replicate 32 0, chain := 0, chainBefore := 0, snap := 0,
    record := [], allot := Vector.replicate 10 0, share := Vector.replicate 10 0, ckPhase := 0, ckHas := false,
    ckLast := 0, ckN := 0, ckBlocks := 0, ckStart := 0, ckAll := false, ckList := [], tdisp := 0, ntf := 0, ronc := 0,
    stop := none }

/-- A seat at its after-reset values (R141, R298, R299). -/
def Seat.start (core pos size lgk part : Nat) : Seat :=
  { core := core, pos := pos, size := size, lgk := lgk, part := part, vcap := 31, lpr := 0, lprNew := none,
    spwmode := 0x1000, jams := 0, stalls := 0, peak := 0, spill := [], bank := none, gangOf := none, lent := [] }

/-- A link before training (R369, R370). -/
def Link.reset : Link :=
  { peer := 0, up := false, w := 48, tr := 8, rtt := 0, inbound := 0, cap := 144, resvRx := 0, kept := 0,
    txSeq := 0, rxSeq := 0, nakSent := false, retry := [], lastAck := 0, replays := 0, queue := [], escQ := [],
    lastTx := 0, clocks := [], rr := 0, credit := 0, sentN := 0, discards := 0 }

/-- The device right after reset (R476, R491): wiped, every partition FREE with KZ = 1, and the management context of
partition 0 at device level (R6), whose place, pc and zero registers log 3 names. DESIGN CHOICE (log 60): the round-robin over
partitions of R43 begins as if partition 0 had been served last. -/
def State.reset : State :=
  { c := Ctx.start 0 64 0 0 0 2 0, others := [], nextId := 1, tick := 0, cyc := 0,
    parts := Vector.replicate 64 Part.reset, seats := [Seat.start 64 0 1 0 0], mem := [], l1 := [], tcl := [], stale := [],
    skews := [], poison := [],
    smap := Vector.replicate 256 0x80, tgb := 0x100133210, dev := 0, e1 := 1, e2 := 1, refPresent := false, pps := 0,
    goodTime := 0, tickAdj := 0, ppsOff := 0, meets := [], locks := [], bufs := [], chains := [], msgs := [], answers := [],
    graphs := [], qslots := [], qserved := 0, evicts := [], wins := [], binds := [], copies := [], nextCopy := 0, grps := [],
    leases := [], leaseQ := [], links := Vector.replicate 10 Link.reset, unrouted := [], farDown := [], tree := 0,
    vecIns := [], tickSet := false, resvs := [], nextTag := 0, oseqs := [], streams := [],
    incs := [], imports := [], sides := [], migrs := [], redir := [], tlb := [], shoot := [], rots := [], saved := [],
    ckpts := [], ncl := 16, meas := Vector.replicate 8 0, life := 2, bootCount := 0, boot := .booting 0,
    throttle := 0, out := [], inputs := [], later := [], lat := [], free := 0, issue := [], lag := [], cursor := 0, lastRun := [] }

end Sys2Proof.Machine
end

