-- ==== Sys2Proof/Machine/Cells.lean ====
section
/-! DEFINITION. Sparse lists in canonical form: keys strictly rising and no entry equal to what an unlisted key reads
as. Memory, vector bytes and accumulator elements are such lists. -/
namespace Sys2Proof.Machine

/-- Read the entry of a key; `d` is what an unlisted key reads as. -/
def getCell {β : Type} (d : β) (k : Nat) : List (Nat × β) → β
  | [] => d
  | (k', x) :: t => if k < k' then d else if k = k' then x else getCell d k t

/-- Write the entry of a key and keep the canonical form. -/
def setCell {β : Type} [DecidableEq β] (d : β) (k : Nat) (x : β) : List (Nat × β) → List (Nat × β)
  | [] => if x = d then [] else [(k, x)]
  | (k', y) :: t =>
    if k < k' then (if x = d then (k', y) :: t else (k, x) :: (k', y) :: t)
    else if k = k' then (if x = d then t else (k, x) :: t)
    else (k', y) :: setCell d k x t

/-- The keys of a list lie above `lo` and rise strictly. -/
def risesFrom {β : Type} (lo : Nat) : List (Nat × β) → Bool
  | [] => true
  | (k, _) :: t => decide (lo ≤ k) && risesFrom (k + 1) t

/-- The canonical form. -/
def cellsWf {β : Type} [DecidableEq β] (d : β) (l : List (Nat × β)) : Bool :=
  risesFrom 0 l && l.all fun p => decide (p.2 ≠ d)

/-- What a byte of memory that nothing has written reads as: zero, the blank and wiped content of R431 and R476
(log 8). -/
def unwritten : Byte := 0

/-- The canonical form of memory. -/
abbrev Memory.wf (m : List Host.Cell) : Bool := cellsWf unwritten m

/-- Write bytes at rising keys. -/
def setCells (m : List Host.Cell) (k : Nat) : List Byte → List Host.Cell
  | [] => m
  | b :: bs => setCells (setCell unwritten k b m) (k + 1) bs

/-- Read n bytes at rising keys. -/
def getCells (m : List Host.Cell) (k : Nat) : Nat → List Byte
  | 0 => []
  | n + 1 => getCell unwritten k m :: getCells m (k + 1) n

/-! ## Keys of memory

HBM is at its physical address and host memory at its physical address (R218); the four local levels follow above
2^52, by core and offset, by die and offset, and by core, lane and byte (R180). -/

/-- Core scratchpad. -/
def keyCore (core off : Nat) : Nat := 2 ^ 52 + core * 2 ^ 22 + off
/-- Cluster-shared bank of a core. -/
def keyBank (core off : Nat) : Nat := 2 ^ 52 + 2 ^ 29 + core * 2 ^ 20 + off
/-- Chip scratchpad. -/
def keyChip (die off : Nat) : Nat := 2 ^ 52 + 2 ^ 30 + die * 2 ^ 25 + off
/-- Lane slice. -/
def keyLane (core lane off : Nat) : Nat := 2 ^ 52 + 2 ^ 31 + (core * 256 + lane) * 2 ^ 11 + off
/-- First key of host memory (R218). -/
def hostKey : Nat := 2 ^ 51
/-- One past the last HBM key (R218). -/
def hbmEnd : Nat := 2 ^ 39
/-- A key of host memory. -/
def isHost (k : Nat) : Bool := decide (hostKey ≤ k) && decide (k < 2 ^ 52)
/-- A key of a lane slice. -/
def isLane (k : Nat) : Bool := decide (2 ^ 52 + 2 ^ 31 ≤ k)
/-- A key of device HBM. -/
def isHbm (k : Nat) : Bool := decide (k < hbmEnd)

/-! ## Keys of vector registers and accumulators (R304, R296) -/

/-- Byte `b` of the column of a register in a lane; a column has at most 128 bytes. -/
def vKey (reg lane b : Nat) : Nat := (reg * 2048 + lane) * 128 + b

/-- The place of element e of width w bits in the group from `reg`, for L lanes and `dlen` rows (R304). -/
def elemKey (lanes dlen w reg e : Nat) : Nat :=
  let cap := dlen * 32 / w
  vKey (reg + e / (lanes * cap)) (e % lanes) (e / lanes % cap * (w / 8))

/-- Row and column of an accumulator register (R268). -/
def aKey (reg row col : Nat) : Nat := (reg * 64 + row) * 2048 + col

end Sys2Proof.Machine
end

