-- ==== Sys2Proof/Machine/Base.lean ====
section
/-! DEFINITION. Access to the parts of `State`: registers, contexts, seats, partitions, meters and free values. -/
namespace Sys2Proof.Machine

/-- Replace the first element that satisfies `p`. -/
def updFirst {α : Type} (p : α → Bool) (f : α → α) : List α → List α
  | [] => []
  | x :: t => if p x then f x :: t else x :: updFirst p f t

/-- The current tick. -/
def State.now (s : State) : Nat := s.tick.toNat

/-- The cursor's place at the end of a cycle, past every sequencer, and its place once the homes have granted what
waited. -/
def cycleEnd : Nat := 1024
def cycleGrants : Nat := 1025

/-- Cycles in a tick of the lowered clock (R44, R494): 13 at full rate. -/
def cyclesOfTick (s : State) : Nat := max 1 (13 * (8 - s.throttle) / 8)

/-! ## Scalar registers of the running context (R21, R100) -/

/-- Register n of a context; register 0 reads zero (R100). -/
def Ctx.reg (c : Ctx) (n : Nat) : Word := if n = 0 then 0 else c.s[n]?.getD 0

/-- Write register n; a write to register 0 is discarded (R100). -/
def Ctx.setReg (c : Ctx) (n : Nat) (x : Word) : Ctx :=
  if n = 0 then c else { c with s := c.s.setIfInBounds n x }

/-- Register n of the running context. -/
def State.reg (s : State) (n : Nat) : Word := s.c.reg n

/-- Register n of the running context takes x. -/
def State.setReg (s : State) (n : Nat) (x : Word) : State := { s with c := s.c.setReg n x }

/-! ## Stream registers (R227) -/

/-- Stream register n. -/
def Ctx.stream (c : Ctx) (n : Nat) : Stream := c.q[n]?.getD {}

/-- Change stream register n. -/
def State.setStream (s : State) (n : Nat) (f : Stream → Stream) : State :=
  { s with c := { s.c with q := s.c.q.setIfInBounds n (f (s.c.stream n)) } }

/-! ## Contexts -/

/-- Every resident context, the running one first. -/
def State.ctxs (s : State) : List Ctx := if s.c.alive then s.c :: s.others else s.others

/-- Put the context `id` in the running place; a running context that has left its slot is dropped. -/
def State.focus (s : State) (id : Nat) : State :=
  if s.c.alive && s.c.id == id then s else
  match s.others.find? (fun x => x.id == id) with
  | none => s
  | some x =>
    let rest := s.others.filter fun y => y.id != id
    { s with c := x, others := if s.c.alive then s.c :: rest else rest }

/-- Change the context `id`, wherever it is. -/
def State.withCtx (s : State) (id : Nat) (f : Ctx → Ctx) : State :=
  if s.c.alive && s.c.id == id then { s with c := f s.c }
  else { s with others := updFirst (fun x => x.id == id) f s.others }

/-- Change the context `id`, resident or saved (R446). -/
def State.withParty (s : State) (id : Nat) (f : Ctx → Ctx) : State :=
  if (s.ctxs.any fun x => x.id == id) then s.withCtx id f
  else { s with saved := updFirst (fun x => x.ctx.id == id) (fun x => { x with ctx := f x.ctx }) s.saved }

/-- Run an operation on the context `id` as the running one, then put the running context back. -/
def State.asCtx (s : State) (id : Nat) (f : State → State) : State :=
  let me := s.c.id
  let s' := f (s.focus id)
  if s.c.alive then s'.focus me else s'

/-- The context `id`. -/
def State.ctx? (s : State) (id : Nat) : Option Ctx := s.ctxs.find? fun x => x.id == id

/-- Place a new context beside the others. -/
def State.addCtx (s : State) (x : Ctx) : State :=
  if s.c.alive then { s with others := s.others ++ [x] } else { s with c := x }

/-- Whether a waiting context has still to enter its line: it has been restored (R77, R446). -/
def Ctx.entering (c : Ctx) : Bool := c.wait.isSome && c.line.isNone

/-! ## Seats (R23, R24) -/

/-- The seat that starts at a position of a core. -/
def State.seat? (s : State) (core pos : Nat) : Option Seat :=
  s.seats.find? fun x => x.core == core && x.pos == pos

/-- The seat of the running context. -/
def State.mySeat (s : State) : Seat := (s.seat? s.c.core s.c.pos).getD (Seat.start s.c.core s.c.pos 1 0 s.c.part)

/-- Change a seat. -/
def State.setSeat (s : State) (core pos : Nat) (f : Seat → Seat) : State :=
  { s with seats := updFirst (fun x => x.core == core && x.pos == pos) f s.seats }

/-- Change the seat of the running context. -/
def State.setMySeat (s : State) (f : Seat → Seat) : State := s.setSeat s.c.core s.c.pos f

/-- Rows of a seat: 8 for each position it spans. -/
def Seat.rows (t : Seat) : Nat := 8 * t.size

/-- Slots of a seat. -/
def Seat.slots (t : Seat) : Nat := 2 ^ t.lgk

/-- Whether a lane partition is in force (R27). -/
def Seat.lanePart (t : Seat) : Bool := t.lpr.getLsbD 3

/-- The side that serves a slot (R27). -/
def Seat.side (t : Seat) (slot : Nat) : Bool := t.lpr.getLsbD (8 + slot % t.size)

/-- The slots of a side below n. -/
def Seat.sideSlots (t : Seat) (side : Bool) (n : Nat) : Nat :=
  ((List.range n).filter fun i => t.side i == side).length

/-- Rows of a slot (R23, R27). DESIGN CHOICE (log 54): rows that do not divide among the slots of a side are unused. -/
def Seat.dlen (t : Seat) (slot : Nat) : Nat :=
  if t.lanePart then t.rows / t.sideSlots (t.side slot) t.slots else t.rows / t.slots

/-- First row of a slot (R23, R27). -/
def Seat.dbase (t : Seat) (slot : Nat) : Nat :=
  8 * t.pos + (if t.lanePart then t.sideSlots (t.side slot) slot else slot) * t.dlen slot

/-- Lanes of side 0: 32 for each of its lane clusters (R27). -/
def Seat.split (t : Seat) : Nat := 32 * (t.lpr.extractLsb' 0 3).toNat

/-- Lanes of a slot of the seat itself (R27). -/
def Seat.lanes (t : Seat) (slot : Nat) : Nat :=
  if t.lanePart then (if t.side slot then 256 - t.split else t.split) else 256

/-- First lane of a slot (R27). -/
def Seat.laneBase (t : Seat) (slot : Nat) : Nat := if t.lanePart && t.side slot then t.split else 0

/-- Code of a seat's size (R24). -/
def Seat.sz (t : Seat) : Nat := if t.size = 1 then 0 else if t.size = 2 then 1 else 2

/-- Rows of the running context. -/
def State.dlen (s : State) : Nat := s.mySeat.dlen s.c.slot

/-- Lanes of the running context (R5, R27, R30). -/
def State.lanes (s : State) : Nat := s.mySeat.lanes s.c.slot + 256 * s.c.gang.length

/-- The sequencer of a slot: its core times four plus its position (R23). -/
def seqOf (core pos size slot : Nat) : Nat := core * 4 + pos + slot % size

/-- The sequencer of a context. -/
def State.seqOfCtx (s : State) (x : Ctx) : Nat :=
  seqOf x.core x.pos (((s.seat? x.core x.pos).map Seat.size).getD 1) x.slot

/-- The register `seat` as the running context reads it (R24). -/
def State.seatWord (s : State) : Word :=
  let t := s.mySeat
  BitVec.ofNat 64 (s.c.part * 2 ^ 24 + t.pos * 2 ^ 22 + t.sz * 2 ^ 20 + t.lgk * 2 ^ 16 +
    t.dbase s.c.slot * 2 ^ 8 + t.dlen s.c.slot)

/-- The die of a core: 32 cores each; the management core 64 is on die 0 (R4, R6, log 3). -/
def dieOfCore (core : Nat) : Nat := if core < 32 then 0 else if core < 64 then 1 else 0

/-- Party word of a place (R24 numbering used by R154 and R458): core in [15:8], slot in [7:0]. -/
def Ctx.place (x : Ctx) : Nat := x.core * 256 + x.slot

/-- The running context as a party. -/
def State.who (s : State) : Who :=
  { dev := s.dev, part := s.c.part, core := s.c.core, pos := s.c.pos, slot := s.c.slot, id := s.c.id, stamp := s.now }

/-! ## Partitions -/

/-- Partition p. -/
def State.part (s : State) (p : Nat) : Part := s.parts[p]?.getD Part.reset

/-- Change partition p. -/
def State.setPart (s : State) (p : Nat) (f : Part → Part) : State :=
  { s with parts := s.parts.setIfInBounds p (f (s.part p)) }

/-- The partition of the running context. -/
def State.myPart (s : State) : Part := s.part s.c.part

/-- Add to a Flume meter (R466, R467). -/
def State.meter (s : State) (p i n : Nat) : State :=
  s.setPart p fun x => { x with meters := x.meters.setIfInBounds i (x.meters[i]?.getD 0 + BitVec.ofNat 64 n) }

/-- Queue an event of a partition (R458). An event takes its number whether it is dropped or not (log 13). What a step has
queued is filled after it, and more than 64 do not wait on (`flushEvents`). -/
def State.postEvent (s : State) (p kind who data : Nat) : State :=
  s.setPart p fun x => { x with
    evs := x.evs ++ [{ kind := kind, seq := x.evSeq, tick := s.now, who := who, data := data, lost := x.evLost }]
    evSeq := x.evSeq + 1, evLost := 0 }

/-! ## Free values (log 2) -/

/-- The next free value. -/
def State.freeVal (s : State) : Word := Config.freeWord s.free

/-- Count a free value as used. -/
def State.useFree (s : State) (n : Nat) : State := { s with free := s.free + n }

/-! ## Numbers and words -/

/-- A number as a word, modulo 2^64. -/
abbrev wd (n : Nat) : Word := BitVec.ofNat 64 n

/-- All ones. -/
def ones : Word := BitVec.allOnes 64

/-- Ceiling of a division. -/
def ceilDiv (a b : Nat) : Nat := (a + b - 1) / b

/-- Bits [lo+w−1 : lo] of a number. -/
def nbits (x lo w : Nat) : Nat := x / 2 ^ lo % 2 ^ w

/-- Bit i of a number. -/
def nbit (x i : Nat) : Bool := x.testBit i

/-- The signed value of the low w bits of a number. -/
def sval (w x : Nat) : Int := if x % 2 ^ w < 2 ^ (w - 1) then (x % 2 ^ w : Nat) else ((x % 2 ^ w : Nat) : Int) - 2 ^ w

/-- An integer as a number of w bits, modulo 2^w. -/
def wrapN (w : Nat) (x : Int) : Nat := (x % (2 ^ w : Int)).toNat

/-- An integer as a word, modulo 2^64. -/
def wrap64 (x : Int) : Word := BitVec.ofNat 64 (wrapN 64 x)

end Sys2Proof.Machine
end

