-- ==== Sys2Proof/Machine/Wire.lean ====
section
/-! DEFINITION. Links and flits: layout, CRC-64, routes, the queues of a link, and reply reservations (R368 to R392). -/
namespace Sys2Proof.Machine

/-! ## CRC-64 and the layout of a flit -/

/-- One bit of the CRC of R380 (polynomial 0x42F0E1EBA9EA3693), most significant bit first. -/
def crcBit (r : BitVec 64) (b : Bool) : BitVec 64 :=
  let top := r.getLsbD 63 != b
  let r' := r <<< 1
  if top then r' ^^^ 0x42F0E1EBA9EA3693 else r'

/-- One byte of the CRC of R380. -/
def crcByte (r : BitVec 64) (b : Byte) : BitVec 64 :=
  [7, 6, 5, 4, 3, 2, 1, 0].foldl (fun r i => crcBit r (b.getLsbD i)) r

/-- CRC-64 of ECMA-182 with initial value and final XOR zero (R380). -/
def crc64 (bs : List Byte) : BitVec 64 := bs.foldl crcByte 0

/-- A list of bytes cut or filled with zeros to n. -/
def padTo (n : Nat) (bs : List Byte) : List Byte := bs.take n ++ List.replicate (n - bs.length) 0

/-- Bytes 0 to 55 of a flit (R379). -/
def flitHead (f : Flit) : List Byte :=
  leBytes 2 (f.kind.toNat * 4096 + f.seq.toNat) ++
  leBytes 2 (f.nak.toNat * 32768 + nbits f.rsv.toNat 18 3 * 4096 + f.ack.toNat) ++
  leBytes 2 f.ddev.toNat ++ leBytes 2 f.sdev.toNat ++
  leBytes 1 (f.cls.toNat * 64 + f.dpart.toNat) ++
  leBytes 1 (f.esc.toNat * 128 + f.vc.toNat * 64 + f.spart.toNat) ++
  leBytes 2 f.oseq.toNat ++ leBytes 2 (nbits f.rsv.toNat 0 6 * 1024 + f.len.toNat) ++
  leBytes 1 f.dinc.toNat ++ leBytes 1 f.sinc.toNat ++
  leBytes 8 (nbits f.rsv.toNat 6 12 * 2 ^ 52 + f.addr.toNat) ++
  leBytes 2 (f.fn.toNat * 4096 + f.lgw.toNat * 256 + f.op.toNat) ++
  leBytes 4 f.tag.toNat ++ leBytes 2 f.retry.toNat ++ leBytes 24 f.opd.toNat

/-- The CRC of a flit (R380). -/
def flitCrc (f : Flit) : BitVec 64 := crc64 (flitHead f ++ padTo 512 f.payload)

/-- A flit with every field zero. -/
def blankFlit : Flit :=
  { kind := 0, seq := 0, nak := false, rsv := 0, ack := 0, ddev := 0, sdev := 0, cls := 0, dpart := 0, esc := false,
    vc := false, spart := 0, oseq := 0, len := 0, dinc := 0, sinc := 0, addr := 0, fn := 0, lgw := 0, op := 0, tag := 0,
    retry := 0, opd := 0, crc := 0, payload := [] }

/-! ## Destinations and routes -/

/-- The four coordinates of a device address (R8). -/
def devM1 (a : Nat) : Nat := nbits a 14 2
def devM2 (a : Nat) : Nat := nbits a 12 2
def devT1 (a : Nat) : Nat := nbits a 6 6
def devT2 (a : Nat) : Nat := nbits a 0 6

/-- A device address from its coordinates (R8). -/
def packDev (m1 m2 t1 t2 : Nat) : Nat := m1 * 2 ^ 14 + m2 * 2 ^ 12 + t1 * 64 + t2

/-- The peer of a destination (R368). -/
def peerOf (a e1 e2 d : Nat) : Nat :=
  if d < 3 then packDev ((devM1 a + d + 1) % 4) (devM2 a) (devT1 a) (devT2 a)
  else if d < 6 then packDev (devM1 a) ((devM2 a + d - 2) % 4) (devT1 a) (devT2 a)
  else if d = 6 then packDev (devM1 a) (devM2 a) ((devT1 a + 1) % e1) (devT2 a)
  else if d = 7 then packDev (devM1 a) (devM2 a) ((devT1 a + e1 - 1) % e1) (devT2 a)
  else if d = 8 then packDev (devM1 a) (devM2 a) (devT1 a) ((devT2 a + 1) % e2)
  else packDev (devM1 a) (devM2 a) (devT1 a) ((devT2 a + e2 - 1) % e2)

/-- Link d. -/
def State.link (s : State) (d : Nat) : Link := s.links[d]?.getD Link.reset

/-- Change link d. -/
def State.setLink (s : State) (d : Nat) (f : Link → Link) : State :=
  { s with links := s.links.setIfInBounds d (f (s.link d)) }

/-- The way round a ring (R385): the destination of + or −. -/
def ringWay (at_ dst e plus minus : Nat) : Nat :=
  let up := (dst + e - at_) % e
  if 2 * up ≤ e then plus else minus

/-- The next destination from device `a` toward device `to_` in dimension order (R385), none when they are the same. -/
def hopOf (e1 e2 a to_ : Nat) : Option Nat :=
  if devT1 a ≠ devT1 to_ then some (ringWay (devT1 a) (devT1 to_) e1 6 7)
  else if devT2 a ≠ devT2 to_ then some (ringWay (devT2 a) (devT2 to_) e2 8 9)
  else if devM1 a ≠ devM1 to_ then some ((devM1 to_ + 4 - devM1 a) % 4 - 1)
  else if devM2 a ≠ devM2 to_ then some ((devM2 to_ + 4 - devM2 a) % 4 + 2)
  else none

/-- The destination by which a peer reaches back (R368). -/
def backOf (d : Nat) : Nat := if d < 3 then 2 - d else if d < 6 then 8 - d else if d % 2 = 0 then d + 1 else d - 1

/-- Whether a link of the domain works, as far as this device knows: its own by their state, the others by what its device
manager has learnt. A link that is down is so at both ends. -/
def linkWorks (s : State) (a d : Nat) : Bool :=
  let b := peerOf a s.e1 s.e2 d
  !s.farDown.contains (a, d) && !s.farDown.contains (b, backOf d) &&
    (a != s.dev || (s.link d).up) && (b != s.dev || (s.link (backOf d)).up)

/-- The destination that a packet takes at device `a` (R385, R387): its next hop while that link works; when it is a torus
link that does not, the nearest m1 offset, +1, +2, +3, where the same torus link works. None: no working route. -/
def routeFrom (s : State) (a to_ : Nat) : Option Nat :=
  match hopOf s.e1 s.e2 a to_ with
  | none => none
  | some d =>
    if linkWorks s a d then some d
    else if d < 6 then none
    else [0, 1, 2].find? fun x => linkWorks s a x && linkWorks s (peerOf a s.e1 s.e2 x) d

/-- The destination that a packet takes here. -/
def routeOf (s : State) (ddev : Nat) : Option Nat := routeFrom s s.dev ddev

/-- The ring that a destination belongs to: 1 for t1, 2 for t2, 0 for none. -/
def ringOf (d : Nat) : Nat := if d = 6 ∨ d = 7 then 1 else if d = 8 ∨ d = 9 then 2 else 0

/-- Whether a link is the wrap link of its ring (R386). -/
def wraps (s : State) (d : Nat) : Bool :=
  if d = 6 then devT1 s.dev + 1 == s.e1
  else if d = 7 then devT1 s.dev == 0
  else if d = 8 then devT2 s.dev + 1 == s.e2
  else if d = 9 then devT2 s.dev == 0
  else false

/-- The virtual channel of a flit on link d (R386): 0 where it enters a ring and outside one, 1 from the wrap link on.
`stays` says that it has come along the same ring. The meeting class has none. -/
def vcOn (s : State) (d : Nat) (stays : Bool) (f : Flit) : Bool :=
  f.cls != 2 && (wraps s d || (stays && f.vc))

/-! ## The queues of a link -/

/-- The key of transit flits among the queues. -/
def transitKey : Nat := 64

/-- The number of a queue (R384, R386): a partition's or the transit queues, by class and virtual channel. -/
def queueNo (q : Nat × Flit) : Nat := q.1 * 8 + q.2.cls.toNat * 2 + q.2.vc.toNat

/-- The number of the escape channel's buffers. -/
def escapeNo : Nat := (transitKey + 1) * 8

/-- The queues that hold flits, with the flit at the head of each. -/
def headsOf (queue escQ : List (Nat × Flit)) : List (Nat × Flit) :=
  let add := fun (r : List (Nat × Flit)) (no : Nat) (f : Flit) => if r.any (fun x => x.1 == no) then r else r ++ [(no, f)]
  escQ.foldl (fun r q => add r escapeNo q.2) (queue.foldl (fun r q => add r (queueNo q) q.2) [])

/-- The clocks of queues with these heads, out of the former ones. -/
def clocksOf (now : Nat) (heads : List (Nat × Flit)) (old : List QClock) : List QClock :=
  heads.map fun x =>
    match old.find? fun c => c.no == x.1 with
    | none => { no := x.1, since := now, head := x.2, headAt := now }
    | some c => if c.head = x.2 then c else { c with head := x.2, headAt := now }

/-- Bring the clocks of a link's queues up to date (R377, R388). -/
def reclock (now : Nat) (l : Link) : Link := { l with clocks := clocksOf now (headsOf l.queue l.escQ) l.clocks }

/-- The packets without a route, with the clocks of their queues (R387, R388); a packet of the escape channel stays in it. -/
def State.withStrays (s : State) (l : List (Nat × Flit)) : State :=
  { s with unrouted := l, strayClocks := clocksOf s.now (headsOf (l.filter fun q => !q.2.esc) []) s.strayClocks }

/-- The wavelengths of a destination that leases of a partition have closed to new flits (R374, R376). -/
def closedOf (s : State) (d p : Nat) : Nat :=
  (s.leases.filter fun l => l.part == p && l.inc == (s.part p).inc).foldl (fun n l =>
    if l.state = 1 ∧ l.giver = d then n + l.k else if l.state = 3 ∧ l.taker = d then n + l.kGot else n) 0

/-- The wavelengths of a destination that a partition, or the transit queue, sends on (R371). -/
def weightOf (s : State) (d k : Nat) : Nat :=
  if k = transitKey then (s.link d).tr else (s.part k).share[d]?.getD 0 - closedOf s d k

/-- Whether a queued flit leaves by the floor classes (R371, R372). -/
def onFloor (f : Flit) : Bool := f.cls == 2 || f.cls == 3

/-- Whether a flit waits for the turn of a key. -/
def turnFlit (k : Nat) (q : Nat × Flit) : Bool := q.1 == k && !onFloor q.2

/-- Whether one of a link's keys may send: it has a flit that waits and wavelengths. -/
def mayTurn (s : State) (d k : Nat) : Bool :=
  ((s.link d).queue.any (turnFlit k) || (s.link d).escQ.any (turnFlit k)) && decide (0 < weightOf s d k)

/-- The key whose turn it is, and the flits that it may send, this one among them (R372): deficit round-robin over flits of
one size, in the order of the keys (log 59). -/
def nextTurn (s : State) (d : Nat) : Option (Nat × Nat) :=
  let l := s.link d
  if l.credit ≠ 0 && mayTurn s d l.rr then some (l.rr, l.credit)
  else (((List.range 65).map fun i => (l.rr + 1 + i) % 65).find? (mayTurn s d)).map fun k => (k, weightOf s d k)

/-- The next flit of a link and the link without it (R372): control, meeting, then the partition, or the transit flits, whose
turn it is; of each, what is in the escape channel first (log 59). -/
def nextFlit (s : State) (d : Nat) : Option ((Nat × Flit) × Link) :=
  let l := s.link d
  let first := fun (p : Nat × Flit → Bool) =>
    ((l.escQ.find? p).map fun q => (q, { l with escQ := l.escQ.erase q })) <|>
    ((l.queue.find? p).map fun q => (q, { l with queue := l.queue.erase q }))
  (first fun q => q.2.cls == 3) <|> (first fun q => q.2.cls == 2) <|>
  ((nextTurn s d).bind fun t => (first (turnFlit t.1)).map fun x => (x.1, { x.2 with rr := t.1, credit := t.2 - 1 }))

/-- A flit with the link's fields: ACK names the last good SEQ of the other direction (R381). -/
def sealFlit (l : Link) (seq : BitVec 12) (nak : Bool) (f : Flit) : Flit :=
  let f := { f with seq := seq, ack := l.rxSeq - 1, nak := nak }
  { f with crc := flitCrc f }

/-- A flit of a multicast store leaves: its wait for the answer runs from the last one (R400). -/
def flitLeft (s : State) (f : Flit) : State :=
  if f.kind = 7 then { s with resvs := s.resvs.map fun r => if r.tag = f.tag.toNat then { r with start := s.now } else r } else s

/-- Send one flit of a link, if the link is up, its retry buffer has room and a flit may be sent (R381, R382, R467). -/
def pumpOne (s : State) (d : Nat) : Option State :=
  let l := s.link d
  if !l.up || decide (512 ≤ l.retry.length) then none else
  (nextFlit s d).map fun x =>
    let q := x.1
    let f := sealFlit l l.txSeq false q.2
    let s := s.setLink d fun _ =>
      { x.2 with retry := l.retry ++ [f], txSeq := l.txSeq + 1, sentN := l.sentN + 1, lastTx := s.now,
                 lastAck := if l.retry.isEmpty then s.now else l.lastAck }
    let s := { s with out := s.out ++ [.flit d f] }
    if q.1 = transitKey then s else (flitLeft s q.2).meter q.2.spart.toNat (10 + d) 576

/-- Send what can be sent, at most n flits. -/
def pumpUp (s : State) (d : Nat) : Nat → State
  | 0 => s
  | n + 1 => match pumpOne s d with
    | none => s
    | some s' => pumpUp s' d n

/-- Send what can be sent, at most n flits, and keep the queues' clocks. -/
def pump (s : State) (d n : Nat) : State :=
  let s := pumpUp s d n
  s.setLink d (reclock s.now)

/-- Put a flit into a queue of link d and send what can be sent. -/
def queueFlit (s : State) (d key : Nat) (stays : Bool) (f : Flit) : State :=
  pump (s.setLink d fun l => { l with queue := l.queue ++ [(key, { f with vc := vcOn s d stays f })] }) d 8

/-- Send a flit on its way; with no working route it waits until one appears (R387). Its `vc` is that of the ring which it
goes on in, if it has come along one (R386). -/
def sendFlit (s : State) (key : Nat) (f : Flit) : State :=
  match routeOf s f.ddev.toNat with
  | some d => queueFlit s d key (ringOf d != 0) f
  | none => s.withStrays (s.unrouted ++ [(key, f)])

/-- A flit with the virtual channel on which it goes on in the ring of a link, if its next hop lies in that ring (R386). -/
def inRing (s : State) (d : Nat) (f : Flit) : Flit :=
  { f with vc := f.vc && ringOf d != 0 && (hopOf s.e1 s.e2 s.dev f.ddev.toNat).any fun h => ringOf h == ringOf d }

/-- Carry a flit that has come in on link `inn` on toward its device (R386, R387). -/
def forwardFlit (s : State) (inn : Nat) (f : Flit) : State := sendFlit s transitKey (inRing s inn f)

/-- A flit that waits for a link, or was on it, as it was before it took it (R386). -/
def backFrom (s : State) (d : Nat) (f : Flit) : Flit := inRing s d { f with vc := f.vc && !wraps s d }

/-- Send a flit of a control class to the peer of link d. -/
def sendControl (s : State) (d : Nat) (f : Flit) : State :=
  queueFlit s d 0 false { f with cls := 3, ddev := BitVec.ofNat 16 (s.link d).peer, sdev := BitVec.ofNat 16 s.dev }

/-- An idle flit, with the ACK or a NAK of the other direction (R381, R382). It takes no place in the sequence (log 25), and is
charged to partition 0, which its SPART names (R467). -/
def sendIdle (s : State) (d : Nat) (nak : Bool) : State :=
  let l := s.link d
  let f := sealFlit l l.txSeq nak { blankFlit with cls := 3, ddev := BitVec.ofNat 16 l.peer, sdev := BitVec.ofNat 16 s.dev }
  let s := s.setLink d fun l => { l with lastTx := s.now }
  State.meter { s with out := s.out ++ [.flit d f] } 0 (10 + d) 576

/-! ## The escape channel (R388) -/

/-- The destination of a device's parent in the tree: a working link; none at the root, which is the time reference (R44). -/
def treeLink (s : State) (a : Nat) : Option Nat :=
  if a = Config.reference s.tree then none else (some (Config.treeParent s.tree a % 10)).filter (linkWorks s a)

/-- The devices from one up to the root; none where the tree does not reach it. -/
def treePath (s : State) (a : Nat) : Nat → Option (List Nat)
  | 0 => none
  | n + 1 =>
    if a = Config.reference s.tree then some [a]
    else (treeLink s a).bind fun d => (treePath s (peerOf a s.e1 s.e2 d) n).map fun l => a :: l

/-- The destination of the child of this device on a way up. -/
def childOn (s : State) : List Nat → Option Nat
  | x :: y :: t => if y = s.dev then (treeLink s x).map backOf else childOn s (y :: t)
  | _ => none

/-- The destination of this device's parent in the tree. -/
def treeUp (s : State) : Option Nat := (treePath s s.dev (2 ^ 16)).bind fun _ => treeLink s s.dev

/-- The link of the escape tree toward a device: down to the child below which it lies, else up; none while there is none. A
packet that has turned down the tree so never goes up again. -/
def escapeLink (s : State) (ddev : Nat) : Option Nat :=
  (treePath s ddev (2 ^ 16)).bind fun l => childOn s l <|> treeUp s

/-- Put a packet into the escape channel; with no link of the tree it waits like one without a route. -/
def escapeFlit (s : State) (key : Nat) (f : Flit) : State :=
  match escapeLink s f.ddev.toNat with
  | some d => pump (s.setLink d fun l => { l with escQ := l.escQ ++ [(key, { f with esc := true })] }) d 8
  | none => s.withStrays (s.unrouted ++ [(key, { f with esc := true })])

/-- Send a flit on its way by its channel. -/
def resendFlit (s : State) (q : Nat × Flit) : State := if q.2.esc then escapeFlit s q.1 q.2 else sendFlit s q.1 q.2

/-- Links have changed: the tree is rebuilt, and the packets without a route and those of the escape channel take the
ways that there are now. -/
def newRoutes (s : State) : State :=
  let waiting := s.unrouted ++ s.links.toList.flatMap Link.escQ
  let clocks := s.strayClocks
  let s := { s with tree := s.tree + 1, unrouted := [], links := s.links.map fun l => reclock s.now { l with escQ := [] } }
  let s := waiting.foldl resendFlit s
  { s with strayClocks := clocks }.withStrays s.unrouted

/-! ## Requests (R389, R391, R392) -/

/-- The incarnation of a partition of a device, as the device manager has learnt it; 0 when it has not (R392). -/
def incOf (s : State) (dev part : Nat) : BitVec 8 :=
  match s.incs.find? (fun x => x.1 == (dev, part)) with
  | some x => x.2
  | none => 0

/-- The next OSEQ of the stream of a partition toward a device (R389). -/
def oseqOf (s : State) (dev part : Nat) : BitVec 16 :=
  match s.oseqs.find? (fun x => x.1 == (dev, part)) with
  | some x => x.2
  | none => 0

/-- Count an OSEQ as used. -/
def bumpOseq (s : State) (dev part : Nat) : State :=
  let n := oseqOf s dev part
  { s with oseqs := ((dev, part), n + 1) :: s.oseqs.filter fun x => x.1 != (dev, part) }

/-! ## The meeting class (R383) -/

/-- A flit of the meeting class with the header of its request; what it asks or says lies in bytes that the spec does not lay
out (log 25). -/
def meetingFlit (s : State) (kind dev part : Nat) (h : ReqHdr) : Flit :=
  { blankFlit with
    kind := BitVec.ofNat 4 kind, cls := 2, ddev := BitVec.ofNat 16 dev, sdev := BitVec.ofNat 16 s.dev,
    dpart := BitVec.ofNat 6 part, spart := BitVec.ofNat 6 part, oseq := BitVec.ofNat 16 h.oseq,
    dinc := BitVec.ofNat 8 h.dinc, sinc := BitVec.ofNat 8 h.sinc, tag := BitVec.ofNat 32 h.tag,
    opd := Config.meetingBody s.free }

/-- The home of a request (R52, R61): a core's barrier unit, or the Headgate of a die. -/
def msgHome (m : Msg) : Nat × Nat :=
  match m.obj with
  | .barrier core _ => (1, core)
  | _ => (0, m.die)

/-- Whether two requests come from one context, or from the copies of one context, to one home, and so keep their order
(R52). -/
def sameWay (x y : Msg) : Bool :=
  x.who.dev == y.who.dev && x.who.id == y.who.id && x.who.slot == y.who.slot && msgHome x == msgHome y

/-- Send a request to another device's home: it takes an OSEQ of its stream, the DINC that this device knows, and a reply
reservation (R389, R391, R392). Behind a request of its context to that home that was answered busy it waits (R52, R390). -/
def meetingAsk (s : State) (dev : Nat) (m : Msg) : State :=
  let part := m.who.part
  let h : ReqHdr := { oseq := (oseqOf s dev part).toNat, tag := s.nextTag, dinc := (incOf s dev part).toNat,
                      sinc := (s.part part).inc.toNat }
  let m := { m with who := { m.who with hdr := h } }
  let f := meetingFlit s 1 dev part h
  let held := s.resvs.any fun r => r.busyUntil.isSome && r.flit.ddev == f.ddev && r.msg.any (sameWay m)
  let s := bumpOseq s dev part
  let s := { s with
    nextTag := (s.nextTag + 1) % 2 ^ 32, free := s.free + 1
    resvs := s.resvs ++ [{ tag := h.tag, ctx := m.who.id, flit := f, start := s.now,
                           busyUntil := if held then some s.now else none, msg := some m }] }
  if held then s else sendFlit { s with out := s.out ++ [.msg dev m] } part f

/-! ## A stream at its destination (R389) -/

/-- Whether OSEQ a comes before b. -/
def seqBefore (a b : BitVec 16) : Bool := decide (0 < (b - a).toNat) && decide ((b - a).toNat < 2 ^ 15)

/-- The stream of a partition of another device in an incarnation, as this device knows it. -/
def streamAt (s : State) (sdev spart sinc : Nat) : OStream :=
  (s.streams.find? fun x => x.sdev == sdev && x.spart == spart && x.sinc == sinc).getD
    { sdev := sdev, spart := spart, sinc := sinc, seen := [] }

/-- The stream of a request. -/
def streamOf (s : State) (f : Flit) : OStream := streamAt s f.sdev.toNat f.spart.toNat f.sinc.toNat

/-- Put a stream into its place. -/
def setStream (s : State) (x : OStream) : State :=
  { s with streams := s.streams.filter (fun y => !(y.sdev == x.sdev && y.spart == x.spart && y.sinc == x.sinc)) ++ [x] }

/-- Whether a request of an OSEQ has come and asks nothing more of its stream. -/
def OStream.has (x : OStream) (n : BitVec 16) : Bool := (x.seen.any fun y => y.1 == n.toNat) || x.met.any fun y => y.oseq == n.toNat

/-- Pass the OSEQs that have come, up to one whose turn it is or that has not come. -/
def OStream.skip (x : OStream) : Nat → OStream
  | 0 => x
  | n + 1 => if !(x.ahead.any fun f => f.oseq == x.next) && x.has x.next then OStream.skip { x with next := x.next + 1 } n else x

/-- What a home says to a party on another device: the answer names the request's stream, and the stream keeps it for a
duplicate (R389). -/
def meetingSay (s : State) (who : Who) (o : Out) : State :=
  let x := streamAt s who.dev who.part who.hdr.sinc
  let s := if x.met.any fun y => y.oseq == who.hdr.oseq && y.msg.who == who then
      setStream s { x with met := x.met.map fun y =>
        if y.oseq == who.hdr.oseq && y.msg.who == who then { y with said := y.said ++ [o] } else y }
    else s
  sendFlit { s with out := s.out ++ [o], free := s.free + 1 } who.part (meetingFlit s 2 who.dev who.part who.hdr)

/-- The number that stands for an engine where a context is named. -/
def engineId : Nat := 2 ^ 64

/-- The number that stands for the event hardware of a partition where a context is named (R458). -/
def eventId (part : Nat) : Nat := engineId + 1 + part

/-- The 256-byte granules that a memory request touches (R389): the first, and one past the last. -/
def flitGranules (f : Flit) : Nat × Nat :=
  let n := if f.op = 1 ∧ f.len ≠ 0 then f.len.toNat else 2 ^ f.lgw.toNat
  (f.addr.toNat / 256, (f.addr.toNat + n - 1) / 256 + 1)

/-- Whether two requests may touch one granule: items and multicast data name their addresses where only the destination sees
them, and count as touching any. -/
def mayMeet (f g : Flit) : Bool :=
  decide (6 ≤ f.kind.toNat) || decide (6 ≤ g.kind.toNat) ||
    (decide ((flitGranules f).1 < (flitGranules g).2) && decide ((flitGranules g).1 < (flitGranules f).2))

/-- Whether two requests must keep their order (R389): one stream, and both ordered or on one granule. -/
def keepsOrder (f g : Flit) : Bool :=
  f.ddev == g.ddev && f.spart == g.spart && f.sinc == g.sinc && ((f.cls == 1 && g.cls == 1) || mayMeet f g)

/-- Send a request flit of a partition for a context or an engine, with a reply reservation (R391). It waits behind an
earlier request of its stream that was answered busy (R390). -/
def sendRequest (s : State) (ctx part dev : Nat) (f : Flit) : State × Nat :=
  let tag := s.nextTag
  let f := { f with
    kind := if f.kind = 0 then 1 else f.kind, ddev := BitVec.ofNat 16 dev, sdev := BitVec.ofNat 16 s.dev,
    dpart := BitVec.ofNat 6 part, spart := BitVec.ofNat 6 part, oseq := oseqOf s dev part, dinc := incOf s dev part,
    sinc := (s.part part).inc, tag := BitVec.ofNat 32 tag }
  let s := bumpOseq s dev part
  let held := s.resvs.any fun r => r.busyUntil.isSome && keepsOrder r.flit f
  let s := { s with
    nextTag := (tag + 1) % 2 ^ 32
    resvs := s.resvs ++
      [{ tag := tag, ctx := ctx, flit := f, start := s.now, busyUntil := if held then some s.now else none }] }
  (if held then s else sendFlit s part f, tag)

/-- The request flit of a memory access: 0 read, 1 write, 2 atomic (R379). Up to 24 bytes of data lie in OPD, more in
the payload, and so do data that are no power of two long; an atomic's operands lie in bytes 0 to 7 and 8 to 15 of OPD
(log 12). -/
def accessFlit (so : Bool) (pa width op fn : Nat) (data : List Byte) : Flit :=
  let inOpd := decide (data.length ≤ 24) && (op != 1 || width == 2 ^ Nat.log2 width)
  { blankFlit with
    cls := if so then 1 else 0, addr := BitVec.ofNat 52 pa, lgw := BitVec.ofNat 4 (Nat.log2 width), op := BitVec.ofNat 8 op,
    fn := BitVec.ofNat 4 fn, len := BitVec.ofNat 10 (if inOpd then 0 else data.length),
    opd := if inOpd then BitVec.ofNat 192 (leNat data) else 0, payload := if inOpd then [] else data }

end Sys2Proof.Machine
end

