-- ==== Sys2Proof/Machine/Cache.lean ====
section
/-! DEFINITION. Who accesses what, ownership (R226), the storage of HBM (R233), poison (R455), home ports and skew (R192),
tensor windows (R187, R188), the tile cache (R185, R186) and the L1 (R183, R184). -/
namespace Sys2Proof.Machine

/-- Who makes an access: partition, core (for its windows), device level or not, whether it is a sequencer, whose
accesses meet watchpoints, and the unit whose translations it uses (R229, R230). -/
structure Agent where
  part : Nat
  core : Nat
  devl : Bool
  seq : Bool
  unit : Nat := 0
  deriving DecidableEq, Repr

/-- The running context as an agent. -/
def State.agent (s : State) : Agent := { part := s.c.part, core := s.c.core, devl := s.c.priv == 2, seq := true }

/-- An engine of a partition: no seat shares, no watchpoints. -/
def engineAgent (part : Nat) : Agent := { part := part, core := 65, devl := false, seq := false, unit := 2 }

/-- The translation cache of an agent. -/
def cacheOf (s : State) (ag : Agent) : Holder :=
  { unit := ag.unit, who := if 4 ≤ ag.unit then s.c.id else if ag.unit = 1 then ag.core / 4 else ag.core }

/-- A place of this device or its host: storage key, page kind (0 SO, 1 RC, 2 UO), the key of the tile-cache line that
holds it if the caches may, the HBM address before redirection, the table line that gave it, and the die whose memory
holds it. -/
structure Place where
  key : Nat
  kind : Nat
  tile : Option TcKey
  pa : Option Nat
  line : Option Nat
  die : Nat
  deriving DecidableEq, Repr

/-- Where an access goes. -/
inductive Tgt where
  | near (p : Place)
  /-- a remote frame: device, physical address there, kind -/
  | far (dev pa kind : Nat)
  deriving DecidableEq, Repr

/-! ## Ownership (R226, R436, R462) -/

/-- The partition that owns a granule; the pool belongs to partition 0 (log 14). -/
def ownerOf (s : State) (g : Nat) : Nat :=
  ((List.range 64).find? fun p => (s.part p).ranges.any fun r => decide (r.1 ≤ g) && decide (g < r.1 + r.2)).getD 0

/-- Whether an agent may reach the HBM address. -/
def granuleOk (s : State) (ag : Agent) (pa : Nat) : Bool :=
  let o := ownerOf s (pa / 2 ^ 21)
  let p := s.part o
  if p.st = .stopped || p.st = .scrub then false
  else o == ag.part || (ag.devl && p.st == .assigned && !p.kz)

/-- Whether an agent may reach n bytes, of one granule in HBM, at a physical address (R218, R226). -/
def physOk (s : State) (ag : Agent) (pa n : Nat) : Bool :=
  if pa < hbmEnd then granuleOk s ag pa
  else if isHost pa then
    let p := s.part ag.part
    decide (p.hostb ≤ pa - hostKey) && decide (pa - hostKey + n ≤ p.hostl)
  else false

/-! ## Storage of HBM (R233) -/

/-- The storage key of an HBM address: a retired 64 KiB block lies in its new place. -/
def hbmKey (s : State) (pa : Nat) : Nat :=
  match s.redir.find? (fun r => r.1 == pa / 65536) with
  | some r => r.2 * 65536 + pa % 65536
  | none => pa

/-- The storage key of a physical address. -/
def physKey (s : State) (pa : Nat) : Nat := if pa < hbmEnd then hbmKey s pa else pa

/-- Mark the 64 KiB block of an address as changed since the last checkpoint (R477). -/
def markCkpt (s : State) (pa : Nat) : State :=
  let b := pa / 65536
  let o := ownerOf s (pa / 2 ^ 21)
  let p := s.part o
  if p.ckAll then (if p.ckList.contains b then s.setPart o fun x => { x with ckList := x.ckList.filter fun y => y != b } else s)
  else if p.ckList.contains b then s else s.setPart o fun x => { x with ckList := b :: x.ckList }

/-- Set the bit of a 256-byte granule. -/
def markGranule (m : Migr) (g : Nat) : Migr := if m.dirty.contains g then m else { m with dirty := g :: m.dirty }

/-- Mark the 256-byte granule of an address in a migrating block (R233). -/
def markMigr (s : State) (pa : Nat) : State :=
  if s.migrs.isEmpty then s else
  { s with migrs := updFirst (fun m => m.src == pa / 65536) (fun m => markGranule m (pa % 65536 / 256)) s.migrs }

/-- Whether a block refuses writes for now (R233, R234). -/
def switching (s : State) (pa : Nat) : Bool := s.migrs.any fun m => m.src == pa / 65536 && m.switching

/-- Write bytes of one block at its home port. While the block is in SWITCH the write is answered busy and waits for its
end (R233). -/
def pokeHbm (s : State) (pa : Nat) (bs : List Byte) : State :=
  if switching s pa then
    { s with migrs := updFirst (fun m => m.src == pa / 65536) (fun m => { m with waiting := m.waiting ++ [(pa, bs)] }) s.migrs }
  else markMigr (markCkpt { s with mem := setCells s.mem (hbmKey s pa) bs } pa) pa

/-- Read physical bytes. -/
def peek (s : State) (pa n : Nat) : List Byte := getCells s.mem (physKey s pa) n

/-- Read a physical little-endian value. -/
def peekN (s : State) (pa n : Nat) : Nat := leNat (peek s pa n)

/-! ## Poison (R455) -/

/-- Whether any unit of n bytes from a key is poisoned. -/
def poisoned (s : State) (key n : Nat) : Bool :=
  s.poison.any fun u => decide (key / 64 ≤ u) && decide (u ≤ (key + n - 1) / 64)

/-- Clear the poison of units that n bytes from a key cover whole. -/
def unpoison (s : State) (key n : Nat) : State :=
  if s.poison.isEmpty then s
  else { s with poison := s.poison.filter fun u => !(decide (key ≤ u * 64) && decide (u * 64 + 64 ≤ key + n)) }

/-- Clear the poison of units that pieces of one store, each a key and a length, cover whole together (log 52). -/
def unpoisonAll (s : State) (ps : List (Nat × Nat)) : State :=
  { s with poison := s.poison.filter fun u =>
      !((List.range 64).all fun i => ps.any fun p => decide (p.1 ≤ u * 64 + i) && decide (u * 64 + i < p.1 + p.2)) }

/-! ## Home ports and skew (R192) -/

/-- The home port of an address under a skew. -/
def homePort (skew pa : Nat) : Nat :=
  let q := pa / 256
  match skew with
  | 0 => q % 256
  | 1 => nbits pa 8 8 ^^^ nbits pa 16 8 ^^^ nbits pa 24 8 ^^^ nbits pa 32 8 ^^^ nbits pa 40 8 ^^^ nbits pa 48 4
  | 2 => 32 * (q % 8) + q / 8 % 31
  | _ => 32 * nbits pa 36 3 + q % 32

/-- The row of an address in its channel's part of the skew-2 pool. -/
def poolRow (pa : Nat) : Nat := pa / 256 / 8 / 31

/-- The skew of a 4 KiB frame: that of the first leaf through which it was reached, none before (log 57). -/
def frameSkew (s : State) (pa : Nat) : Option Nat := (s.skews.find? fun x => x.1 == pa / 4096).map Prod.snd

/-- Whether an address is reached under another skew than its frame's. -/
def otherSkew (s : State) (pa skew : Nat) : Bool := (frameSkew s pa).any fun k => k != skew

/-- The storage that a frame reaches under a skew that is not its own: other storage, without coherence. -/
def skewKey (pa skew : Nat) : Nat := 2 ^ 40 * (skew + 1) + pa

/-- The storage of an HBM address under a skew. -/
def leafKey (s : State) (pa skew : Nat) : Nat := if otherSkew s pa skew then skewKey pa skew else hbmKey s pa

/-- Give a frame its skew. -/
def noteSkew (s : State) (pa skew : Nat) : State :=
  if (frameSkew s pa).isSome then s else { s with skews := (pa / 4096, skew) :: s.skews }

/-! ## Tensor windows (R187, R188) -/

/-- The address of a physical address in a window, if the window covers it. -/
def Win.vaOf (w : Win) (pa : Nat) : Option Nat :=
  (w.pages.find? fun p => p.1 == pa / 4096).bind fun p =>
    let va := p.2 * 4096 + pa % 4096
    if w.base ≤ va ∧ va < w.base + w.size then some va else none

/-- The window of a partition that holds an address, with the address in it. -/
def windowOf (s : State) (part pa : Nat) : Option (Win × Nat) :=
  s.wins.findSome? fun w => if w.part = part then (w.vaOf pa).map fun va => (w, va) else none

/-- The tile number of a byte at offset x of a window (R187). -/
def Win.tileOf (w : Win) (x : Nat) : Nat :=
  let r := x / w.r0
  let t0 := x % w.r0 / w.s0
  let t1 := r % w.ext1 / (512 / w.s0)
  let hi := r / w.ext1
  let nt0 := w.r0 / w.s0
  let nt1 := w.ext1 / (512 / w.s0)
  (hi * nt1 + t1) * nt0 + t0

/-- The offset in a window of 128-byte sector i of a tile. -/
def Win.sectorOf (w : Win) (tile i : Nat) : Nat :=
  let nt0 := w.r0 / w.s0
  let nt1 := w.ext1 / (512 / w.s0)
  let per := w.s0 / 128
  let row := tile / (nt0 * nt1) * w.ext1 + tile / nt0 % nt1 * (512 / w.s0) + i / per
  row * w.r0 + tile % nt0 * w.s0 + i % per * 128

/-- The physical address of an offset in a window. -/
def Win.paOf (w : Win) (x : Nat) : Option Nat :=
  (w.pages.find? fun p => p.2 == (w.base + x) / 4096).map fun p => p.1 * 4096 + (w.base + x) % 4096

/-- The key of the line that holds an address of device memory (R185, R187); `tw` says whether a window may hold it. The
partition is the one that owns the memory. -/
def tileKey (s : State) (pa : Nat) (tw : Bool) : TcKey :=
  let part := ownerOf s (pa / 2 ^ 21)
  match if tw then windowOf s part pa else none with
  | some (w, va) => { part := part, ten := w.id, gen := w.gen, tile := w.tileOf (va - w.base) }
  | none => { part := part, ten := 0, gen := 0, tile := pa / 512 }

/-! ## The tile cache (R185, R186) -/

/-- Whether a partition owns a slice. -/
def ownsSlice (s : State) (part i : Nat) : Bool :=
  let e := s.smap[i]?.getD 0
  e.getLsbD 7 && (e.extractLsb' 0 6).toNat == part

/-- The slices of a partition on a die, in increasing number. -/
def slicesOf (s : State) (part die : Nat) : List Nat := ((List.range 128).map fun i => die * 128 + i).filter (ownsSlice s part)

/-- The slice and set of a line on its home die, none when the partition owns no slice there. -/
def tcSlot (s : State) (k : TcKey) (die : Nat) : Option (Nat × Nat) :=
  let l := slicesOf s k.part die
  if l.isEmpty then none else some (l.getD (k.tile % l.length) 0, (k.tile / l.length + k.ten) % 160)

/-- The slice of the chip scratchpad that holds an offset (R181). -/
def chipSlice (die off : Nat) : Nat := die * 128 + off / 512 % 128

/-! ## Dirty sectors

Memory holds the value that every coherent access sees (R184, R197). What the ports still hold of a sector that is dirty in
a cache is kept in `State.stale`, with the key of its line: writing back drops it, and discarding puts it back. -/

/-- Whether the block of a sector is in SWITCH, so that its write-back is answered busy (R233). -/
def busySec (s : State) (sec : Nat) : Bool := switching s (sec * 128)

/-- The write-backs of sectors whose blocks are in SWITCH wait for its end. -/
def waitBacks (s : State) (l : List StaleSec) : State :=
  { s with migrs := s.migrs.map fun m => if m.switching then
      { m with backs := m.backs ++ (l.map StaleSec.sec).filter fun x => x * 128 / 65536 == m.src && !m.backs.contains x } else m }

/-- Write back the dirty sectors that satisfy a condition (R467, R477), at once or after the end of a SWITCH. -/
def writeBack (s : State) (p : StaleSec → Bool) : State :=
  let s := waitBacks s (s.stale.filter p)
  let p := fun x => p x && !busySec s x.sec
  let l := s.stale.filter p
  l.foldl (fun s x => markMigr (markCkpt (s.meter x.tile.part 9 128) (x.sec * 128)) (x.sec * 128))
    { s with stale := s.stale.filter fun x => !p x
             l1 := s.l1.map fun y => if l.any fun x => x.sec == y.sec && x.tile == y.tile then { y with modified := false } else y }

/-- Discard the dirty sectors that satisfy a condition: memory holds what the ports hold. -/
def discard (s : State) (p : StaleSec → Bool) : State :=
  (s.stale.filter p).foldl (fun s x => { s with mem := setCells s.mem (hbmKey s (x.sec * 128)) x.old })
    { s with stale := s.stale.filter fun x => !p x }

/-- The sector of an address is dirty from here on, under a key; the ports keep what they hold. -/
def makeDirty (s : State) (pa : Nat) (k : TcKey) : State :=
  let sec := pa / 128
  let s := writeBack s fun x => x.sec == sec && x.tile != k
  if s.stale.any fun x => x.sec == sec then s
  else { s with stale := { sec := sec, tile := k, old := getCells s.mem (hbmKey s (sec * 128)) 128 } :: s.stale }

/-- Take a line out of the tile cache: its dirty sectors are written back, and no L1 keeps a sector of it. -/
def evictLine (s : State) (l : TcLine) : State :=
  let s := writeBack s fun x => x.tile == l.tile
  { s with tcl := s.tcl.filter fun y => y != l, l1 := s.l1.filter fun y => y.tile != l.tile }

/-- The way that a new line takes in a set: the lowest free one, or a free choice among the sixteen, which is left. -/
def makeWay (s : State) (slice set_ : Nat) : Nat × State :=
  let here := s.tcl.filter fun l => l.slice == slice && l.set_ == set_
  match (List.range 16).find? fun w => !(here.any fun l => l.way == w) with
  | some w => (w, s)
  | none =>
    let w := s.freeVal.toNat % 16
    (w, (here.filter fun l => l.way == w).foldl evictLine (s.useFree 1))

/-- An access reaches the home slice of a line on a die: a line that is not there is filled from its port (R466). With no
slice there the access passes to the port, n bytes of meter i. -/
def touchTile (s : State) (k : TcKey) (die i n : Nat) : State :=
  match tcSlot s k die with
  | none => s.meter k.part i n
  | some (slice, set_) =>
    if s.tcl.any fun l => l.slice == slice && l.set_ == set_ && l.tile == k then s
    else
      let r := makeWay s slice set_
      let s := (r.2.meter k.part 8 512).meter k.part 30 1
      { s with tcl := { slice := slice, set_ := set_, way := r.1, tile := k } :: s.tcl }

/-! ## The L1 (R183, R184) -/

/-- The ways of a seat's positions. -/
def l1Ways (t : Seat) : List Nat := (List.range (4 * t.size)).map fun i => 4 * t.pos + i

/-- Whether a line of an L1 lies in a seat's ways. -/
def inWays (t : Seat) (y : L1Line) : Bool := y.core == t.core && (l1Ways t).contains y.way

/-- The cores whose L1 holds a sector, and whether one of them holds it modified, as the home slice keeps them. -/
def sectorHolders (s : State) (sec : Nat) : List Nat × Bool :=
  (((s.l1.filter fun y => y.sec == sec).map L1Line.core).eraseDups, s.l1.any fun y => y.sec == sec && y.modified)

/-- The home slice recalls the other copies of a sector, or invalidates them before an access that needs ownership. -/
def recallSector (s : State) (sec : Nat) (wr : Bool) (mine : L1Line → Bool) : State :=
  { s with l1 := if wr then s.l1.filter fun y => y.sec != sec || mine y
                 else s.l1.map fun y => if y.sec == sec && !mine y then { y with modified := false } else y }

/-- Make room in the ways of a seat for a line of a set: the least recently used goes, and its data to its home. -/
def l1Room (s : State) (t : Seat) (set_ : Nat) : Nat × State :=
  let here := s.l1.filter fun y => inWays t y && y.sec % 512 == set_
  match (l1Ways t).find? fun w => !(here.any fun y => y.way == w) with
  | some w => (w, s)
  | none =>
    match here.getLast? with
    | none => (0, s)
    | some y =>
      let s := { s with l1 := s.l1.filter fun z => z != y }
      (y.way, if y.modified && (tcSlot s y.tile y.die).isNone then writeBack s fun x => x.sec == y.sec else s)

/-- An access of a seat through its L1: a hit is used last, and a miss fills a way. -/
def touchL1 (s : State) (t : Seat) (pa : Nat) (k : TcKey) (die : Nat) (wr : Bool) : State :=
  let sec := pa / 128
  let mine := fun (y : L1Line) => inWays t y && y.tile.ten == k.ten
  let s := recallSector s sec wr mine
  match s.l1.find? fun y => y.sec == sec && mine y with
  | some y => { s with l1 := { y with modified := y.modified || wr } :: s.l1.filter fun z => !(z.sec == sec && mine z) }
  | none =>
    let s := touchTile s k die 8 128
    let r := l1Room s t (sec % 512)
    { r.2 with l1 := { core := t.core, way := r.1, sec := sec, tile := k, modified := wr, die := die } :: r.2.l1 }

/-! ## Accesses and the caches -/

/-- Whether an agent's data accesses go through the L1 of its seat (R183). -/
def usesL1 (ag : Agent) : Bool := ag.seq

/-- A place that an agent reads: its caches are filled, and what reaches a port is counted (R183 to R188, R466). -/
def cacheRead (s : State) (ag : Agent) (p : Place) (n : Nat) : State :=
  match p.pa, p.tile with
  | some pa, some k =>
    if usesL1 ag then touchL1 s s.mySeat pa k p.die false
    else touchTile (recallSector s (pa / 128) false fun _ => false) k p.die 8 n
  | some _, none => s.meter ag.part 8 n
  | none, _ => s

/-- Drop every cached copy of a sector, written back if it is dirty: what bypasses the caches finds it at its port. -/
def uncache (s : State) (sec : Nat) : State :=
  if s.l1.isEmpty && s.tcl.isEmpty && s.stale.isEmpty then s else
  let s := writeBack s fun x => x.sec == sec
  { s with l1 := s.l1.filter fun y => y.sec != sec }

/-- Before an agent writes n bytes of a place: in a cache the sector is dirty from here on; past the caches its copies
go, and the write is counted at the port (R183 to R188, R467, R477). -/
def cacheWrite (s : State) (ag : Agent) (p : Place) (n : Nat) : State :=
  match p.pa, p.tile with
  | some pa, some k =>
    if usesL1 ag then makeDirty (touchL1 s s.mySeat pa k p.die true) pa k
    else
      let s := recallSector s (pa / 128) true fun _ => false
      if (tcSlot s k p.die).isSome then makeDirty (touchTile s k p.die 9 n) pa k
      else (uncache s (pa / 128)).meter ag.part 9 n
  | some pa, none => (uncache s (pa / 128)).meter ag.part 9 n
  | none, _ => s

/-- Whether an agent's write of a place stays in a cache. -/
def staysCached (s : State) (ag : Agent) (p : Place) : Bool :=
  p.pa.isSome && p.tile.any fun k => usesL1 ag || (tcSlot s k p.die).isSome

/-- Before an atomic is forwarded to the port, the home slice writes back its line and drops every copy (R196). -/
def forwardLine (s : State) (p : Place) : State :=
  match p.pa with
  | none => s
  | some pa =>
    let s := uncache s (pa / 128)
    match p.tile with
    | none => s
    | some k =>
      let s := writeBack s fun x => x.tile == k
      { s with tcl := s.tcl.filter fun l => l.tile != k, l1 := s.l1.filter fun y => y.tile != k }

/-- Empty the ways of positions of a core: with `keep` dirty sectors are written back (R447), else discarded (R184). -/
def emptyWays (s : State) (core pos size : Nat) (keep : Bool) : State :=
  let t := Seat.start core pos size 0 0
  let secs := (s.l1.filter fun y => inWays t y && y.modified).map L1Line.sec
  let s := if keep then writeBack s fun x => secs.contains x.sec else discard s fun x => secs.contains x.sec
  { s with l1 := s.l1.filter fun y => !inWays t y }

/-- Invalidate the lines of slices that change owner: dirty data that no L1 holds is discarded (R186). -/
def emptySlices (s : State) (p : Nat → Bool) : State :=
  let gone := s.tcl.filter fun l => p l.slice
  let s := discard s fun x => (gone.any fun l => l.tile == x.tile) && !(sectorHolders s x.sec).2
  { s with tcl := s.tcl.filter fun l => !p l.slice
           l1 := s.l1.filter fun y => y.modified || !(gone.any fun l => l.tile == y.tile) }

/-- Forget the caches of memory that is written past them: n bytes at an HBM address hold what memory holds. -/
def bypass (s : State) (pa n : Nat) : State :=
  if s.l1.isEmpty && s.tcl.isEmpty && s.stale.isEmpty then s else
  let hit := fun sec => decide (pa / 128 ≤ sec) && decide (sec ≤ (pa + n - 1) / 128)
  { s with stale := s.stale.filter fun x => !hit x.sec, l1 := s.l1.filter fun y => !hit y.sec }

/-- Drop the cached lines of a partition without writing anything back. -/
def dropCaches (s : State) (part : Nat) : State :=
  { s with stale := s.stale.filter fun x => x.tile.part != part, l1 := s.l1.filter fun y => y.tile.part != part
           tcl := s.tcl.filter fun l => l.tile.part != part }

end Sys2Proof.Machine
end

