-- ==== Sys2Proof/Machine/Fp.lean ====
section
/-! DEFINITION. Floating-point arithmetic (R107 to R110, R280, R281, R496): values are decoded to an exact sign,
integer and power of two, combined exactly, and rounded once. Results come with their flags. -/
namespace Sys2Proof.Machine

/-! ## Flags of `fps` (R107) -/

def fNX : Nat := 1
def fUF : Nat := 2
def fOF : Nat := 4
def fDZ : Nat := 8
def fNV : Nat := 16
def fESC : Nat := 32

/-- A format with `eb` exponent and `fb` fraction bits. -/
structure Fmt where
  eb : Nat
  fb : Nat
  deriving DecidableEq, Repr

def bf16 : Fmt := { eb := 8, fb := 7 }
def fp16 : Fmt := { eb := 5, fb := 10 }
def fp32 : Fmt := { eb := 8, fb := 23 }
def fp64 : Fmt := { eb := 11, fb := 52 }
/-- FP36 (R281). -/
def fp36 : Fmt := { eb := 8, fb := 27 }

/-- A decoded value: a NaN (signalling or not), an infinity, or (−1)^neg × m × 2^e. -/
inductive FVal where
  | nan (sig : Bool)
  | inf (neg : Bool)
  | fin (neg : Bool) (m : Nat) (e : Int)
  deriving DecidableEq, Repr

/-- Width of a format. -/
def fWidth (f : Fmt) : Nat := 1 + f.eb + f.fb
/-- The exponent bias. -/
def fBias (f : Fmt) : Int := 2 ^ (f.eb - 1) - 1
/-- The exponent of the smallest normal. -/
def fEmin (f : Fmt) : Int := 1 - fBias f
/-- The bits of an infinity. -/
def fInf (f : Fmt) (neg : Bool) : Nat := (if neg then 2 ^ (f.eb + f.fb) else 0) + (2 ^ f.eb - 1) * 2 ^ f.fb
/-- The canonical quiet NaN (R280). -/
def fNan (f : Fmt) : Nat := (2 ^ f.eb - 1) * 2 ^ f.fb + 2 ^ (f.fb - 1)
/-- The bits of a zero. -/
def fZero (f : Fmt) (neg : Bool) : Nat := if neg then 2 ^ (f.eb + f.fb) else 0

/-- Decode the bits of a format. -/
def fDec (f : Fmt) (x : Nat) : FVal :=
  let neg := x.testBit (f.eb + f.fb)
  let ex := nbits x f.fb f.eb
  let fr := nbits x 0 f.fb
  if ex = 2 ^ f.eb - 1 then
    if fr = 0 then .inf neg else .nan (!fr.testBit (f.fb - 1))
  else if ex = 0 then .fin neg fr (fEmin f - f.fb)
  else .fin neg (2 ^ f.fb + fr) (ex - fBias f - f.fb)

/-- Round m·2^e to a multiple of 2^q in a mode: the multiple and whether it is inexact. Modes as `fps`.RM 0 to 3. -/
def roundAt (rm : Nat) (neg : Bool) (m : Nat) (e q : Int) : Nat × Bool :=
  if q ≤ e then (m * 2 ^ (e - q).toNat, false)
  else
    let sh := (q - e).toNat
    let lo := m % 2 ^ sh
    let r := m / 2 ^ sh
    let half := 2 ^ (sh - 1)
    let up := match rm with
      | 0 => decide (half < lo) || (lo == half && r % 2 == 1)
      | 1 => false
      | 2 => neg && decide (0 < lo)
      | _ => !neg && decide (0 < lo)
    (if up then r + 1 else r, decide (lo ≠ 0))

/-- Round the value (−1)^neg × m × 2^e into a format, with its flags (R107, R496). -/
def roundF (f : Fmt) (rm : Nat) (neg : Bool) (m : Nat) (e : Int) : Nat × Nat :=
  let rm := if rm = 4 then 0 else rm
  if m = 0 then (fZero f neg, 0) else
  let ex : Int := m.log2 + e
  let q := ex - f.fb
  let qb := max q (fEmin f - f.fb)
  let r := roundAt rm neg m e qb
  let u := roundAt rm neg m e q
  let tiny := decide (ex < fEmin f) && !(decide (ex = fEmin f - 1) && u.1 == 2 ^ (f.fb + 1))
  let mag := (qb - (fEmin f - f.fb)).toNat * 2 ^ f.fb + r.1
  let sg := fZero f neg
  if (2 ^ f.eb - 1) * 2 ^ f.fb ≤ mag then
    let big := match rm with
      | 0 => true | 1 => false | 2 => neg | _ => !neg
    (if big then fInf f neg else sg + (2 ^ f.eb - 1) * 2 ^ f.fb - 1, fOF ||| fNX)
  else (sg + mag, (if r.2 then fNX else 0) ||| (if tiny && r.2 then fUF else 0))

/-- Round a decoded value that is not an operand's NaN. -/
def roundV (f : Fmt) (rm : Nat) : FVal → Nat × Nat
  | .nan sig => (fNan f, if sig then fNV else 0)
  | .inf neg => (fInf f neg, 0)
  | .fin neg m e => roundF f rm neg m e

/-! ## Exact operations -/

/-- Whether a value is a signalling NaN. -/
def FVal.sig : FVal → Bool
  | .nan s => s
  | _ => false

/-- Whether a value is a NaN. -/
def FVal.isNan : FVal → Bool
  | .nan _ => true
  | _ => false

/-- A value with its sign inverted; a NaN stays. -/
def FVal.neg : FVal → FVal
  | .nan s => .nan s
  | .inf n => .inf !n
  | .fin n m e => .fin (!n) m e

/-- The sum of two finite values; an exact cancellation is −0 only toward −∞. -/
def addFin (rm : Nat) (n1 : Bool) (m1 : Nat) (e1 : Int) (n2 : Bool) (m2 : Nat) (e2 : Int) : FVal :=
  let e := min e1 e2
  let a : Int := m1 * 2 ^ (e1 - e).toNat
  let b : Int := m2 * 2 ^ (e2 - e).toNat
  let t := (if n1 then -a else a) + (if n2 then -b else b)
  if t = 0 then
    if m1 = 0 && m2 = 0 && n1 == n2 then .fin n1 0 0 else .fin (rm == 2) 0 0
  else .fin (decide (t < 0)) t.natAbs e

/-- Exact sum of two values that are not NaN; none when the operation is invalid (R108). -/
def addV (rm : Nat) : FVal → FVal → Option FVal
  | .inf a, .inf b => if a == b then some (.inf a) else none
  | .inf a, _ => some (.inf a)
  | _, .inf b => some (.inf b)
  | .fin n1 m1 e1, .fin n2 m2 e2 => some (addFin rm n1 m1 e1 n2 m2 e2)
  | _, _ => none

/-- Exact product of two values that are not NaN; none when it is invalid (R108). -/
def mulV : FVal → FVal → Option FVal
  | .inf a, .inf b => some (.inf (a != b))
  | .inf a, .fin b m _ => if m = 0 then none else some (.inf (a != b))
  | .fin a m _, .inf b => if m = 0 then none else some (.inf (a != b))
  | .fin a m e, .fin b m' e' => some (.fin (a != b) (m * m') (e + e'))
  | _, _ => none

/-- Flag of NaN operands (R108). -/
def nanFlags (l : List FVal) : Nat := if l.any FVal.sig then fNV else 0

/-- Addition (R108, R109). -/
def fAdd (f : Fmt) (rm a b : Nat) : Nat × Nat :=
  let x := fDec f a
  let y := fDec f b
  if x.isNan || y.isNan then (fNan f, nanFlags [x, y]) else
  match addV rm x y with
  | none => (fNan f, fNV)
  | some v => roundV f rm v

/-- The bits of a value with its sign inverted. -/
def fNegBits (f : Fmt) (a : Nat) : Nat :=
  if a.testBit (f.eb + f.fb) then a % 2 ^ fWidth f - 2 ^ (f.eb + f.fb) else a % 2 ^ fWidth f + 2 ^ (f.eb + f.fb)

/-- Subtraction. -/
def fSub (f : Fmt) (rm a b : Nat) : Nat × Nat := fAdd f rm a (fNegBits f b)

/-- Multiplication. -/
def fMul (f : Fmt) (rm a b : Nat) : Nat × Nat :=
  let x := fDec f a
  let y := fDec f b
  if x.isNan || y.isNan then (fNan f, nanFlags [x, y]) else
  match mulV x y with
  | none => (fNan f, fNV)
  | some v => roundV f rm v

/-- The quotient of two positive integers to 130 bits and a last bit that tells whether it goes on; it rounds as the
exact quotient does in every format here. -/
def divJam (m1 m2 : Nat) (e : Int) : Nat × Int :=
  let k := 130 + m2.log2
  let n := m1 * 2 ^ k
  (2 * (n / m2) + (if n % m2 = 0 then 0 else 1), e - k - 1)

/-- Division (R109). -/
def fDiv (f : Fmt) (rm a b : Nat) : Nat × Nat :=
  match fDec f a, fDec f b with
  | .nan s, y => (fNan f, if s || y.sig then fNV else 0)
  | x, .nan s => (fNan f, if s || x.sig then fNV else 0)
  | .inf _, .inf _ => (fNan f, fNV)
  | .inf n, .fin n' _ _ => (fInf f (n != n'), 0)
  | .fin n _ _, .inf n' => (fZero f (n != n'), 0)
  | .fin n m e, .fin n' m' e' =>
    if m' = 0 then (if m = 0 then (fNan f, fNV) else (fInf f (n != n'), fDZ))
    else if m = 0 then (fZero f (n != n'), 0)
    else
      let q := divJam m m' (e - e')
      roundF f rm (n != n') q.1 q.2

/-- Fused multiply and add: (−1)^np × a × b + (−1)^nc × c (R108, R109, R315). -/
def fFma (f : Fmt) (rm : Nat) (np nc : Bool) (a b c : Nat) : Nat × Nat :=
  let x := fDec f a
  let y := fDec f b
  let z := fDec f c
  let z := if nc then z.neg else z
  if x.isNan || y.isNan then (fNan f, nanFlags [x, y, z]) else
  match mulV x y with
  | none => (fNan f, fNV)
  | some p =>
    if z.isNan then (fNan f, nanFlags [z]) else
    match addV rm (if np then p.neg else p) z with
    | none => (fNan f, fNV)
    | some v => roundV f rm v

/-- Integer square root from the bit `i` down. -/
def isqrtFrom (n : Nat) : Nat → Nat → Nat
  | 0, r => r
  | i + 1, r =>
    let t := r + 2 ^ i
    isqrtFrom n i (if t * t ≤ n then t else r)

/-- Integer square root. -/
def isqrt (n : Nat) : Nat := isqrtFrom n (n.log2 / 2 + 1) 0

/-- Square root of m·2^e, to 64 bits and a last bit. -/
def sqrtJam (m : Nat) (e : Int) : Nat × Int :=
  let sh : Nat := 160
  let n := if e % 2 = 0 then m * 2 ^ sh else m * 2 ^ (sh + 1)
  let e' := if e % 2 = 0 then e else e - 1
  let r := isqrt n
  (2 * r + (if r * r = n then 0 else 1), e' / 2 - (sh / 2 : Nat) - 1)

/-- Square root (R313). -/
def fSqrt (f : Fmt) (rm a : Nat) : Nat × Nat :=
  match fDec f a with
  | .nan s => (fNan f, if s then fNV else 0)
  | .inf n => if n then (fNan f, fNV) else (fInf f false, 0)
  | .fin n m e =>
    if m = 0 then (fZero f n, 0)
    else if n then (fNan f, fNV)
    else
      let q := sqrtJam m e
      roundF f rm false q.1 q.2

/-! ## Comparison, minimum and maximum -/

/-- The order of two decoded values; none when either is a NaN. −0 equals +0. -/
def cmpV : FVal → FVal → Option Ordering
  | .nan _, _ => none
  | _, .nan _ => none
  | .inf a, .inf b => some (if a == b then .eq else if a then .lt else .gt)
  | .inf a, _ => some (if a then .lt else .gt)
  | _, .inf b => some (if b then .gt else .lt)
  | .fin n1 m1 e1, .fin n2 m2 e2 =>
    let e := min e1 e2
    let a : Int := m1 * 2 ^ (e1 - e).toNat
    let b : Int := m2 * 2 ^ (e2 - e).toNat
    some (compare (if n1 then -a else a) (if n2 then -b else b))

/-- Minimum and maximum (R314): −0 lies below +0, and a single NaN gives the other operand. -/
def fMinMax (f : Fmt) (isMax : Bool) (a b : Nat) : Nat × Nat :=
  let x := fDec f a
  let y := fDec f b
  let fl := nanFlags [x, y]
  match x.isNan, y.isNan with
  | true, true => (fNan f, fl)
  | true, false => (b, fl)
  | false, true => (a, fl)
  | false, false =>
    match cmpV x y with
    | some .lt => (if isMax then b else a, fl)
    | some .gt => (if isMax then a else b, fl)
    | _ => (if isMax == a.testBit (f.eb + f.fb) then b else a, fl)

/-! ## Conversions (R110, R318) -/

/-- Float to float. -/
def fConv (src dst : Fmt) (rm a : Nat) : Nat × Nat := roundV dst rm (fDec src a)

/-- Integer to float. -/
def intToF (f : Fmt) (rm : Nat) (x : Int) : Nat × Nat := roundF f rm (decide (x < 0)) x.natAbs 0

/-- The least and the largest value of an integer type of width w. -/
def intMin (signed : Bool) (w : Nat) : Int := if signed then -((2 ^ (w - 1) : Nat) : Int) else 0
def intMax (signed : Bool) (w : Nat) : Int := if signed then ((2 ^ (w - 1) : Nat) : Int) - 1 else ((2 ^ w : Nat) : Int) - 1

/-- Clamp to a range. -/
def clampI (lo hi x : Int) : Int := if x < lo then lo else if hi < x then hi else x

/-- A decoded value rounded to an integer of a range, with its flags: beyond the range it saturates with NV, a NaN is
0 with NV (R110, R285). -/
def vToInt (lo hi : Int) (rm : Nat) : FVal → Int × Nat
  | .nan _ => (0, fNV)
  | .inf n => (if n then lo else hi, fNV)
  | .fin n m e =>
    let r := roundAt (if rm = 4 then 0 else rm) n m e 0
    let x : Int := if n then -(r.1 : Int) else r.1
    if x < lo then (lo, fNV) else if hi < x then (hi, fNV) else (x, if r.2 then fNX else 0)

/-- Float to integer. -/
def fToInt (f : Fmt) (signed : Bool) (w rm a : Nat) : Int × Nat :=
  vToInt (intMin signed w) (intMax signed w) rm (fDec f a)

/-! ## Types (R87) -/

/-- Width of an element type in bits; 8 for `.nf`. -/
def tyWidth (t : Nat) : Nat :=
  match t with
  | 1 | 5 | 13 => 8
  | 2 | 6 | 9 | 10 => 16
  | 3 | 7 | 11 => 32
  | 4 | 8 | 12 | 14 => 64
  | _ => 8

/-- Whether an integer type is signed. -/
def tySigned (t : Nat) : Bool := decide (1 ≤ t) && decide (t ≤ 4)
/-- Whether a type is a float. -/
def tyFloat (t : Nat) : Bool := decide (9 ≤ t) && decide (t ≤ 12)
/-- The format of a float type. -/
def tyFmt (t : Nat) : Fmt :=
  match t with
  | 9 => bf16 | 10 => fp16 | 11 => fp32 | _ => fp64

/-- The integer value of bits by type. -/
def tyInt (t x : Nat) : Int := if tySigned t then sval (tyWidth t) x else ((x % 2 ^ tyWidth t : Nat) : Int)

/-- Convert bits of type S to type T (R110, R318). -/
def convTy (t src rm x : Nat) : Nat × Nat :=
  match tyFloat src, tyFloat t with
  | true, true => fConv (tyFmt src) (tyFmt t) rm x
  | true, false =>
    let r := fToInt (tyFmt src) (tySigned t) (tyWidth t) rm x
    (wrapN (tyWidth t) r.1, r.2)
  | false, true => intToF (tyFmt t) rm (tyInt src x)
  | false, false =>
    (wrapN (tyWidth t) (clampI (intMin (tySigned t) (tyWidth t)) (intMax (tySigned t) (tyWidth t)) (tyInt src x)), 0)

/-! ## Atomic functions (R117, R194) -/

/-- m′ of an atomic: function as R117 codes it, type, old value, operand b, and e for `cas`. -/
def atomicFn (fn ty m b e : Nat) : Nat :=
  let w := tyWidth ty
  match fn with
  | 0 => (m + b) % 2 ^ w
  | 1 => (fAdd (tyFmt ty) 0 (m % 2 ^ w) (b % 2 ^ w)).1
  | 2 => m &&& (b % 2 ^ w)
  | 3 => m ||| (b % 2 ^ w)
  | 4 => m ^^^ (b % 2 ^ w)
  | 5 => if tyInt ty m ≤ tyInt ty b then m else b % 2 ^ w
  | 6 => if tyInt ty b ≤ tyInt ty m then m else b % 2 ^ w
  | 7 => b % 2 ^ w
  | _ => if m = e % 2 ^ w then b % 2 ^ w else m

end Sys2Proof.Machine
end

