-- ==== Sys2Proof/Machine/Mem.lean ====
section
/-! DEFINITION. Memory: translation (R217 to R232), local windows (R174, R175, R182), watchpoints (R456), remote frames
(R220), and the reads, writes and atomics that every instruction and engine uses. -/
namespace Sys2Proof.Machine

/-- Result of an access: a value, a trap cause, or a context that is held until an answer comes. -/
inductive R (α : Type) where
  | ok (a : α) (s : State)
  | trap (cause : Nat) (s : State)
  | hold (s : State)

/-- Kinds of access. -/
inductive Acc where
  | fetch | load | store | atomic
  deriving DecidableEq, Repr

/-- Cause of a missing translation (R222). -/
def accCause : Acc → Nat
  | .fetch => 0x05 | .load => 0x06 | .store => 0x07 | .atomic => 0x07

/-- No cause of a trap: an access that was answered busy and is tried again (R234). -/
def busyCause : Nat := 0x100

/-- Whether an access writes. -/
def accWrites : Acc → Bool
  | .store => true | .atomic => true | _ => false

/-- Whether an access reads. -/
def accReads : Acc → Bool
  | .load => true | .atomic => true | _ => false

/-! ## The walk (R219 to R226) -/

/-- A leaf found by a walk: the entry, its address and its line. -/
inductive Walk where
  | fault (cause : Nat)
  | leaf (e : Nat) (ea : Nat) (line : Nat)
  deriving DecidableEq, Repr

/-- Fields of an entry (R219). -/
def eV (e : Nat) : Bool := nbit e 15
def eRD (e : Nat) : Bool := nbit e 14
def eWR (e : Nat) : Bool := nbit e 13
def eEX (e : Nat) : Bool := nbit e 12
def eKind (e : Nat) : Nat := nbits e 10 2
def eSkew (e : Nat) : Nat := nbits e 7 3
def eSize (e : Nat) : Nat := nbits e 4 3
def eTW (e : Nat) : Bool := nbit e 1
def eRMT (e : Nat) : Bool := nbit e 0
def eFrame (e : Nat) : Nat := e / 2 ^ 16 % 2 ^ 40
/-- A valid leaf. -/
def eLeaf (e : Nat) : Bool := eV e && decide (nbits e 12 3 ≠ 0)

/-- log2 of a page size in bytes. -/
def pageBits (size : Nat) : Nat :=
  match size with
  | 0 => 12 | 1 => 16 | 2 => 21 | 3 => 25 | 4 => 30 | _ => 34

/-- Leaf sizes of a level (R222). -/
def sizeAllowed (lev size : Nat) : Bool :=
  match lev with
  | 0 => decide (size ≤ 1)
  | 1 => size == 2 || size == 3
  | 2 => size == 4 || size == 5
  | _ => false

/-- Entry i of a node with the line it stands in: a uniform run is read from entry 0 and the summary (R221). -/
def readEntry (s : State) (node i : Nat) : Nat × Nat × Nat :=
  let line := node * 4096 + 64 * (i / 8)
  let raw := peek s line 64
  let j := i % 8
  let e0 := leNat (raw.take 7)
  let sum := leNat (raw.drop 56)
  if nbit sum 63 && eLeaf e0 then
    let fr := ((eFrame e0 : Int) + j * sval 41 sum) % 2 ^ 40
    (fr.toNat * 2 ^ 16 + e0 % 2 ^ 16, line, line)
  else (leNat ((raw.drop (7 * j)).take 7), line + 7 * j, line)

/-- Check a leaf (R220, R222). A remote leaf smaller than 64 KiB is a translation fault, one with a skew a permission
fault (log 15). -/
def leafFault (lev e : Nat) (acc : Acc) : Option Nat :=
  let sz := eSize e
  if !sizeAllowed lev sz then some (accCause acc)
  else if eRMT e then
    if sz = 0 || decide (e / 2 ^ 16 % 2 ^ 24 % 2 ^ (pageBits sz - 16) ≠ 0) then some (accCause acc)
    else if eKind e = 3 || decide (eSkew e ≠ 0) then some 0x08 else none
  else if eFrame e % 2 ^ (pageBits sz - 12) ≠ 0 then some (accCause acc)
  else if eKind e = 3 || decide (4 ≤ eSkew e) then some 0x08 else none

/-- The walk from a node through the levels that remain. -/
def walkFrom (s : State) (ag : Agent) (acc : Acc) (va : Nat) (node : Nat) : List Nat → Walk
  | [] => .fault (accCause acc)
  | lev :: rest =>
    let i := if lev = 4 then nbits va 48 8 else nbits va (12 + 9 * lev) 9
    let r := readEntry s node i
    let e := r.1
    if poisoned s (physKey s r.2.2) 64 then .fault 0x0C
    else if !eV e then .fault (accCause acc)
    else if !eLeaf e then
      if lev = 0 || decide (e % 2 ^ 12 ≠ 0) then .fault (accCause acc)
      else if !physOk s ag (eFrame e * 4096) 4096 then .fault 0x08
      else walkFrom s ag acc va (eFrame e) rest
    else
      match leafFault lev e acc with
      | some c => .fault c
      | none => .leaf e r.2.1 r.2.2

/-- The table lines that a walk reads, in order. -/
def walkLines (s : State) (ag : Agent) (va : Nat) (node : Nat) : List Nat → List Nat
  | [] => []
  | lev :: rest =>
    let r := readEntry s node (if lev = 4 then nbits va 48 8 else nbits va (12 + 9 * lev) 9)
    r.2.2 :: (if eV r.1 && !eLeaf r.1 && physOk s ag (eFrame r.1 * 4096) 4096 then walkLines s ag va (eFrame r.1) rest else [])

/-- The home slices of the lines that a walk reads are accessed, as for untensored data (R223). -/
def touchWalk (s : State) (ag : Agent) (va : Nat) : State :=
  (walkLines s ag va (s.part ag.part).root [4, 3, 2, 1, 0]).foldl (fun s line =>
    if line < hbmEnd then
      touchTile (recallSector s (line / 128) false fun _ => false) (tileKey s line false)
        (homePort ((frameSkew s line).getD 0) line / 128) 8 64
    else s) s

/-- Whether a leaf allows an access; an atomic needs RD and WR (log 15). -/
def leafAllows (e : Nat) : Acc → Bool
  | .fetch => eEX e
  | .load => eRD e
  | .store => eWR e
  | .atomic => eRD e && eWR e

/-- Set ACC, and DRT for a write, in an entry (R225). -/
def setAccDrt (s : State) (ea : Nat) (wr : Bool) : State :=
  let b := (peek s ea 1).headD 0
  let b' : Byte := b ||| 8 ||| (if wr then 4 else 0)
  if b = b' then s
  else if ea < hbmEnd then pokeHbm s ea [b'] else { s with mem := setCells s.mem ea [b'] }

/-! ## Translations held (R225, R227 to R232) -/

/-- Whether an entry has its ACC and DRT bits set. -/
def eACC (e : Nat) : Bool := nbit e 3
def eDRT (e : Nat) : Bool := nbit e 2

/-- Whether a translation covers a virtual address. -/
def Trans.covers (t : Trans) (va : Nat) : Bool := t.va / 2 ^ pageBits (eSize t.e) == va / 2 ^ pageBits (eSize t.e)

/-- The translation that an agent's cache holds of an address. -/
def heldTrans (s : State) (ag : Agent) (va : Nat) : Option Trans :=
  if 4 ≤ ag.unit then
    let q := s.c.stream (ag.unit - 4)
    (q.held ++ q.ahead).find? fun t => t.covers va
  else
    let h := cacheOf s ag
    (s.tlb.find? fun x => x.1 == h && x.2.1 == ag.part && x.2.2.covers va).map fun x => x.2.2

/-- Whether a stream register knows an address only from its walk-ahead, which denies nothing: the walk is made again when an
element reaches the page (R228). -/
def isAhead (s : State) (ag : Agent) (va : Nat) : Bool :=
  decide (4 ≤ ag.unit) && !((s.c.stream (ag.unit - 4)).held.any fun t => t.covers va)

/-- The leaves that a line of a table gives (R221, R227); `va` is an address that it translates and `lev` its level. -/
def lineLeaves (s : State) (va lev line : Nat) : List Trans :=
  (List.range 8).filterMap fun j =>
    let e := (readEntry s (line / 4096) (line % 4096 / 64 * 8 + j)).1
    if eLeaf e && (leafFault lev e .load).isNone then
      some { va := va / 2 ^ (15 + 9 * lev) * 2 ^ (15 + 9 * lev) + j * 2 ^ (12 + 9 * lev), e := e, line := line }
    else none

/-- The level of the tables at which a leaf stands. -/
def eLevel (e : Nat) : Nat := eSize e / 2

/-- Keep the translation that a walk has found: a stream register holds the leaves of its line. -/
def keepTrans (s : State) (ag : Agent) (va e line : Nat) : State :=
  if 4 ≤ ag.unit then
    s.setStream (ag.unit - 4) fun q =>
      { q with held := lineLeaves s va (eLevel e) line, ahead := q.ahead.filter fun t => t.line != line }
  else
    let h := cacheOf s ag
    let base := va / 2 ^ (12 + 9 * eLevel e) * 2 ^ (12 + 9 * eLevel e)
    { s with tlb := (h, ag.part, { va := base, e := e, line := line }) ::
        s.tlb.filter fun x => !(x.1 == h && x.2.1 == ag.part && x.2.2.covers va) }

/-- Where n bytes lie through a leaf, with the checks of its page (R220, R222, R226). -/
def leafPlace (s : State) (ag : Agent) (acc : Acc) (va n e line : Nat) : Except Nat Tgt :=
  if !leafAllows e acc then .error 0x08 else
  let off := va % 2 ^ pageBits (eSize e)
  if eRMT e then .ok (.far (eFrame e / 2 ^ 24) (eFrame e % 2 ^ 24 * 65536 + off) (eKind e))
  else
    let pa := eFrame e * 4096 + off
    if !physOk s ag pa n then .error 0x08
    else if pa < hbmEnd then
      .ok (.near { key := leafKey s pa (eSkew e), kind := eKind e, pa := some pa, line := some line,
                   tile := if eKind e = 0 || otherSkew s pa (eSkew e) then none else some (tileKey s pa (eTW e)),
                   die := homePort (eSkew e) pa / 128 })
    else .ok (.near { key := pa, kind := eKind e, tile := none, pa := none, line := some line, die := 0 })

/-- A leaf that reaches a local frame gives it its skew (R192). -/
def leafSkew (s : State) (va e : Nat) : State :=
  let pa := eFrame e * 4096 + va % 2 ^ pageBits (eSize e)
  if eRMT e || hbmEnd ≤ pa then s else noteSkew s pa (eSkew e)

/-- Translate by a walk: ACC, and DRT for a write, are set, and the cache keeps the leaf (R222, R225). The walk waits while
the entry's block refuses the change. -/
def walkPlace (s : State) (ag : Agent) (acc : Acc) (va n : Nat) : Walk → Except Nat (Tgt × State)
  | .fault c => .error c
  | .leaf e ea line =>
    (leafPlace s ag acc va n e line).bind fun p =>
    if switching s ea && !(eACC e && (!accWrites acc || eDRT e)) then .error busyCause else
      let again := (heldTrans s ag va).all fun t => accWrites acc && !eDRT t.e
      let s := if again then touchWalk s ag va else s
      .ok (p, keepTrans (setAccDrt (leafSkew s va e) ea (accWrites acc)) ag va (e ||| 8 ||| (if accWrites acc then 4 else 0)) line)

/-- Whether a cached translation may serve an access, and would not do what a walk does: the tables have changed, or their
ACC or DRT bit has been cleared. One with DRT clear never serves a write (R225). -/
def Trans.differs (t : Trans) (acc : Acc) (w : Walk) : Bool :=
  eACC t.e && (!accWrites acc || eDRT t.e) &&
  match w with
  | .fault _ => true
  | .leaf e _ _ => !(e ||| 12 == t.e ||| 12 && eACC e && (!accWrites acc || eDRT e))

/-- Translate n bytes at a virtual address of the tables (R217 to R226). A translation that the cache still holds may serve
in place of a walk, until its invalidation is acknowledged (R231, R232). -/
def translate (s : State) (ag : Agent) (acc : Acc) (va n : Nat) : Except Nat (Tgt × State) :=
  let w := walkFrom s ag acc va (s.part ag.part).root [4, 3, 2, 1, 0]
  match (heldTrans s ag va).filter fun t => t.differs acc w && (leafAllows t.e acc || !isAhead s ag va) &&
      Config.keepsTranslation s.now s.cyc s.cursor ag.unit ag.core va with
  | some t => (leafPlace s ag acc va n t.e t.line).map fun p => (p, s)
  | none => walkPlace s ag acc va n w

/-- An access at an address of the tables has failed: its walk, if it made one, has read its lines (R223). -/
def faultWalk (s : State) (ag : Agent) (va : Nat) : State :=
  if 2 ^ 56 ≤ va || nbits va 48 8 = 0xFE || (heldTrans s ag va).isSome then s else touchWalk s ag va

/-! ## Local windows (R174, R175, R180) -/

/-- Whether a partition owns a position of a core. -/
def ownsPos (s : State) (part core pos : Nat) : Bool :=
  s.seats.any fun t => t.part == part && t.core == core && decide (t.pos ≤ pos) && decide (pos < t.pos + t.size)

/-- The key of a window address, if the partition owns the byte. -/
def windowKey (s : State) (ag : Agent) (va : Nat) : Option Nat :=
  let share := fun core pos key => if ownsPos s ag.part core pos then some key else none
  match nbits va 40 8 with
  | 1 =>
    let o := va % 2 ^ 22
    if nbits va 22 18 ≠ 0 || 0x300000 ≤ o then none else share ag.core (o / 0xC0000) (keyCore ag.core o)
  | 2 =>
    let core := ag.core / 4 * 4 + nbits va 24 2
    let o := va % 2 ^ 24
    if nbits va 26 14 ≠ 0 || 0x400000 ≤ o then none
    else if o < 0x300000 then share core (o / 0xC0000) (keyCore core o)
    else share core ((o - 0x300000) / 0x40000) (keyBank core (o - 0x300000))
  | 3 =>
    let o := va % 2 ^ 25
    let die := nbits va 25 1
    if nbits va 26 14 ≠ 0 then none
    else if nbit (s.part ag.part).csp (512 * die + o / 65536) then some (keyChip die o) else none
  | 4 =>
    let o := va % 2 ^ 11
    if nbits va 19 21 ≠ 0 then none else share ag.core (o / 512) (keyLane ag.core (nbits va 11 8) o)
  | _ => none

/-- The die of a window address. -/
def windowDie (core va : Nat) : Nat :=
  match nbits va 40 8 with
  | 2 => dieOfCore (core / 4 * 4 + nbits va 24 2)
  | 3 => nbits va 25 1
  | _ => dieOfCore core

/-- A window place: n bytes that lie together in one share (R174). A stopped partition's grants are out of reach
(R436). -/
def windowPlace (s : State) (ag : Agent) (va n : Nat) : Option Place :=
  let st := (s.part ag.part).st
  if st = .stopped || st = .scrub then none else
  match windowKey s ag va, windowKey s ag (va + n - 1) with
  | some k, some k' =>
    if k' = k + n - 1 then
      some { key := k, kind := 1, tile := none, pa := none, line := none, die := windowDie ag.core va }
    else none
  | _, _ => none

/-! ## Sluice (R336) -/

/-- The binding of a partition that covers an address. -/
def bindOver (s : State) (part va : Nat) : Option Bind :=
  s.binds.find? fun b => b.part == part && decide (b.base ≤ va) && decide (va < b.base + b.span)

/-- The address that an access to a double-backed buffer reaches. -/
def sluice (s : State) (part va : Nat) : Nat :=
  match bindOver s part va with
  | some b => if b.cur then b.alt + (va - b.base) else va
  | none => va

/-! ## Resolving an address -/

/-- Where n bytes at a virtual address lie, without the Sluice (R217). -/
def resolveRaw (s : State) (ag : Agent) (acc : Acc) (va n : Nat) : Except Nat (Tgt × State) :=
  if 2 ^ 56 ≤ va then .error (accCause acc)
  else if nbits va 48 8 = 0xFE then
    match windowPlace s ag va n with
    | some p => .ok (.near p, s)
    | none => .error 0x08
  else translate s ag acc va n

/-- The address that an access reaches: a vector memory instruction keeps the backing that it has resolved (R262). -/
def sluiceFor (s : State) (ag : Agent) (va : Nat) : Nat :=
  match bindOver s ag.part va with
  | some b =>
    let kept := if ag.seq then (s.c.hold.bind fun h => h.backs.find? fun x => x.1 == b.base).map Prod.snd else none
    if kept.getD b.cur then b.alt + (va - b.base) else va
  | none => va

/-- Where n bytes at a virtual address lie (R217, R336): a binding never covers a window or an address beyond the
tables. -/
def resolve (s : State) (ag : Agent) (acc : Acc) (va n : Nat) : Except Nat (Tgt × State) :=
  resolveRaw s ag acc (if acc = .fetch then va else sluiceFor s ag va) n

/-- Whether an enabled watchpoint of a partition covers a byte of the access (R456). -/
def watchHit (s : State) (part : Nat) (acc : Acc) (va n : Nat) : Bool :=
  (s.part part).wpt.toList.any fun w =>
    let lgs := (w.extractLsb' 56 5).toNat
    let base := (w.extractLsb' 0 56).toNat / 2 ^ lgs * 2 ^ lgs
    ((w.getLsbD 63 && accWrites acc) || (w.getLsbD 62 && accReads acc)) &&
      decide (base < va + n) && decide (va < base + 2 ^ lgs)

/-! ## Bytes of a place -/

/-- Read n bytes of a place. -/
def readPlace (s : State) (p : Place) (n : Nat) : List Byte := getCells s.mem p.key n

/-- A line of a table with ACC and DRT cleared in every entry (R225, R230). -/
def tableBits (raw : List Byte) : List Byte :=
  (List.range raw.length).map fun i =>
    let b := raw.getD i 0
    if i % 7 = 0 && decide (i < 56) then b &&& 0xF3 else b

/-- The stream registers of a context that hold translations of a line. -/
def streamHolders (line : Nat) (c : Ctx) : List Holder :=
  ((List.range 16).filter fun i => ((c.stream i).held ++ (c.stream i).ahead).any fun t => t.line == line).map fun i =>
    { unit := 4 + i, who := c.id }

/-- The caches that hold translations of a table line (R230). -/
def lineHolders (s : State) (line : Nat) : List Holder :=
  ((s.tlb.filter fun x => x.2.2.line == line).map Prod.fst).eraseDups ++ s.ctxs.flatMap (streamHolders line)

/-- Ask the holders of a line to drop it, when more than ACC and DRT changed (R230). -/
def shootLine (old : State) (s : State) (by_ line : Nat) : State :=
  let hs := lineHolders s line
  if hs.isEmpty then s
  else if tableBits (peek old line 64) = tableBits (peek s line 64) then s
  else { s with shoot := s.shoot ++ hs.map fun h => { holder := h, line := line, by_ := by_ } }

/-- The same for every line that n bytes at an address touch, which `by_` has stored. -/
def shootLines (old : State) (s : State) (by_ pa n : Nat) : State :=
  if s.tlb.isEmpty && s.ctxs.all fun c => c.q.toList.all fun q => q.held.isEmpty && q.ahead.isEmpty then s
  else (List.range ((pa % 64 + n + 63) / 64)).foldl (fun s i => shootLine old s by_ ((pa / 64 + i) * 64)) s

/-- A stream register drops the entries of a line; one that held such an entry is stale and drops its walk-ahead
(R231). -/
def dropLine (line : Nat) (q : Stream) : Stream :=
  if q.held.any fun t => t.line == line then
    { q with held := q.held.filter fun t => t.line != line, ahead := [], stale := true }
  else { q with ahead := q.ahead.filter fun t => t.line != line }

/-- A holder removes the entries of a line and acknowledges (R231). -/
def ackShoot (s : State) (h : Holder) (line : Nat) : State :=
  let s := if 4 ≤ h.unit then
      s.withCtx h.who fun c => { c with q := c.q.setIfInBounds (h.unit - 4) (dropLine line (c.stream (h.unit - 4))) }
    else { s with tlb := s.tlb.filter fun x => !(x.1 == h && x.2.2.line == line) }
  { s with shoot := s.shoot.filter fun x => !(x.holder == h && x.line == line) }

/-- Every invalidation that satisfies a condition has been acknowledged. -/
def settleShoots (s : State) (p : Shoot → Bool) : State :=
  (s.shoot.filter p).foldl (fun s x => ackShoot s x.holder x.line) s

/-- The stores of the running context to table lines are performed at package scope (R230). -/
def settleMine (s : State) : State := settleShoots s fun x => x.by_ == s.c.id

/-- So are those of the engines, which a `pub` or a fill of their copies releases (R212, R359). -/
def settleEngines (s : State) : State := settleShoots s fun x => x.by_ == engineId

/-- So is a write of n bytes at an address, which is answered only then. -/
def settleBytes (s : State) (pa n : Nat) : State :=
  settleShoots s fun x => decide (pa / 64 * 64 ≤ x.line) && decide (x.line < pa + n)

/-- Whose store an agent's is: its context's, or an engine's. -/
def storer (s : State) (ag : Agent) : Nat := if ag.seq then s.c.id else engineId

/-- Write bytes of a place; they lie in one 128-byte sector. A write that stays in a cache reaches no port yet. -/
def writePlace (s : State) (ag : Agent) (p : Place) (bs : List Byte) : State :=
  let s := cacheWrite s ag p bs.length
  let s' := match p.pa with
    | some pa =>
      if p.key != hbmKey s pa || (staysCached s ag p && !switching s pa) then { s with mem := setCells s.mem p.key bs }
      else pokeHbm s pa bs
    | none => { s with mem := setCells s.mem p.key bs }
  unpoison (shootLines s s' (storer s ag) (p.pa.getD p.key) bs.length) p.key bs.length

/-! ## Accesses of this device to itself -/

/-- Whether host memory performs an atomic function (R118). -/
def hostAtomic (fn ty : Nat) : Bool :=
  (fn == 0 && !tyFloat ty) || fn == 7 || fn == 8

/-- Perform an atomic at its home: the old value (R117, R178, R196). In HBM it is performed at the port. -/
def atomicPlace (s : State) (ag : Agent) (p : Place) (fn ty b e : Nat) : Nat × State :=
  let n := tyWidth ty / 8
  let s := forwardLine s p
  let s := if p.pa.isSome then s.meter ag.part 8 n else s
  let m := leNat (readPlace s p n)
  if fn = 8 && decide (m ≠ e % 2 ^ tyWidth ty) then (m, s)
  else (m, writePlace s ag { p with tile := none } (leBytes n (atomicFn fn ty m b e)))

/-! ## Requests of other devices at this home (R220, R389) -/

/-- The place of a physical address as its home slice forms it (R188), under the frame's own skew; what is accessed as an SO
page enters no cache (R183, R185). -/
def homePlace (s : State) (pa kind : Nat) : Place :=
  { key := hbmKey s pa, kind := kind, tile := if kind = 0 then none else some (tileKey s pa true), pa := some pa, line := none
    die := homePort ((frameSkew s pa).getD 0) pa / 128 }

/-- The pieces of n bytes at an address that lie in one 128-byte sector each: address and length; at most k of them. -/
def pieces (pa n : Nat) : Nat → List (Nat × Nat)
  | 0 => []
  | k + 1 =>
    if n = 0 then [] else
    let m := min n (128 - pa % 128)
    (pa, m) :: pieces (pa + m) (n - m) k

/-- Write bytes at a home, sector by sector. -/
def homeWrite (s : State) (ag : Agent) (kind : Nat) (data : List Byte) : List (Nat × Nat) → State
  | [] => s
  | (a, n) :: t => homeWrite (writePlace s ag (homePlace s a kind) (data.take n)) ag kind (data.drop n) t

/-- Perform a request of another device's partition: status of R379 (0 done, 1 busy, 3 refused, 4 poisoned), value and
state. It is checked against the imports granted to that partition (R220) and the granule's owner (R436). A write is done once
the caches that hold what it changed of a table have dropped it (R230). -/
def serveAccess (s : State) (sdev spart pa kind width op fn ty b e : Nat) (data : List Byte) : Nat × Nat × State :=
  let wr := decide (op ≠ 0)
  let o := (s.part (ownerOf s (pa / 2 ^ 21))).st
  let imp := s.imports.find? fun i => i.dev == sdev && i.part == spart && decide (i.base ≤ pa) &&
    decide (pa + width ≤ i.base + i.size) && (i.wr || !wr)
  match imp with
  | none => (3, 0, s)
  | some _ =>
    if o = .stopped || o = .scrub || decide (hbmEnd < pa + width) then (3, 0, s)
    else if wr && (pieces pa width (width / 128 + 2)).any fun x => switching s x.1 then (1, 0, s)
    else
      let p := homePlace s pa kind
      let ag := engineAgent (ownerOf s (pa / 2 ^ 21))
      match op with
      | 0 => if poisoned s p.key width then (4, 0, s) else (0, leNat (readPlace s p width), cacheRead s ag p width)
      | 1 => (0, 0, settleBytes (homeWrite s ag kind data (pieces pa width (width / 128 + 2))) pa width)
      | _ =>
        if poisoned s p.key width then (4, 0, s) else
        let r := atomicPlace s ag p fn ty b e
        (0, r.1, settleBytes r.2 pa width)

/-! ## Remote frames as the running context reaches them (R114, R177, R391) -/

/-- Hold the running context for an answer. -/
def holdFor (s : State) (tag : Nat) : State :=
  let h := s.c.hold.getD { stamp := s.now }
  { s with c := { s.c with hold := some { h with tag := some tag, ans := none } } }

/-- Drop the answer that the running context has taken. -/
def takeAns (s : State) : State :=
  { s with c := { s.c with hold := s.c.hold.map fun h => { h with tag := none, ans := none } } }

/-- The end of an access of the running context whose answer has come from another device or the host (R114, R179). -/
def endAns (s : State) (a : FAns) : R Nat :=
  match a.st with
  | 0 => .ok a.val (takeAns s)
  | 1 => .trap 0x0D (takeAns s)
  | 4 => .trap 0x0C (takeAns s)
  | _ => .trap 0x0E (takeAns s)

/-- The answer that has come for an access of the running context: that access is over, whatever its address names by now. -/
def State.ansOf (s : State) (ag : Agent) : Option FAns := if ag.seq then s.c.hold.bind Hold.ans else none

/-- Keep what a store or atomic of the running context has changed, as a fetch may still see it (R78). -/
def noteUnseen (old s : State) (ag : Agent) (key n : Nat) : State :=
  if ag.seq then { s with c := { s.c with unseen := (key, getCells old.mem key n, getCells s.mem key n) :: s.c.unseen } } else s

/-- An access to a remote frame: send it and hold the context, or take its answer. -/
def farAccess (s : State) (ag : Agent) (dev pa kind width op fn ty b e : Nat) (data : List Byte) : R Nat :=
  match s.ansOf ag with
  | some a => endAns s a
  | none =>
  if dev = s.dev then
    let r := serveAccess s s.dev ag.part pa kind width op fn ty b e data
    match r.1 with
    | 0 => .ok r.2.1 (if op = 0 then r.2.2 else noteUnseen s r.2.2 ag (hbmKey s pa) width)
    | 1 => .hold s
    | 4 => .trap 0x0C s
    | _ => .trap 0x0E s
  else if !ag.seq then
    -- an engine's write leaves without waiting; its reads are the engine's own to arrange
    if op = 1 then .ok 0 (sendRequest s engineId ag.part dev (accessFlit (kind == 0) pa width 1 0 data)).1 else .hold s
  else
    let d := match op with
      | 0 => []
      | 1 => data
      | _ => leBytes 8 b ++ leBytes 8 e ++ leBytes 1 ty
    let r := sendRequest s s.c.id ag.part dev (accessFlit (kind == 0) pa width op fn d)
    .hold (holdFor r.1 r.2)

/-- What the host's completer does for an AtomicOp that finds this word (R178, R179). -/
def performHost (s : State) (o : HostOp) (old : Nat) : State :=
  let w := tyWidth o.ty
  let new := if o.fn = 8 && decide (old ≠ o.e % 2 ^ w) then old else atomicFn o.fn o.ty old o.b o.e
  { s with mem := setCells s.mem o.key (leBytes (w / 8) new) }

/-- The word that an AtomicOp finds, as the device last knew it. -/
def hostWord (s : State) (o : HostOp) : Nat := leNat (getCells s.mem o.key (tyWidth o.ty / 8))

/-- The host has performed an AtomicOp before a later one, whose completion shows it. -/
def performPrior (s : State) (r : Resv) : State :=
  match r.host with
  | some o =>
    let t := performHost s o (hostWord s o)
    { t with resvs := t.resvs.map fun x => if x.tag = r.tag then { x with host := some { o with done := true } } else x }
  | none => s

/-- The AtomicOps on a word before that of a reservation, as far as they lead to the value that its completion names. -/
def hostPrior (s : State) (tag : Nat) (o : HostOp) (val : Nat) : State :=
  let prior := (s.resvs.takeWhile fun r => r.tag != tag).filter fun r => r.host.any fun x => x.key == o.key && !x.done
  let t := prior.foldl (fun t r => if hostWord t o = val then t else performPrior t r) s
  if hostWord t o = val then t else s

/-- Host memory once the outcome of an AtomicOp is known (R179). A successful completion names the word that the host has found;
where the word is no longer that one, a later store has replaced what the host left (log 2). After a refusal it is untouched,
and a free value says whether the host has performed it where that is open. -/
def hostOutcome (s : State) (tag : Nat) (o : HostOp) (st val : Nat) : State :=
  if o.done then s else
  match st with
  | 0 =>
    let v := val % 2 ^ tyWidth o.ty
    let s := hostPrior s tag o v
    if hostWord s o = v then performHost s o v else s
  | 1 => s
  | 2 => s
  | _ => (if s.freeVal.getLsbD 0 then performHost s o (hostWord s o) else s).useFree 1

/-- An atomic in host memory (R118, R179): a PCIe AtomicOp, performed by the host, whose completion decides. -/
def hostAccess (s : State) (p : Place) (fn ty b e : Nat) : R Nat :=
  let tag := s.nextTag
  let s := { s with
    nextTag := (tag + 1) % 2 ^ 32
    resvs := s.resvs ++ [{ tag := tag, ctx := s.c.id, flit := blankFlit, start := s.now, busyUntil := none,
                           host := some { key := p.key, fn := fn, ty := ty, b := b, e := e } }]
    out := s.out ++ [.atomicOp s.c.id (p.key - hostKey) fn (tyWidth ty / 8) (wd b) (wd e)] }
  .hold (holdFor s tag)

/-! ## The accesses that instructions make -/

/-- The key and length of bytes that a store reaches on this device. -/
def storedPiece (n : Nat) : Except Nat (Tgt × State) → Option (Nat × Nat)
  | .ok (.near p, _) => some (p.key, n)
  | _ => none

/-- The result of an access as bytes, or without its value. -/
def R.bytes (n : Nat) : R Nat → R (List Byte)
  | .ok v s => .ok (leBytes n v) s
  | .trap c s => .trap c s
  | .hold s => .hold s
def R.unit : R Nat → R Unit
  | .ok _ s => .ok () s
  | .trap c s => .trap c s
  | .hold s => .hold s

/-- An access that was not translated: a trap, or one to be tried again. -/
def failed {α : Type} (s : State) (ag : Agent) (acc : Acc) (va c : Nat) : R α :=
  if c = busyCause then .hold s else .trap c (faultWalk s ag (if acc = .fetch then va else sluiceFor s ag va))

/-- Load n bytes. -/
def loadMem (s : State) (ag : Agent) (va n : Nat) : R (List Byte) :=
  match s.ansOf ag with
  | some a => (endAns s a).bytes n
  | none =>
  match resolve s ag .load va n with
  | .error c => failed s ag .load va c
  | .ok (t, s) =>
    if ag.seq && watchHit s ag.part .load va n then .trap 0x0F s else
    match t with
    | .near p =>
      if poisoned s p.key n then .trap 0x0C s else .ok (readPlace s p n) (cacheRead s ag p n)
    | .far dev pa kind => (farAccess s ag dev pa kind n 0 0 8 0 0 []).bytes n

/-- One store of the context as a fetch of the line at a key may miss it (R78): `a` holds the bytes so far, the places at which
every later store of the context has been missed, and the state. What another store has replaced is not brought back, and a
store of the whole line is seen whole or not at all. -/
def missStore (key : Nat) (x : Nat × List Byte × List Byte) (a : List Byte × List Nat × State) : List Byte × List Nat × State :=
  let at_ := fun (l : List Byte) i => if x.1 ≤ key + i then l[key + i - x.1]? else none
  let hit := fun i => a.2.1.contains i && (at_ x.2.2 i).isSome && at_ x.2.2 i == a.1[i]?
  if !((List.range 64).any hit) then (a.1, a.2.1.filter fun i => (at_ x.2.2 i).isNone, a.2.2)
  else
    let v := a.2.2.freeVal
    let missed := fun i => hit i && v.getLsbD (if x.1 = key && x.2.1.length = 64 then 0 else i)
    ((List.range a.1.length).map fun i => (if missed i then at_ x.2.1 i else a.1[i]?).getD 0,
     a.2.1.filter fun i => (at_ x.2.2 i).isNone || missed i, a.2.2.useFree 1)

/-- A line as a context fetches it: a free value says which of the context's own stores since its last `fence.full` the fetch
sees (R78). -/
def fetchedLine (s : State) (key : Nat) (bs : List Byte) : List Byte × State :=
  let r := s.c.unseen.foldl (fun a x => missStore key x a) (bs, List.range 64, s)
  (r.1, r.2.2)

/-- Store bytes. A block in SWITCH answers busy, and the hardware tries again (R233, R234). -/
def storeMem (s : State) (ag : Agent) (va : Nat) (bs : List Byte) : R Unit :=
  match s.ansOf ag with
  | some a => (endAns s a).unit
  | none =>
  match resolve s ag .store va bs.length with
  | .error c => failed s ag .store va c
  | .ok (t, s) =>
    if ag.seq && watchHit s ag.part .store va bs.length then .trap 0x0F s else
    match t with
    | .near p =>
      if p.pa.any (switching s) then .hold s
      else
        let t := noteUnseen s (writePlace s ag p bs) ag p.key bs.length
        .ok () (if p.kind = 0 then settleMine t else t)
    | .far dev pa kind => (farAccess s ag dev pa kind bs.length 1 0 8 0 0 bs).unit

/-- Perform an atomic; the old value (R117, R118, R178). -/
def atomicMem (s : State) (ag : Agent) (va fn ty b e : Nat) : R Nat :=
  let n := tyWidth ty / 8
  match s.ansOf ag with
  | some a => endAns s { a with val := a.val % 2 ^ tyWidth ty }
  | none =>
  match resolve s ag .atomic va n with
  | .error c => failed s ag .atomic va c
  | .ok (t, s) =>
    if ag.seq && watchHit s ag.part .atomic va n then .trap 0x0F s else
    match t with
    | .near p =>
      if isLane p.key then .trap 0x0D s
      else if isHost p.key then (if hostAtomic fn ty then hostAccess s p fn ty b e else .trap 0x0D s)
      else if poisoned s p.key n then .trap 0x0C s
      else if p.pa.any (switching s) then .hold s
      else
        let r := atomicPlace s ag p fn ty b e
        let t := noteUnseen s r.2 ag p.key n
        .ok r.1 (if p.kind = 0 then settleMine t else t)
    | .far dev pa kind => farAccess s ag dev pa kind n 2 fn ty b e []

/-- Fetch a line of 64 bytes (R77, R90). A poisoned line traps with cause 0x0C (log 15). -/
def fetchMem (s : State) (ag : Agent) (va : Nat) : R (List Byte) :=
  match s.ansOf ag with
  | some a => (endAns s a).bytes 64
  | none =>
  match resolve s ag .fetch va 64 with
  | .error c => failed s ag .fetch va c
  | .ok (t, s) =>
    match t with
    | .near p =>
      if poisoned s p.key 64 then .trap 0x0C s
      else
        let r := fetchedLine s p.key (readPlace s p 64)
        .ok r.1 (cacheRead r.2 { ag with seq := false } p 64)
    | .far dev pa kind =>
      match farAccess s ag dev pa kind 64 0 0 8 0 0 [] with
      | .ok v s =>
        let r := if dev = s.dev then fetchedLine s (hbmKey s pa) (leBytes 64 v) else (leBytes 64 v, s)
        .ok r.1 r.2
      | .trap c s => .trap c s
      | .hold s => .hold s

/-- Bytes as words, eight to a word, and back. -/
def toWords : List Byte → List Word
  | b0 :: b1 :: b2 :: b3 :: b4 :: b5 :: b6 :: b7 :: t => wd (leNat [b0, b1, b2, b3, b4, b5, b6, b7]) :: toWords t
  | _ => []
def ofWords (l : List Word) : List Byte := l.flatMap fun w => leBytes 8 w.toNat

/-- Record how far a held instruction has come: the next item and the words gathered. -/
def holdAt (s : State) (elem : Nat) (aux : List Word) : State :=
  let h := s.c.hold.getD { stamp := s.now }
  { s with c := { s.c with hold := some { h with elem := elem, aux := aux } } }

/-- Read lines of 64 bytes from line i, one access each; a held instruction goes on where it stopped. The hold names
the line at which the reading stopped. -/
def loadLinesFrom (s : State) (ag : Agent) (va : Nat) (got : List Byte) (i : Nat) : Nat → R (List Byte)
  | 0 => .ok got s
  | n + 1 =>
    match loadMem s ag (va + 64 * i) 64 with
    | .trap c s => .trap c (holdAt s i (toWords got))
    | .hold s => .hold (holdAt s i (toWords got))
    | .ok bs s => loadLinesFrom s ag va (got ++ bs) (i + 1) n

/-- Read n lines of 64 bytes for the running context. -/
def loadLines (s : State) (ag : Agent) (va n : Nat) : R (List Byte) :=
  match s.c.hold with
  | none => loadLinesFrom s ag va [] 0 n
  | some h => loadLinesFrom s ag va (ofWords h.aux) h.elem (n - h.elem)

end Sys2Proof.Machine
end

