-- ==== Sys2Proof/Machine/Homes.lean ====
section
/-! DEFINITION. The homes of meetings, barriers, locks, circular buffers and chains (R52, R55 to R68, R152 to R168):
messages to them, their answers, and what each operation does there. -/
namespace Sys2Proof.Machine

/-! ## Status codes (R49) -/

def wsMET : Nat := 0
def wsABSENT : Nat := 1
def wsLATE : Nat := 2
def wsABANDONED : Nat := 3
def wsHOLE : Nat := 4
def wsNOVERDICT : Nat := 5
def wsOVERFLOW : Nat := 6
def wsGONE : Nat := 7

/-- The bound of a scope (R52): 0 core, 1 cluster, 2 die, 3 package, 4 fabric. -/
def boundOf (s : State) (scope : Nat) : Nat :=
  let f := fun lo w => (s.tgb.extractLsb' lo w).toNat
  match scope with
  | 0 => f 0 4 | 1 => f 4 4 | 2 => f 8 4 | 3 => f 12 4
  | _ => f 16 4 + f 20 4 * f 24 8

/-- Whether the tick is not synchronised (R45). -/
def State.uns (s : State) : Bool := s.tgb.getLsbD 32

/-- Whether a stop of a partition has reached its stop moment (R427, R428). -/
def stopMoment (s : State) (p : Nat) : Bool := (s.part p).stop.any fun t => decide (t.stamp < s.now)

/-- Whether a partition is LIVE and its stop moment has not come; partition 0 always is (log 4). -/
def beforeStopMoment (s : State) (p : Nat) : Bool := p == 0 || ((s.part p).st == .live && !stopMoment s p)

/-- Whether a partition has live homes: LIVE, with no stop begun (R428). Partition 0 always has (log 4). -/
def partLive (s : State) (p : Nat) : Bool := p == 0 || ((s.part p).st == .live && (s.part p).stop.isNone)

/-! ## What came before a stop moment (R428) -/

/-- The partition that a virtual function serves (R485). -/
def vfPart (vf : Nat) : Option Nat := if 1 ≤ vf ∧ vf ≤ 64 then some (vf - 1) else none

/-- Whether a step that waits for a later tick is a request to a partition's memory. -/
def asksOf (p : Nat) : Instr → Bool
  | .hostMemoryRequest vf _ _ _ _ => vfPart vf == some p
  | .fabricRequest f => f.dpart.toNat == p
  | _ => false

/-- Whether a request came before its partition's stop moment and has still to be performed (R428). -/
def isDue (s : State) (p : Nat) (i : Instr) : Bool := (s.part p).stop.any fun t => t.due.contains i

/-- Such a request is taken up. -/
def takeDue (s : State) (p : Nat) (i : Instr) : State :=
  if isDue s p i then s.setPart p fun x => { x with stop := x.stop.map fun t => { t with due := t.due.erase i } } else s

/-- At a stop moment, and after it, what waits for a partition has come before it (R428). -/
def keepDue (s : State) : State :=
  if s.later.isEmpty then s else
  (List.range 64).foldl (fun s p => if stopMoment s p then
      s.setPart p fun x => { x with stop := x.stop.map fun t => { t with due := s.later.filter (asksOf p) } }
    else s) s

/-- Whether nothing that came before a partition's stop moment still waits, in a queue or for a block's migration (R427). -/
def dueDone (s : State) (p : Nat) : Bool :=
  (s.part p).stop.all (fun t => t.due.isEmpty) && !(s.later.any (asksOf p)) &&
    !(s.migrs.any fun m => m.waiting.any fun x => ownerOf s (x.1 / 2 ^ 21) == p)

/-! ## Messages and answers in flight (R52) -/

/-- The latency of the next message, at most its bound (log 1). -/
def takeLat (s : State) (b : Nat) : Nat × State :=
  match s.lat with
  | [] => (0, s)
  | n :: t => (min n b, { s with lat := t })

/-- Send a request to a home on this device. Requests of one context to one home keep their order, each within its own bound:
one that is to come within b brings those before it along. -/
def sendHome (s : State) (b : Nat) (who : Who) (die : Nat) (obj : Obj) (req : Req) : State :=
  let r := takeLat s b
  let m : Msg := { who := who, die := die, arrive := s.now + r.1, obj := obj, req := req }
  let last := (r.2.msgs.filter (sameWay m)).foldl (fun a x => max a x.arrive) 0
  let at_ := min (max m.arrive last) (s.now + b)
  let before := r.2.msgs.map fun x => if sameWay m x then { x with arrive := min x.arrive at_ } else x
  { r.2 with msgs := before ++ [{ m with arrive := at_ }] }

/-- Answer a party: through `answers` on this device, else through the fabric. -/
def answerWith (s : State) (b : Nat) (who : Who) (code : Nat) (r1 r2 : Word) (gen : Nat) (pres : Word) : State :=
  let a := fun at_ => ({ ctx := who.id, stamp := who.stamp, arrive := at_, code := code, r1 := r1, r2 := r2, trap := none,
                         gen := gen, pres := pres } : Ans)
  if who.dev = s.dev then
    let r := takeLat s b
    { r.2 with answers := r.2.answers ++ [a (s.now + r.1)] }
  else meetingSay s who (.ans who { a s.now with tag := who.hdr.tag })

/-- Answer a party with a code and two results. -/
def answer (s : State) (b : Nat) (who : Who) (code : Nat) (r1 r2 : Word) : State := answerWith s b who code r1 r2 0 0

/-- Answer a party with the permission trap of an unbound object (R160). -/
def answerTrap (s : State) (who : Who) (n : Nat) : State :=
  let a : Ans := { ctx := who.id, stamp := who.stamp, arrive := s.now, code := 0, r1 := 0, r2 := 0, trap := some (0x08, wd n) }
  if who.dev = s.dev then { s with answers := s.answers ++ [a] } else meetingSay s who (.ans who { a with tag := who.hdr.tag })

/-- Acknowledge a held party with DL and GRACE (R68): its wait ends at `lim` at the latest. -/
def ackWait (s : State) (who : Who) (dl grace lim : Nat) : State :=
  if who.dev = s.dev then
    s.withParty who.id fun c =>
      { c with wait := c.wait.map fun w => if w.stamp = who.stamp then { w with limit := some lim } else w }
  else meetingSay s who (.ack who dl grace)

/-! ## Records in memory -/

/-- Write bytes of one 128-byte sector at a physical address, through its home slice (R188). -/
def pokePhys (s : State) (pa : Nat) (bs : List Byte) : State :=
  if pa < hbmEnd then writePlace s (engineAgent (ownerOf s (pa / 2 ^ 21))) (homePlace s pa 1) bs
  else shootLines s { s with mem := setCells s.mem pa bs } engineId pa bs.length

/-- Write bytes of one 128-byte sector at a physical address, past the caches (R450). -/
def pastCaches (s : State) (pa : Nat) (bs : List Byte) : State :=
  if pa < hbmEnd then
    let s := uncache s (pa / 128)
    unpoison (shootLines s (pokeHbm s pa bs) engineId pa bs.length) (hbmKey s pa) bs.length
  else shootLines s { s with mem := setCells s.mem pa bs } engineId pa bs.length

/-! ## Meetings and barriers (R55, R57, R61) -/

/-- The live meeting of an object. -/
def meetOf (s : State) (o : Obj) : Option Meet := s.meets.find? fun m => m.obj == o

/-- Replace a meeting. -/
def setMeet (s : State) (m : Meet) : State := { s with meets := updFirst (fun x => x.obj == m.obj) (fun _ => m) s.meets }

/-- The bytes of a meeting record (R55). -/
def meetBytes (dev die : Nat) (m : Meet) : List Byte :=
  leBytes 8 m.memb.toNat ++ leBytes 8 m.arr.toNat ++ leBytes 8 m.joined.toNat ++ leBytes 8 m.labs.toNat ++
  leBytes 8 m.ljoin.toNat ++ leBytes 8 m.dl ++ leBytes 4 m.gen.toNat ++ leBytes 2 m.grace ++
  leBytes 1 (128 + m.dlv.toNat * 64 + m.scope) ++ [0] ++ leBytes 2 dev ++ leBytes 1 die ++ List.replicate 5 0

/-- Write a meeting's record; a group and a barrier have none in memory. -/
def writeMeet (s : State) (m : Meet) : State :=
  match m.obj with
  | .meet pa => pokePhys s pa (meetBytes s.dev m.die m)
  | _ => s

/-- Headgate entries that the partitions satisfying `p` hold on a die (R56); a barrier takes none (R61). -/
def entriesOf (s : State) (p : Nat → Bool) (die : Nat) : Nat :=
  (s.meets.filter fun m => p m.part && m.die == die && (match m.obj with | .barrier _ _ => false | _ => true)).length +
  (s.locks.filter fun l => p l.part && l.die == die).length

/-- Headgate entries that a partition holds on a die (R56). -/
def entriesUsed (s : State) (part die : Nat) : Nat := entriesOf s (· == part) die

/-- The table entries of one Headgate (R56). -/
def numEntries : Nat := 8192

/-- Whether a partition may take another entry on a die: within its allotment and the Headgate's table (R56). -/
def entryFree (s : State) (part die : Nat) : Bool :=
  decide (entriesUsed s part die < (s.part part).hga) && decide (entriesOf s (fun _ => true) die < numEntries)

/-- A fresh generation-0 meeting (R57). DESIGN CHOICE (log 54): a `mt.init` of a live meeting drops the verdicts kept
for its parties as well. -/
def freshMeet (o : Obj) (part die : Nat) (memb : Word) (grace scope : Nat) (digest : BitVec 64) : Meet :=
  { obj := o, part := part, die := die, memb := memb, arr := 0, joined := 0, labs := 0, ljoin := 0, dl := 0, dlv := false,
    gen := 0, grace := grace, scope := scope, digest := digest, held := [], waits := [], kept := [] }

/-- Answer every waiting party of a meeting with one code and all ones; of a party that was given up, its reducer hears it
(R367). -/
def abortMeet (s : State) (m : Meet) (code : Nat) : State :=
  m.waits.foldl (fun s w => answer s (boundOf s m.scope) w.who code ones ones) s

/-- The verdict of one held party at a close: on-time parties MET or ABSENT, late parties LATE (R57, R14). -/
def verdictOf (m : Meet) (late : Bool) : Nat × Word × Word :=
  if late then (wsLATE, m.labs, (m.gen - 1).setWidth 64)
  else (if m.labs = 0 then wsMET else wsABSENT, m.labs, m.ljoin)

/-- Give a party its verdict: to its waiters, or kept for it (R154). -/
def givePartyVerdict (s : State) (m : Meet) (party : Nat) (v : Nat × Word × Word) : State × Meet :=
  let ws := m.waits.filter fun w => w.party == party
  let kept := m.kept.filter fun k => k.party != party
  if ws.isEmpty then (s, { m with kept := kept ++ [{ party := party, code := v.1, r1 := v.2.1, r2 := v.2.2 }] })
  else (ws.foldl (fun s w => answerWith s (boundOf s m.scope) w.who v.1 v.2.1 v.2.2 m.gen.toNat m.memb) s,
        { m with kept := kept, waits := m.waits.filter fun w => w.party != party })

/-- Close a generation (R57): the five steps of a close. A barrier whose membership is then empty is not live (R152). -/
def closeMeet (s : State) (m : Meet) : State :=
  let absent := m.memb &&& ~~~m.arr
  let held := m.held
  let m := { m with labs := absent, ljoin := m.joined, memb := m.memb &&& ~~~absent, arr := 0, joined := 0, dlv := false,
                    gen := m.gen + 1, held := [] }
  let s := writeMeet s m
  let r := held.foldl (fun (x : State × Meet) h => givePartyVerdict x.1 x.2 h.1 (verdictOf x.2 h.2)) (s, m)
  match r.2.obj with
  | .barrier _ _ => if r.2.memb = 0 then { r.1 with meets := r.1.meets.filter fun x => x.obj != r.2.obj } else setMeet r.1 r.2
  | _ => setMeet r.1 r.2

/-- The scope that a party's place gives an object on a die (R156). -/
def partyScope (s : State) (who : Who) (die : Nat) : Nat :=
  if who.dev ≠ s.dev then 4 else if dieOfCore who.core = die then 2 else 3

/-- The bound within which a home answers about a meeting that is not live (R57): that of the fabric for a group's, of the
core for a barrier, and of the caller's place for the others. -/
def missingBound (s : State) (o : Obj) (who : Who) (die : Nat) : Nat :=
  match o with
  | .group _ _ => boundOf s 4
  | .barrier _ _ => boundOf s 0
  | _ => boundOf s (partyScope s who die)

/-- Whether an arrival or a join of this object is due in this cycle, which R59 takes before a close. -/
def closeHeld (s : State) (o : Obj) : Bool :=
  s.msgs.any fun m => m.obj == o && decide (m.arrive ≤ s.now) &&
    (match m.req with | .mtJoin _ _ => true | .mtArrive _ _ _ _ => true | _ => false)

/-- Close a generation at which every member has arrived, unless an arrival or a join comes first (R57,
R59). -/
def closeIfFull (s : State) (o : Obj) : State :=
  match meetOf s o with
  | none => s
  | some m => if m.dlv && m.arr == m.memb && !closeHeld s o then closeMeet s m else s

/-- What a home answers for an object it does not hold (R19, R56): GONE for a partition that is not live. -/
def missingCode (s : State) (who : Who) : Nat :=
  if who.dev ≠ s.dev && !partLive s who.part then wsGONE else wsNOVERDICT

/-- `mt.init` at the home (R56, R57). -/
def homeInit (s : State) (m : Msg) (die : Nat) (memb : Word) (grace scope : Nat) : State :=
  let b := boundOf s scope
  if m.who.dev ≠ s.dev && !partLive s m.who.part then answer s b m.who wsGONE ones 0 else
  let new := freshMeet m.obj m.who.part die memb grace scope 0
  match meetOf s m.obj with
  | some old => answer (writeMeet (setMeet (abortMeet s old wsNOVERDICT) new) new) b m.who wsMET 0 0
  | none =>
    if !entryFree s m.who.part die then answer s b m.who wsOVERFLOW 0 0
    else answer (writeMeet { s with meets := s.meets ++ [new] } new) b m.who wsMET 0 0

/-- Whether an object is a group's meeting. -/
def isGroup : Obj → Bool
  | .group _ _ => true
  | _ => false

/-- Collect a party's verdict (R154). A held wait is acknowledged, and R68 bounds it: an `mld.red` as an arrival, every
other as a wait. -/
def collect (s : State) (m : Meet) (who : Who) (party u : Nat) : State :=
  let b := boundOf s m.scope
  match m.kept.find? (fun k => k.party == party) with
  | some k => answer (setMeet s { m with kept := m.kept.filter fun x => x.party != party }) b who k.code k.r1 k.r2
  | none =>
    if m.held.any fun h => h.1 == party then
      let u := max u who.stamp
      ackWait (setMeet s { m with waits := m.waits ++ [{ who := who, party := party, u := u }] }) who m.dl m.grace
        ((if isGroup m.obj then m.dl else min u m.dl) + m.grace + 2 ^ 16)
    else answer s b who wsNOVERDICT ones ones

/-- Take an arrival into a live meeting (R57, R15). -/
def takeArrival (s : State) (m : Meet) (who : Who) (party u : Nat) : State × Meet :=
  let bit : Word := 1#64 <<< party
  let m := { m with kept := m.kept.filter fun k => k.party != party }
  if m.memb &&& bit = 0 then
    givePartyVerdict s m party (wsLATE, m.labs ||| bit, (m.gen - 1).setWidth 64)
  else
    let m := if m.dlv then m else { m with dl := max u who.stamp, dlv := true }
    if m.held.any fun h => h.1 == party then (s, m)
    else if who.stamp ≤ m.dl then (s, { m with arr := m.arr ||| bit, held := m.held ++ [(party, false)] })
    else (s, { m with held := m.held ++ [(party, true)] })

/-- A barrier that is not live becomes live at an arrival or a join (R152). -/
def wakeBarrier (s : State) (o : Obj) (who : Who) (memb : Word) : State :=
  match o, meetOf s o with
  | .barrier core _, none => { s with meets := s.meets ++ [freshMeet o who.part (dieOfCore core) memb 0 0 0] }
  | _, _ => s

/-- Whether a digest agrees with the home's (R397); a barrier has none. -/
def digestOk (m : Meet) (digest : BitVec 64) : Bool :=
  match m.obj with
  | .barrier _ _ => true
  | _ => m.digest == digest

/-- Acknowledge the arrival of another device's `mt.arr`, which does not wait (R68). -/
def ackArrival (s : State) (m : Meet) (who : Who) : State :=
  if who.dev = s.dev then s else meetingSay s who (.ack who m.dl m.grace)

/-- An arrival at the home (R57, R153, R365): of `mt.arr`, or of an instruction that waits as well. -/
def homeArrive (s : State) (o : Obj) (who : Who) (die party u : Nat) (sync : Bool) (digest : BitVec 64) : State :=
  let s := wakeBarrier s o who digest
  match meetOf s o with
  | none => if sync then answer s (missingBound s o who die) who (missingCode s who) ones ones else s
  | some m =>
    if !digestOk m digest then
      closeIfFull (if sync then answer s (boundOf s m.scope) who wsNOVERDICT ones ones else s) o
    else
      let r := takeArrival s m who party u
      let s := setMeet r.1 r.2
      closeIfFull (if sync then collect s r.2 who party u else ackArrival s r.2 who) o

/-- `mt.wait` at the home. -/
def homeWait (s : State) (o : Obj) (who : Who) (die party u : Nat) : State :=
  match meetOf s o with
  | none => answer s (missingBound s o who die) who (missingCode s who) ones ones
  | some m => collect s m who party u

/-- `mt.join` at the home (R18, R57, R397). -/
def homeJoin (s : State) (o : Obj) (who : Who) (die party : Nat) (digest : BitVec 64) : State :=
  let bit : Word := 1#64 <<< party
  let s := wakeBarrier s o who bit
  match meetOf s o with
  | none => answer s (missingBound s o who die) who (missingCode s who) ones ones
  | some m =>
    let b := boundOf s m.scope
    if !digestOk m digest then closeIfFull (answer s b who wsNOVERDICT ones ones) o else
    let m' := if m.memb &&& bit = 0 then { m with memb := m.memb ||| bit, joined := m.joined ||| bit } else m
    closeIfFull (answer (setMeet s m') b who wsMET (m.gen.setWidth 64) 0) o

/-- The home gives up on a waiting party (R154): ABSENT, all ones and 0; a later verdict is kept. A group's waiter
stays, for its reducer (R366). -/
def homeGiveUp (s : State) (o : Obj) (who : Who) : State :=
  match meetOf s o with
  | none => s
  | some m =>
    if m.waits.any fun w => w.who == who && !w.gave then
      let ws := if isGroup o then m.waits.map fun w => if w.who = who then { w with gave := true } else w
        else m.waits.filter fun w => w.who != who
      answer (setMeet s { m with waits := ws }) (boundOf s m.scope) who wsABSENT ones 0
    else s

/-! ## Seats assigned anew (R25, R152) -/

/-- Whether a barrier is one of these positions of a core. -/
def barrierAt (core pos size : Nat) (m : Meet) : Bool :=
  match m.obj with
  | .barrier c n => c == core && decide (12 * pos ≤ n) && decide (n < 12 * (pos + size))
  | _ => false

/-- Assign a seat anew: beats lent from its positions return (R25), its barriers are not live (R152), and it has its
after-reset values; its L1 ways are invalidated (R184). -/
def assignSeat (s : State) (core pos size lgk p : Nat) : State :=
  let mine := fun (t : Seat) => t.core == core && t.pos == pos
  let back := fun (t : Seat) =>
    { t with lent := t.lent.filter fun y => !(t.core == core && decide (pos ≤ y) && decide (y < pos + size)) }
  let s := emptyWays s core pos size false
  { s with seats := (s.seats.filter fun t => !mine t).map back ++ [Seat.start core pos size lgk p]
           meets := s.meets.filter fun m => !barrierAt core pos size m }

/-! ## Locks (R62 to R64) -/

/-- The entry of a lock. -/
def lockOf (s : State) (pa : Nat) : Option Lock := s.locks.find? fun l => l.pa == pa

/-- Replace a lock. -/
def setLock (s : State) (l : Lock) : State := { s with locks := updFirst (fun x => x.pa == l.pa) (fun _ => l) s.locks }

/-- The bytes of a lock record (R62). -/
def lockBytes (l : Lock) (live : Bool) : List Byte :=
  let w0 := match l.holder with
    | some h => 2 ^ 63 + h.dev * 2 ^ 16 + h.core % 64 * 2 ^ 10 + h.slot * 64
    | none => 0
  leBytes 8 w0 ++ leBytes 8 l.hdl ++ leBytes 8 l.abdl ++ leBytes 1 (l.abn.toNat * 128 + live.toNat * 64) ++
    List.replicate 39 0

/-- Write a lock's record. -/
def writeLock (s : State) (l : Lock) (live : Bool) : State := pokePhys s l.pa (lockBytes l live)

/-- The same party (a context of a device). -/
def sameParty (a b : Who) : Bool := a.dev == b.dev && a.id == b.id

/-- Give the entry of a lock back when it is free, unmarked and without waiters (R56). -/
def dropIfIdle (s : State) (pa : Nat) : State :=
  match lockOf s pa with
  | none => s
  | some l =>
    if l.holder.isNone && !l.abn && l.queue.isEmpty then
      writeLock { s with locks := s.locks.filter fun x => x.pa != pa } l false
    else s

/-- Grant a free lock to its waiters in order (R63, R11): one whose hold deadline has come is answered LATE. -/
def grantLock (s : State) (pa : Nat) : Nat → State
  | 0 => s
  | n + 1 =>
    match lockOf s pa with
    | none => s
    | some l =>
      match l.holder, l.queue with
      | none, w :: q =>
        if w.hdl ≤ s.now then
          grantLock (answer (setLock s { l with queue := q }) w.b w.who wsLATE (wd w.hdl) 0) pa n
        else
          let l' := { l with holder := some w.who, hdl := w.hdl, queue := q }
          let s := writeLock (setLock s l') l' true
          if l.abn then answer s w.b w.who wsABANDONED (wd l.abdl) 0 else answer s w.b w.who wsMET 0 0
      | _, _ => s

/-- Grant what can be granted and give an idle entry back. -/
def settleLock (s : State) (pa : Nat) : State :=
  let n := ((lockOf s pa).map fun l => l.queue.length).getD 0
  dropIfIdle (grantLock s pa n) pa

/-- `lk.acq` at the home (R56, R63). `b` is the bound of the acquirer's scope. DESIGN CHOICE (log 54): a lock without an
entry is free and unmarked whatever its record holds in memory, and a poll waits to its stamp + b. -/
def homeAcquire (s : State) (pa die : Nat) (who : Who) (hdl u b : Nat) : State :=
  if who.dev ≠ s.dev && !partLive s who.part then answer s b who wsGONE ones 0 else
  let w : LkWaiter := { who := who, hdl := hdl, u := max u who.stamp, b := b }
  match lockOf s pa with
  | none =>
    if !entryFree s who.part die then answer s b who wsOVERFLOW 0 0
    else settleLock { s with locks := s.locks ++ [{ pa := pa, part := who.part, die := die, holder := none, hdl := 0,
                                                    abdl := 0, abn := false, queue := [w] }] } pa
  | some l =>
    if l.holder.any (sameParty who) then
      if hdl ≤ s.now then answer s b who wsLATE (wd hdl) 0
      else
        let l' := { l with hdl := hdl }
        let s := writeLock (setLock s l') l' true
        if l.abn then answer s b who wsABANDONED (wd l.abdl) 0 else answer s b who wsMET 0 0
    else settleLock (setLock s { l with queue := l.queue ++ [w] }) pa

/-- The lock that a party holds, in time (R64). DESIGN CHOICE (log 54): an `lk.mend` after tick HDL comes too late, as a
release does. -/
def heldBy (s : State) (pa : Nat) (who : Who) : Option Lock :=
  (lockOf s pa).filter fun l => l.holder.any (sameParty who) && decide (s.now ≤ l.hdl)

/-- What a lock answers to a party that does not hold it (R17). -/
def notHeldCode (s : State) (pa : Nat) (who : Who) : Nat :=
  if (lockOf s pa).isNone && who.dev ≠ s.dev && !partLive s who.part then wsGONE else wsABANDONED

/-- `lk.rel` at the home (R16, R17). -/
def homeRelease (s : State) (pa : Nat) (who : Who) (b : Nat) : State :=
  match heldBy s pa who with
  | none => answer s b who (notHeldCode s pa who) 0 0
  | some l =>
    let l' := { l with holder := none }
    settleLock (answer (writeLock (setLock s l') l' true) b who wsMET 0 0) pa

/-- `lk.mend` at the home (R16). -/
def homeMend (s : State) (pa : Nat) (who : Who) (b : Nat) : State :=
  match heldBy s pa who with
  | none => answer s b who (notHeldCode s pa who) 0 0
  | some l =>
    let l' := { l with abn := false }
    answer (writeLock (setLock s l') l' true) b who wsMET 0 0

/-- A hold lapses (R64, R12). -/
def homeLapse (s : State) (pa : Nat) : State :=
  match lockOf s pa with
  | none => s
  | some l =>
    if l.holder.isSome && decide (l.hdl < s.now) then
      let l' := { l with holder := none, abn := true, abdl := l.hdl }
      settleLock (writeLock (setLock s l') l' true) pa
    else s

/-- An acquirer is answered ABSENT with the holder's hold deadline (R50, R63). -/
def homeAcqTimeout (s : State) (pa : Nat) (who : Who) : State :=
  match lockOf s pa with
  | none => s
  | some l =>
    match l.queue.find? (fun w => w.who == who) with
    | none => s
    | some w =>
      dropIfIdle (answer (setLock s { l with queue := l.queue.filter fun x => x.who != who }) w.b who wsABSENT (wd l.hdl) 0) pa

/-! ## Circular buffers (R157, R161 to R167) -/

/-- The binding of a buffer. -/
def bufOf (s : State) (part n : Nat) : Option Buf := s.bufs.find? fun b => b.part == part && b.n == n

/-- Replace a buffer. -/
def setBuf (s : State) (b : Buf) : State :=
  { s with bufs := updFirst (fun x => x.part == b.part && x.n == b.n) (fun _ => b) s.bufs }

/-- Free slots (R157). In a host buffer the host's count HPR stands for RSV (R167). -/
def bufFree (b : Buf) : Nat := b.cap - ((if b.host then b.hpr else b.rsv) - b.fre).toNat

/-- State of a slot. -/
def slotAt (b : Buf) (i : Nat) : SlotSt := b.slots.getD i .free

/-- Filled slots from a position on, at most n. -/
def filledFrom (b : Buf) (i : Nat) : Nat → Nat
  | 0 => 0
  | n + 1 => if slotAt b i = .filled then 1 + filledFrom b ((i + 1) % b.cap) n else 0

/-- Filled slots ready at CON (R157, R167). -/
def bufFilled (b : Buf) : Nat := if b.host then (b.hpr - b.con).toNat else filledFrom b b.cpos b.cap

/-- Write the live fields of a record (R157); HPR is the host's. -/
def writeBuf (s : State) (b : Buf) : State :=
  let s := pokePhys s (b.pa + 16) (leBytes 4 b.rsv.toNat ++ leBytes 4 b.fre.toNat ++ leBytes 4 b.con.toNat)
  pokePhys s (b.pa + 32) (leBytes 2 b.rpos ++ leBytes 2 b.fpos ++ leBytes 2 b.cpos)

/-- Reserve n slots with a deadline. -/
def reserveN (b : Buf) (dl : Nat) : Nat → Buf
  | 0 => b
  | n + 1 =>
    reserveN { b with slots := b.slots.set b.rpos (.reserved dl), rpos := (b.rpos + 1) % b.cap, rsv := b.rsv + 1 } dl n

/-- Take the next slot for a consumer. -/
def takeOne (b : Buf) : Buf :=
  { b with slots := b.slots.set b.cpos .taken, cpos := (b.cpos + 1) % b.cap, con := b.con + 1 }

/-- Take n slots for a consumer. -/
def takeN (b : Buf) : Nat → Buf
  | 0 => b
  | n + 1 => takeN (takeOne b) n

/-- Advance FRE over freed slots in order (R164). -/
def advanceFree (b : Buf) : Nat → Buf
  | 0 => b
  | n + 1 =>
    if slotAt b b.fpos = .freed then
      advanceFree { b with slots := b.slots.set b.fpos .free, fpos := (b.fpos + 1) % b.cap, fre := b.fre + 1 } n
    else b

/-- Free a taken slot (R164). -/
def freeSlot (b : Buf) (i : Nat) : Buf := advanceFree { b with slots := b.slots.set i .freed } b.cap

/-- Serve waiting claims strictly in order (R161): the buffer and the answers. -/
def serveClaims (b : Buf) : List CbWaiter → Buf × List (Who × Nat)
  | [] => ({ b with claims := [] }, [])
  | w :: t =>
    if w.n ≤ bufFree b then
      let r := serveClaims (reserveN b w.fill w.n) t
      (r.1, (w.who, b.rpos) :: r.2)
    else ({ b with claims := w :: t }, [])

/-- Whether the next slot for a consumer is filled, and whether it is a HOLE. -/
def nextFilled (b : Buf) : Bool := if b.host then b.hpr != b.con else slotAt b b.cpos == .filled
def nextHole (b : Buf) : Bool := !b.host && slotAt b b.cpos == .hole

/-- Pass the slots at CPOS that nobody filled, in a buffer that is bound to an expert: no consumer sees a HOLE in it (R417,
R424; log 60). -/
def skipHoles (b : Buf) : Nat → Buf
  | 0 => b
  | n + 1 => if b.expert.isSome && nextHole b then skipHoles (freeSlot (takeOne b) b.cpos) n else b

/-- Take slots for one receive, at most k more (R66, R163): the buffer, the receive, and its answer when it ends. -/
def serveRecv (b : Buf) (w : CbWaiter) : Nat → Buf × CbWaiter × Option (Nat × Nat × Nat)
  | 0 => (b, w, some (wsMET, w.first, w.got))
  | k + 1 =>
    let b := skipHoles b b.cap
    if nextFilled b then
      let w' := { w with first := if w.got = 0 then b.cpos else w.first, got := w.got + 1 }
      serveRecv (takeOne b) w' k
    else if nextHole b then
      if w.got = 0 then (takeOne b, w, some (wsHOLE, b.cpos, 1)) else (b, w, some (wsMET, w.first, w.got))
    else (b, w, none)

/-- Serve waiting receives strictly in order (R163). -/
def serveRecvs (b : Buf) : List CbWaiter → Buf × List (Who × Nat × Nat × Nat)
  | [] => ({ b with recvs := [] }, [])
  | w :: t =>
    match serveRecv b w (w.n - w.got) with
    | (b, _, some a) =>
      let r := serveRecvs b t
      (r.1, (w.who, a) :: r.2)
    | (b, w, none) => ({ b with recvs := w :: t }, [])

/-- Replace a buffer and write its record (R157). -/
def storeBuf (s : State) (b : Buf) : State := writeBuf (setBuf s b) b

/-- Whether a waiting claim or receive of a buffer can go on (R161, R163). -/
def canServe (b : Buf) : Bool :=
  (b.claims.head?.any fun w => decide (w.n ≤ bufFree b)) || (!b.recvs.isEmpty && (nextFilled b || nextHole b))

/-- Apply the grants that a change of a buffer makes possible, and write its record (R59, R166). -/
def settleBuf (s : State) (b : Buf) : State :=
  let bd := boundOf s b.scope
  let c := serveClaims b b.claims
  let r := serveRecvs c.1 c.1.recvs
  let s := storeBuf s r.1
  let s := c.2.foldl (fun s a => answer s bd a.1 wsMET (wd a.2) 0) s
  r.2.foldl (fun s a => answer s bd a.1 a.2.1 (wd a.2.2.1) (wd a.2.2.2)) s

/-- The grants of a cycle to waiting claims and receives, after its fills, frees and hole conversions (R59, R166). -/
def settleBufs (s : State) : State :=
  s.bufs.foldl (fun s b => if b.home = s.dev && canServe b then settleBuf s b else s) s

/-- Strike a slot from a list of a firing. -/
def strike (part n slot : Nat) (c : Ctx) : Ctx :=
  if c.part = part then
    { c with firing := c.firing.map fun f =>
        { f with ins := f.ins.filter fun x => x != (n, slot), outs := f.outs.filter fun x => x != (n, slot) } }
  else c

/-- A slot that is freed, filled or a HOLE is no firing's any more (R37): its `exit` leaves it alone. -/
def forgetSlot (s : State) (part n slot : Nat) : State :=
  { s with c := strike part n slot s.c, others := s.others.map (strike part n slot),
           saved := s.saved.map fun x => { x with ctx := strike part n slot x.ctx } }

/-- What a home answers about an object it does not hold: GONE, or the trap of R160. -/
def unboundAnswer (s : State) (who : Who) (n : Nat) : State :=
  if !partLive s who.part then answer s 0 who wsGONE ones ones else answerTrap s who n

/-- Whether the hardware holds a binding: an expert's or the event buffer's (R417, R458). -/
def bufHeld (b : Buf) : Bool := b.expert.isSome || b.events

/-- Whether the hardware or the host alone produces into a buffer (R167, R417, R458). -/
def Buf.closed (b : Buf) : Bool := b.host || bufHeld b

/-- `cb.claim` and the claim of `tcopy.cb` at the home (R161); a buffer that has become closed refuses it (R167). -/
def homeClaim (s : State) (part n : Nat) (who : Who) (cnt u fill : Nat) : State :=
  match bufOf s part n with
  | none => unboundAnswer s who n
  | some b =>
    if b.closed then answerTrap s who n
    else if b.cap < cnt then answer s (boundOf s b.scope) who wsOVERFLOW 0 0
    else settleBuf s { b with claims := b.claims ++
      [{ who := who, n := cnt, u := max u who.stamp, fill := fill, routed := false, got := 0, first := 0 }] }

/-- `cb.fill` at the home (R65, R162); the stamp decides. A buffer that has become closed refuses a program's fill (R167), and
one that is bound to an expert that of a copy (`copy`) as well (R417). -/
def homeFill (s : State) (part n : Nat) (who : Who) (slot : Nat) (copy : Bool) : State :=
  match bufOf s part n with
  | none => unboundAnswer s who n
  | some b =>
    if b.closed && (!copy || b.expert.isSome) then answerTrap s who n else
    let bd := boundOf s b.scope
    match slotAt b slot with
    | .reserved dl =>
      if slot < b.cap && who.stamp ≤ dl then
        storeBuf (answer (forgetSlot s part n slot) bd who wsMET 0 0) { b with slots := b.slots.set slot .filled }
      else answer s bd who wsLATE 0 0
    | _ => answer s bd who wsLATE 0 0

/-- Reread HPR of a host queue (R167). -/
def rereadHpr (s : State) (b : Buf) : Buf :=
  if b.host then { b with hpr := BitVec.ofNat 32 (peekN s (b.pa + 28) 4) } else b

/-- `recv` and `rt.recv` at the home (R163, R414). Slots up to HPR count as filled (R167): it is read as the receive comes. -/
def homeRecv (s : State) (part n : Nat) (who : Who) (cnt u : Nat) (routed : Bool) : State :=
  match bufOf s part n with
  | none => unboundAnswer s who n
  | some b =>
    if routed && b.expert.isNone then answerTrap s who n
    else if b.cap < cnt then answer s (boundOf s b.scope) who wsOVERFLOW (wd b.cpos) 0
    else settleBuf s { rereadHpr s b with recvs := b.recvs ++
      [{ who := who, n := cnt, u := max u who.stamp, fill := 0, routed := routed, got := 0, first := 0 }] }

/-- `cb.free` at the home (R164). -/
def homeFree (s : State) (part n : Nat) (who : Who) (slot : Nat) : State :=
  match bufOf s part n with
  | none => unboundAnswer s who n
  | some b =>
    let bd := boundOf s b.scope
    if decide (slot < b.cap) && slotAt b slot == .taken then
      storeBuf (answer (forgetSlot s part n slot) bd who wsMET 0 0) (freeSlot b slot)
    else answer s bd who wsABSENT 0 0

/-- Whether a firing's end makes a HOLE of a slot in this cycle (R37). -/
def holeAsked (s : State) (part n slot : Nat) : Bool := s.holes.contains (part, n, slot)

/-- A reserved slot whose time has passed, or whose firing has ended, becomes a HOLE (R37, R65). -/
def homeHole (s : State) (part n slot : Nat) : State :=
  let asked := holeAsked s part n slot
  let s := { s with holes := s.holes.filter fun x => x != (part, n, slot) }
  match bufOf s part n with
  | none => s
  | some b =>
    match slotAt b slot with
    | .reserved dl =>
      if slot < b.cap && (asked || decide (dl + boundOf s b.scope ≤ s.now)) then
        storeBuf (forgetSlot s part n slot) { b with slots := b.slots.set slot .hole }
      else s
    | _ => s

/-- A waiting claim ends ABSENT (R161); later claims may then be served. -/
def homeClaimTimeout (s : State) (part n : Nat) (who : Who) : State :=
  match bufOf s part n with
  | none => s
  | some b =>
    if b.claims.any fun w => w.who == who then
      let b' := { b with claims := b.claims.filter fun w => w.who != who }
      let s := answer s (boundOf s b.scope) who wsABSENT 0 0
      if b'.claims.any fun w => decide (w.u + boundOf s b.scope ≤ s.now) then setBuf s b' else settleBuf s b'
    else s

/-- A waiting receive reaches its deadline (R163): it rereads HPR, takes what it can, and ends ABSENT with the slots it
holds if it is still short. -/
def homeRecvTimeout (s : State) (part n : Nat) (who : Who) : State :=
  match bufOf s part n with
  | none => s
  | some b =>
    if b.recvs.any fun w => w.who == who then
      let s := settleBuf s (rereadHpr s b)
      match bufOf s part n with
      | none => s
      | some b =>
        match b.recvs.find? (fun w => w.who == who) with
        | none => s
        | some w =>
          let first := if w.got = 0 then b.cpos else w.first
          settleBuf (answer s (boundOf s b.scope) who wsABSENT (wd first) (wd w.got))
            { b with recvs := b.recvs.filter fun w => w.who != who }
    else s

/-! ## Expert bindings (R416, R418) -/

/-- Bind a buffer of this device to an expert: the result and the state. From then on the engine is its only producer: the
claims that wait there end with the permission trap (R417). -/
def bindExpert (s : State) (b : Buf) (e : Nat) : Nat × State :=
  let other := s.bufs.any fun x => x.part == b.part && x.n != b.n && x.expert == some e && x.home == s.dev
  if 255 < e then (1, s)
  else if b.lgsz < 10 || b.host then (2, s)
  else if other then (3, s)
  else if b.expert.any fun x => x != e then (4, s)
  else
    let s := b.claims.foldl (fun s w => answerTrap s w.who b.n) s
    (0, setBuf s { b with expert := some e, claims := [] })

/-- Remove a buffer's expert binding. -/
def unbindExpert (s : State) (b : Buf) : Nat × State :=
  if b.expert.isNone then (1, s)
  else if b.recvs.any CbWaiter.routed then (2, s)
  else (0, setBuf s { b with expert := none })

/-! ## Chains (R67, R168) -/

/-- The binding of a chain. -/
def chainOf (s : State) (part n : Nat) : Option Chain := s.chains.find? fun c => c.part == part && c.n == n

/-- Replace a chain. -/
def setChain (s : State) (c : Chain) : State :=
  { s with chains := updFirst (fun x => x.part == c.part && x.n == c.n) (fun _ => c) s.chains }

/-- `chain.pub` at the home (R168): H rises, and waiting reads that it serves are answered. -/
def homePub (s : State) (part n : Nat) (who : Who) (h : Nat) : State :=
  match chainOf s part n with
  | none => unboundAnswer s who n
  | some c =>
    let bd := boundOf s c.scope
    let h' := max c.h.toNat h
    let ok := fun (w : ChWaiter) => decide (w.full ≤ h' - w.es)
    let s := setChain s { c with h := wd h', waits := c.waits.filter fun w => !ok w }
    let s := answer (pokePhys s c.pa (leBytes 8 h')) bd who wsMET 0 0
    (c.waits.filter ok).foldl (fun s w => answer s bd w.who wsMET (wd h') 0) s

/-- A chained `vsetl` at the home (R67). -/
def homeChRead (s : State) (part n : Nat) (who : Who) (full es u : Nat) : State :=
  match chainOf s part n with
  | none => unboundAnswer s who n
  | some c =>
    if full ≤ c.h.toNat - es then answer s (boundOf s c.scope) who wsMET c.h 0
    else setChain s { c with waits := c.waits ++ [{ who := who, full := full, es := es, u := max u who.stamp }] }

/-- A waiting chained `vsetl` is answered with the last high-water mark (R67). -/
def homeChTimeout (s : State) (part n : Nat) (who : Who) : State :=
  match chainOf s part n with
  | none => s
  | some c =>
    if c.waits.any fun w => w.who == who then
      answer (setChain s { c with waits := c.waits.filter fun w => w.who != who }) (boundOf s c.scope) who wsABSENT c.h 0
    else s

/-! ## The event buffer c255 (R458) -/

/-- The bytes of an event record. -/
def evBytes (e : Ev) : List Byte :=
  leBytes 1 e.kind ++ leBytes 1 (min 255 e.lost) ++ [0, 0] ++ leBytes 4 e.seq ++ leBytes 8 e.tick ++ leBytes 8 e.who ++ leBytes 8 e.data

/-- Fill one waiting event of a partition into its event buffer, if it can be filled. -/
def fillEvent (s : State) (part : Nat) : Option State :=
  match (s.part part).evs, bufOf s part 255 with
  | e :: rest, some b =>
    if b.home ≠ s.dev || !b.events || bufFree b == 0 || b.host then none else
    match storeMem s (engineAgent part) (b.base + b.rpos * 2 ^ b.lgsz) (evBytes e) with
    | .ok _ s =>
      let s := s.setPart part fun x => { x with evs := rest }
      let b' := reserveN b 0 1
      some (storeBuf s { b' with slots := b'.slots.set b.rpos .filled })
    | _ => none
  | _, _ => none

/-- Fill the waiting events of a partition in order. -/
def fillEvents (s : State) (part : Nat) : Nat → State
  | 0 => s
  | n + 1 => match fillEvent s part with
    | none => s
    | some s' => fillEvents s' part n

/-- Ask for a slot for a partition's next event where the home of `c255` is another device: a claim, as a producer makes it. One
that has found no answer in 2^17 ticks is made again (log 13). -/
def askEvent (s : State) (part : Nat) : State :=
  let idle := (s.part part).evAsk.all fun t => decide (t + 2 ^ 17 ≤ s.now)
  match bufOf s part 255 with
  | some b =>
    if b.home = s.dev || !b.events || (s.part part).evs.isEmpty || !idle then s else
    let who : Who := { dev := s.dev, part := part, core := 0, pos := 0, slot := 0, id := eventId part, stamp := s.now }
    meetingAsk (s.setPart part fun x => { x with evAsk := some s.now }) b.home
      { who := who, die := b.die, arrive := s.now, obj := .buf part 255, req := .cbClaim 1 (s.now + 2 ^ 16) (s.now + 2 ^ 17) }
  | none => s

/-- The home of `c255` on another device has answered the claim: the record is stored in the slot and filled. -/
def eventAnswer (s : State) (part : Nat) (r : Ans) : State :=
  let s := s.setPart part fun x => { x with evAsk := none }
  match (s.part part).evs, bufOf s part 255 with
  | e :: rest, some b =>
    if r.code ≠ wsMET || r.trap.isSome || b.home = s.dev then s else
    match storeMem s (engineAgent part) (b.base + r.r1.toNat * 2 ^ b.lgsz) (evBytes e) with
    | .ok _ s =>
      let who : Who := { dev := s.dev, part := part, core := 0, pos := 0, slot := 0, id := eventId part, stamp := s.now }
      meetingAsk (s.setPart part fun x => { x with evs := rest }) b.home
        { who := who, die := b.die, arrive := s.now, obj := .buf part 255, req := .cbFill r.r1.toNat true }
    | _ => s
  | _, _ => s

/-- Of the events that could not be filled 64 wait; the others are dropped and counted in the next one's LOST (R458). -/
def dropEvents (s : State) (part : Nat) : State :=
  if (s.part part).evs.length ≤ 64 then s else
  s.setPart part fun x => { x with evs := x.evs.take 64, evLost := x.evLost + ((x.evs.drop 64).map fun e => e.lost + 1).sum }

/-- Fill the waiting events of every partition. -/
def flushEvents (s : State) : State :=
  (List.range 64).foldl (fun s p =>
    if (s.part p).evs.isEmpty then s else dropEvents (askEvent (fillEvents s p (s.part p).evs.length) p) p) s

end Sys2Proof.Machine
end

