-- ==== Sys2Proof/Machine/Ops.lean ====
section
/-! DEFINITION. What every instruction shares: the flow of control (R76, R77), entries and transfers (R88 to R90),
taking a trap (R437, R438), losing a context (R439), leaving a slot (R37), and the return of a trap (R133). -/
namespace Sys2Proof.Machine

/-- The result of an instruction or a device step. -/
abbrev Res := Host.Outcome State Fault Refusal

/-! ## Flow of control (R76, R77) -/

/-- Base of the line that an address lies in. -/
def lineBase (a : Nat) : Nat := a / 64 * 64

/-- Index of the head at an address in its line. -/
def headIdx (a : Nat) : Nat := a % 64 / 2

/-- Address of the head after the one the context stands at (R76). -/
def Ctx.nextPc (c : Ctx) : BitVec 56 :=
  match c.line with
  | some l => if headIdx c.pc.toNat + 1 < lineNH l.bytes then c.pc + 2 else BitVec.ofNat 56 (lineBase c.pc.toNat + 64)
  | none => BitVec.ofNat 56 (lineBase c.pc.toNat + 64)

/-- Whether the next head stands in the line that the context holds. -/
def Ctx.staysInLine (c : Ctx) : Bool :=
  match c.line with
  | some l => decide (headIdx c.pc.toNat + 1 < lineNH l.bytes)
  | none => false

/-- `es` at the first issue of the instruction at the pc (R443). -/
def Ctx.es0 (c : Ctx) : Word :=
  match c.resume with
  | some r => if r.active && r.pc == c.pc then r.es0 else c.es
  | none => c.es

/-- The end of an instruction that resumed from `es` (R443): `es` and `esk` return. -/
def Ctx.endResume (c : Ctx) : Ctx :=
  match c.resume with
  | some r => if r.active && r.pc == c.pc then { c with es := r.es0, esk := 0, resume := none } else c
  | none => c

/-- Major and FN of the head at the pc (R79 to R83). -/
def Ctx.op (c : Ctx) : Option (Nat × Nat) :=
  c.line.map fun l =>
    let i := headIdx c.pc.toNat
    let m := (bitsAt (lineHalf l.bytes i) 8 6).toNat
    let t := lineTail l.bytes i
    (m, match majorTL m with
      | some 1 => (bitsAt t 0 6).toNat
      | some 3 => (bitsAt t 26 4).toNat
      | _ => (bitsAt t 8 6).toNat)

/-- Whether an instruction enters the vector queue: majors 0x14 to 0x28, but for the reads of a stream register (R242),
`spw.drain`, `spw.mode` (R352), `tcopy` (R356) and `tc.halo` (R258). -/
def vecOp (o : Nat × Nat) : Bool :=
  (decide (0x14 ≤ o.1) && decide (o.1 ≤ 0x28) && !(o.1 == 0x1E && decide (3 ≤ o.2))) || (o.1 == 0x29 && decide (o.2 < 2)) ||
    o == (0x2C, 0) || o == (0x2E, 3)

/-- The progress entry of the instruction at the pc (R441); a handler's own instructions have none. -/
def Ctx.entry0 (c : Ctx) : Option Prog := if c.tst.getLsbD 2 then none else c.prog.find? fun e => e.ord == 0

/-- The end of a vector instruction: the progress entries of later ones come nearer (R441). -/
def Ctx.stepProg (c : Ctx) : Ctx :=
  if c.prog.isEmpty || c.tst.getLsbD 2 || !c.op.any vecOp then c
  else { c with prog := c.prog.filterMap fun e => if e.ord = 0 then none else some { e with ord := e.ord - 1 } }

/-- The context at the program point of an entry of its queue. -/
def VqEntry.at_ (e : VqEntry) (c : Ctx) : Ctx :=
  { c with pc := e.pc, line := e.line, s := e.s, avl := e.avl, vl := e.vl, vcfg := e.vcfg, hold := e.hold }

/-- A context without its queue, at the program point of its oldest entry, if it has one. -/
def Ctx.rollback (c : Ctx) : Ctx :=
  match c.vq with
  | [] => c
  | e :: _ => { e.at_ c with vq := [] }

/-- Whether a context stands part-way in an instruction of its queue. -/
def Ctx.headHeld (c : Ctx) : Bool := c.vq.head?.any fun e => e.hold.isSome

/-- Drop what belongs to one execution of the head at pc: a hold and a breakpoint exemption. -/
def Ctx.leaveHead (c : Ctx) : Ctx :=
  { c with hold := none, bpExempt := if c.bpExempt = some c.pc then none else c.bpExempt }

/-- Complete the instruction: go to the next head in flow. -/
def Ctx.adv (c : Ctx) : Ctx :=
  let c := c.endResume.stepProg
  { c.leaveHead with pc := c.nextPc, line := if c.staysInLine then c.line else none }

/-- Complete the running context's instruction. -/
def State.adv (s : State) : State := { s with c := s.c.adv }

/-! ## Leaving a slot (R37, R149) -/

/-- Free an input slot of a firing, or have an output slot turned into a HOLE (R37): the home does that in this cycle, after
the fills that reach it (R59). -/
def endSlot (s : State) (part n slot : Nat) (input : Bool) : State :=
  match bufOf s part n with
  | none => s
  | some b =>
    match input, slotAt b slot with
    | true, .taken => storeBuf s (freeSlot b slot)
    | false, .reserved _ => { s with holes := s.holes ++ [(part, n, slot)] }
    | _, _ => s

/-- Count a firing of a stage as ended. -/
def endFiring (s : State) (part g stage : Nat) : State :=
  let f := fun (x : Graph) => { x with stages := x.stages.modify stage fun t => { t with running := t.running - 1 } }
  { s with graphs := updFirst (fun x => x.part == part && x.g == g) f s.graphs }

/-- Detach every seat that is attached to a context (R149, R173). -/
def detachSeats (s : State) (id : Nat) : State :=
  { s with seats := s.seats.map fun t => if t.gangOf = some id then { t with gangOf := none } else t }

/-- What a firing's end does to its slots and stage (R37). -/
def closeFiring (s : State) (part : Nat) : Option Firing → State
  | none => s
  | some f =>
    let s := f.ins.foldl (fun s x => endSlot s part x.1 x.2 true) s
    let s := f.outs.foldl (fun s x => endSlot s part x.1 x.2 false) s
    endFiring s part f.graph f.stage

/-- The running context leaves its slot (R37, R439). -/
def leaveSlot (s : State) : State :=
  let s := closeFiring s s.c.part s.c.firing
  let s := detachSeats s s.c.id
  { s with c := { s.c with alive := false, wait := none, hold := none, firing := none, gang := [] } }

/-- Whether a cancelled copy leaves a binding's shadow incomplete (R214). -/
def tears (b : Bind) (x : Copy) : Bool :=
  x.part == b.part && x.slot.isSome &&
    (match x.kind with | .shadow base _ => base == b.base | .slot _ _ _ => false)

/-- Cancel the copies that satisfy a condition where they stand (R361). -/
def cancelWhere (s : State) (p : Copy → Bool) : State :=
  { s with copies := s.copies.filter fun x => !p x,
           binds := s.binds.map fun b => if s.copies.any fun x => p x && tears b x then { b with torn := true } else b }

/-- Cancel the copies that a context has started or queued (R361, R439). -/
def cancelCopies (s : State) (id : Nat) : State := cancelWhere s fun x => x.ctx == id

/-- Lose the running context (R439); `rolled` is bit 8 of the event's DATA (R452). -/
def loseContext (s : State) (reason : Nat) (rolled : Bool) : State :=
  let part := s.c.part
  let place := s.c.place
  let s := cancelCopies (leaveSlot s) s.c.id
  s.postEvent part 5 place (reason + rolled.toNat * 256)

/-! ## Taking a trap (R437, R438) -/

/-- Trap entry of the running context. `es` and `esk` are the caller's. The handler's first head is fetched and
checked at the context's next turn; a failure there finds TIN = 1 and is the double trap of R438. -/
def trapTo (s : State) (code : Nat) (epc : BitVec 56) (tval : Word) : State :=
  if s.c.tst.getLsbD 2 then loseContext s 2 false else
  { s with c := { s.c.leaveHead with
      cause := wd code, epc := epc.setWidth 64, tval := tval, tst := 4#64 ||| s.c.priv.setWidth 64,
      priv := if s.c.part = 0 then 2 else 1, pc := s.myPart.tvec.setWidth 56, line := none, waittDone := false
      trapPc := some epc, resume := s.c.resume.map fun r => { r with active := false } } }

/-- A trap at the head that the context stands at. -/
def trapAt (s : State) (code : Nat) (tval : Word) : State := trapTo s code s.c.pc tval

/-- A trap of a scalar access (R114): poison sets `es` to 0 and `esk` to POISON, until the access completes (R443). A busy
answer is no trap. -/
def trapScalar (s : State) (code : Nat) (tval : Word) : State :=
  if code = busyCause then s
  else if code = 0x0C then
    let r : Resume := { pc := s.c.pc, es0 := s.c.es0, active := false, mm := none }
    trapAt { s with c := { s.c with es := 0, esk := 2, resume := some r } } code tval
  else trapAt s code tval

/-- The stream position that the instruction under way has captured (R241). -/
def Ctx.capPos (c : Ctx) : Option (BitVec 48) :=
  match c.hold.bind Hold.pos with
  | some p => some p
  | none =>
    match c.resume.bind fun r => if r.active && r.pc == c.pc then r.pos else none with
    | some p => some p
    | none => c.entry0.bind Prog.pos

/-- A trap of a vector instruction at element or row k (R437). `esk` is the KIND of R443. The configuration that an
`mmla` resumes with is `mm`. -/
def trapVector (s : State) (code kind k : Nat) (tval : Word) (mm : Option MmCap) : State :=
  let r : Resume := { pc := s.c.pc, es0 := s.c.es0, active := false, mm := mm, pos := s.c.capPos }
  trapAt { s with c := { s.c with es := wd k, esk := wd kind, resume := some r } } code tval

/-- `tval` of an illegal instruction or a privilege trap (R92): head and tail. -/
def headTval (s : State) : Word :=
  match s.c.line with
  | some l =>
    let i := headIdx s.c.pc.toNat
    wd ((lineHalf l.bytes i).toNat + (lineTail l.bytes i).toNat * 65536)
  | none => 0

/-- The illegal-instruction trap at issue. -/
def illegal (s : State) : State := trapAt s 0x01 (headTval s)

/-- The privilege trap (R91, R124, R133). -/
def privTrap (s : State) : State := trapAt s 0x03 (headTval s)

/-! ## Entries and transfers (R77, R88 to R90) -/

/-- Fetch the line that a head address lies in and check it (R90). DESIGN CHOICE (log 60): an odd address, as ENTRY or `tvec` may
hold, is no head and raises cause 0x02. -/
def enterLine (s : State) (a : Nat) : R Line :=
  match fetchMem s s.agent (lineBase a) with
  | .trap c s => .trap c s
  | .hold s => .hold s
  | .ok bs s =>
    if a % 2 = 0 && lineValid bs && decide (headIdx a < lineNH bs) then .ok { base := lineBase a, bytes := bs } s
    else .trap 0x02 s

/-- Transfer to a head address after `f`, the transfer's own effects (R90): a failed check traps at the transferring
head with none of them. -/
def transfer (s : State) (a : Nat) (f : Ctx → Ctx) : State :=
  match enterLine s a with
  | .trap c s => trapAt s c (wd a)
  | .hold s => s
  | .ok l s =>
    let c := f s.c.leaveHead
    { s with c := { c with pc := BitVec.ofNat 56 a, line := some l } }

/-- The target of a code label: displacement in lines and head index (R88). DESIGN CHOICE (log 54): it is taken modulo
2^56. -/
def labelTarget (s : State) (ldelta : Int) (hidx : Nat) : Nat :=
  wrapN 56 ((lineBase s.c.pc.toNat : Int) + 64 * ldelta + 2 * hidx)

/-- The target that IMM16 of a branch names (R88). -/
def branchTarget (s : State) (imm : BitVec 16) : Nat :=
  labelTarget s (sval 11 (imm.toNat / 32)) (imm.toNat % 32)

/-- The target that C, DL and IMM16 name (R88). -/
def jumpTarget (s : State) (f : H3) : Nat :=
  let v := f.c.toNat * 2 ^ 21 + f.dl.toNat * 2 ^ 16 + f.imm.toNat
  labelTarget s (sval 21 (v / 32)) (v % 32)

/-- Whether a register value names a transfer target (R89). -/
def registerTargetOk (x : Word) : Bool := decide (x.toNat < 2 ^ 56) && !x.getLsbD 0

/-! ## Return (R133, R441) -/

/-- What the return does to the instructions that a trap stopped part-way: at the head that trapped they resume, and resolve
their backings again (R262); elsewhere the entries are discarded. -/
def Ctx.resumeAt (c : Ctx) (pc : BitVec 56) : Ctx :=
  if c.trapPc = some pc then
    { c with trapPc := none, prog := c.prog.map (fun e => { e with backs := [] })
             resume := (c.resume.filter fun r => r.pc == pc).map fun r => { r with active := true } }
  else { c with trapPc := none, resume := none, prog := [] }

/-- Let the stopped copies of a context go on (R360). -/
def resumeCopies (s : State) (id : Nat) : State :=
  { s with copies := s.copies.map fun x =>
      if x.ctx = id && x.delivered then { x with fault := none, delivered := false, at_ := s.now } else x }

/-- The return from a trap (R133). -/
def returnFromTrap (s : State) : State :=
  let ppl : BitVec 2 := s.c.tst.setWidth 2
  if s.c.priv.toNat < 1 then privTrap s
  else if s.c.priv.toNat < ppl.toNat then privTrap s
  else if !registerTargetOk s.c.epc then trapAt s 0x04 s.c.epc
  else
    let id := s.c.id
    let s' := transfer s s.c.epc.toNat fun c =>
      { c.resumeAt (c.epc.setWidth 56) with priv := ppl, tst := c.tst &&& ~~~4#64 }
    if s'.c.tst.getLsbD 2 || s'.c.hold.isSome then s' else resumeCopies s' id

/-! ## Releases and acquires (R199, R200, R230, R232) -/

/-- Whether a request is the fill of a completed copy of the running context. -/
def isMyFill (s : State) (m : Msg) : Bool :=
  m.who.id == engineId && m.who.slot == s.c.id && (match m.req with | .cbFill _ copy => copy | _ => false)

/-- A fill of a completed copy of the running context has still to be performed at its home, here or on another device
(R200, R359). -/
def fillsOut (s : State) : Bool := s.msgs.any (isMyFill s) || s.resvs.any fun r => r.msg.any (isMyFill s)

/-- The state of a release at a scope: at package scope the invalidations that the context's own stores to table lines have
started are acknowledged. Every other access is performed at its instruction (log 7). -/
def releaseAt (s : State) (scope : Nat) : State := if 3 ≤ scope then settleMine s else s

/-- A release at a scope waits for the fills that it covers. -/
def releasing (s : State) (scope : Nat) (k : State → Res) : Res := if fillsOut s then .next s else k (releaseAt s scope)

/-- An acquire at a scope of a store to n bytes: at package scope the invalidations that the store started have been
acknowledged. -/
def acquired (s : State) (scope va n : Nat) : State :=
  if scope < 3 || s.shoot.isEmpty then s else
  match resolve s s.agent .load va n with
  | .ok (.near p, _) => settleShoots s fun x => x.line == p.pa.getD p.key / 64 * 64
  | _ => s

/-! ## The shape of an instruction's end -/

/-- Write a scalar destination and go on. -/
def writeReg (s : State) (d : Nat) (x : Word) : Res := .next (s.setReg d x).adv

/-- End an access of a scalar instruction: `k` completes it, a failed access traps with `tval`, a held one is tried
again. -/
def endAccess {α : Type} (r : R α) (tval : Word) (k : α → State → State) : Res :=
  match r with
  | .ok a s => .next (k a s)
  | .trap c s => .next (trapScalar s c tval)
  | .hold s => .next s

/-- `tval` of an access of several lines that stopped (R222): the address of the line it stopped at. -/
def lineTval (s : State) (a : Word) : Word := a + wd (64 * (s.c.hold.map Hold.elem).getD 0)

/-- End an access of several lines. -/
def endLines {α : Type} (r : R α) (a : Word) (k : α → State → State) : Res :=
  match r with
  | .ok x s => .next (k x s)
  | .trap c s => .next (trapScalar s c (lineTval s a))
  | .hold s => .next s

end Sys2Proof.Machine
end

