-- ==== Sys2Proof/Machine/Sha.lean ====
section
/-! DEFINITION. SHA-384 of FIPS 180-4, as the meters, the measurements and `dgst` use it (R470, R472, R484). -/
namespace Sys2Proof.Machine

/-! ## The constants

FIPS 180-4 takes them from the primes: the first 64 bits of the fractional part of a root. -/

/-- The k-th root of n, rounded down, if it is below 2^b: its bits are settled from the highest on. -/
def rootDown (k n : Nat) : Nat → Nat
  | 0 => 0
  | b + 1 =>
    let r := rootDown k (n / 2 ^ k) b
    if (2 * r + 1) ^ k ≤ n then 2 * r + 1 else 2 * r

/-- The first 64 bits of the fraction of the k-th root of a number below 512. -/
def rootBits (k p : Nat) : BitVec 64 := BitVec.ofNat 64 (rootDown k (p * 2 ^ (64 * k)) 69)

/-- Whether a number below 441 is a prime. -/
def isPrime (n : Nat) : Bool := decide (2 ≤ n) && (List.range 19).all fun d => decide (n ≤ d + 2) || n % (d + 2) != 0

/-- The first 80 primes. -/
def shaPrimes : List Nat := (List.range 410).filter isPrime

/-- The 80 round constants, from cube roots. -/
def shaK : List (BitVec 64) := shaPrimes.map (rootBits 3)

/-- The running state: eight words. -/
structure Sha where
  a : BitVec 64
  b : BitVec 64
  c : BitVec 64
  d : BitVec 64
  e : BitVec 64
  f : BitVec 64
  g : BitVec 64
  h : BitVec 64
  deriving DecidableEq, Repr

/-- A state from eight words; missing ones are 0. -/
def Sha.ofWords (w : List (BitVec 64)) : Sha :=
  let n := fun i => w.getD i 0
  ⟨n 0, n 1, n 2, n 3, n 4, n 5, n 6, n 7⟩

/-- The words of a state in order. -/
def Sha.words (s : Sha) : List (BitVec 64) := [s.a, s.b, s.c, s.d, s.e, s.f, s.g, s.h]

/-- The initial state of SHA-384, from the square roots of the ninth to sixteenth primes. -/
def shaInit : Sha := Sha.ofWords (((shaPrimes.drop 8).take 8).map (rootBits 2))

/-- The exclusive or of a word's rotations to the right. -/
def turns (l : List Nat) (x : BitVec 64) : BitVec 64 := l.foldl (fun y n => y ^^^ x.rotateRight n) 0

/-- The schedule's next word from the sixteen before it. -/
def shaNext (w : List (BitVec 64)) : BitVec 64 :=
  let old := w.getD 1 0
  let new := w.getD 14 0
  w.getD 0 0 + w.getD 9 0 + (turns [1, 8] old ^^^ old >>> 7) + (turns [19, 61] new ^^^ new >>> 6)

/-- One round, to which the constant and the message word bring their sum. -/
def shaRound (s : Sha) (kw : BitVec 64) : Sha :=
  let choice := s.g ^^^ (s.e &&& (s.f ^^^ s.g))
  let most := (s.a &&& (s.b ||| s.c)) ||| (s.b &&& s.c)
  let x := s.h + kw + choice + turns [14, 18, 41] s.e
  ⟨x + most + turns [28, 34, 39] s.a, s.a, s.b, s.c, s.d + x, s.e, s.f, s.g⟩

/-- The rounds over the last sixteen message words: each round takes the first and appends the next of the schedule. -/
def shaRounds (s : Sha) (w : List (BitVec 64)) : List (BitVec 64) → Sha
  | [] => s
  | k :: rest => shaRounds (shaRound s (k + w.getD 0 0)) (w.tail ++ [shaNext w]) rest

/-- A number from bytes, the first byte highest. -/
def beNat (l : List Byte) : Nat := l.foldl (fun n b => n * 256 + b.toNat) 0

/-- n bytes of a number, the highest first. -/
def beBytes (n x : Nat) : List Byte := (leBytes n x).reverse

/-- The n words of eight bytes that a byte string begins with. -/
def beWords (bs : List Byte) : Nat → List (BitVec 64)
  | 0 => []
  | n + 1 => BitVec.ofNat 64 (beNat (bs.take 8)) :: beWords (bs.drop 8) n

/-- Take one block of 128 bytes. -/
def shaBlock (s : Sha) (block : List Byte) : Sha :=
  Sha.ofWords ((s.words.zip (shaRounds s (beWords block 16) shaK).words).map fun x => x.1 + x.2)

/-- Take n blocks of a message. -/
def shaBlocks (s : Sha) (bs : List Byte) : Nat → Sha
  | 0 => s
  | n + 1 => shaBlocks (shaBlock s (bs.take 128)) (bs.drop 128) n

/-- The end of a message: its last bytes, fewer than 128, of a message of `len` bytes in all. -/
def shaEnd (s : Sha) (rest : List Byte) (len : Nat) : Sha :=
  let n := if rest.length < 112 then 1 else 2
  shaBlocks s (padTo (128 * n - 16) (rest ++ [0x80]) ++ beBytes 16 (8 * len)) n

/-- The words of a state as bytes, and a state from its 64 bytes. -/
def Sha.bytes (s : Sha) : List Byte := s.words.flatMap fun w => beBytes 8 w.toNat
def shaOfBytes (bs : List Byte) : Sha := Sha.ofWords (beWords bs 8)

/-- SHA-384 of a byte string, 48 bytes. -/
def sha384 (bs : List Byte) : List Byte :=
  let n := bs.length / 128
  ((shaEnd (shaBlocks shaInit bs n) (bs.drop (128 * n)) bs.length).bytes).take 48

/-- A digest as a value, its first byte highest, and back. -/
def digestVal (bs : List Byte) : BitVec 384 := BitVec.ofNat 384 (beNat bs)
def digestBytes (x : BitVec 384) : List Byte := beBytes 48 x.toNat

end Sys2Proof.Machine
end

