-- ==== Sys2Proof/Machine/Meters.lean ====
section
/-! DEFINITION. The Flume meters and their chain (R466 to R471), and the digest instruction (R484): major 0x32. -/
namespace Sys2Proof.Machine

/-! ## Snapshots (R469, R470) -/

/-- The snapshot record of a partition. -/
def snapRecord (s : State) (p reason : Nat) : List Byte :=
  let x := s.part p
  leBytes 8 (x.snap + 1) ++ leBytes 8 s.now ++ leBytes 4 s.bootCount.toNat ++ leBytes 2 s.dev ++ leBytes 1 (p % 64) ++
  leBytes 1 x.inc.toNat ++ leBytes 1 reason ++ List.replicate 7 0 ++ leBytes 8 x.owner.toNat ++ List.replicate 24 0 ++
  x.meters.toList.flatMap fun m => leBytes 8 m.toNat

/-- Take a snapshot: the record is folded into the chain. Reasons: 0 periodic, 1 seal, 2 stop, 3 assign, 4 kill. -/
def snapshot (s : State) (p reason : Nat) : State :=
  let r := snapRecord s p reason
  s.setPart p fun x =>
    { x with snap := x.snap + 1, record := r, chainBefore := x.chain, chain := digestVal (sha384 (digestBytes x.chain ++ r)) }

/-- Whether a tick that is a multiple of 2^20 has come whose snapshot has not been taken (R470). -/
def meterDue (s : State) : Bool := s.metered != s.now / 2 ^ 20

/-- METER_SNAPSHOT, once it is due: every partition that is not FREE. Partition 0 never leaves its slot (log 4). -/
def execMeterSnapshot (s : State) : Res :=
  if !meterDue s then .next s else
  .next ((List.range 64).foldl (fun s p => if (s.part p).st == .free && p != 0 then s else snapshot s p 0)
    { s with metered := s.now / 2 ^ 20 })

/-! ## `flm.rd` and `flm.seal` -/

/-- The partition that a meter instruction acts on (R460), none when Sreg(A) names none. -/
def meterPart (s : State) (f : H2) : Option Nat :=
  if s.c.priv ≠ 2 then some s.c.part
  else if (s.reg f.a.toNat).toNat < 64 then some (s.reg f.a.toNat).toNat else none

/-- `flm.rd` (R468): instructions retire in order here, so every earlier one has. -/
def execFlmRd (f : H2) (s : State) : Res :=
  match meterPart s f with
  | none => writeReg s f.d.toNat ones
  | some p => writeReg s f.d.toNat ((s.part p).meters[f.imm.toNat % 32]?.getD 0)

/-- `flm.seal` (R471). -/
def execFlmSeal (f : H2) (s : State) : Res :=
  if s.c.priv.toNat < 1 then .next (privTrap s) else
  match meterPart s f with
  | none => writeReg s f.d.toNat ones
  | some p => let s := snapshot s p 1; writeReg s f.d.toNat (wd (s.part p).snap)

/-! ## `dgst` (R484) -/

/-- Where a digest stands: the running state, the bytes of the present block, and the next byte of the region. -/
structure Digest where
  sha : Sha
  blk : List Byte
  k : Nat
  deriving DecidableEq, Repr

/-- The size of the next read: the largest aligned power of two, at most 8, that lies in what remains. -/
def pieceSize (a n : Nat) : Nat :=
  if a % 8 = 0 && decide (8 ≤ n) then 8 else if a % 4 = 0 && decide (4 ≤ n) then 4
  else if a % 2 = 0 && decide (2 ≤ n) then 2 else 1

/-- Take bytes; they do not pass the end of a block together with later ones, since at most one block ends in them. -/
def Digest.take (x : Digest) (bs : List Byte) : Digest :=
  let b := x.blk ++ bs
  if b.length < 128 then { x with blk := b, k := x.k + bs.length }
  else { sha := shaBlock x.sha (b.take 128), blk := b.drop 128, k := x.k + bs.length }

/-- Read the rest of the region in program order, at most n accesses. -/
def digestRead (s : State) (a len : Nat) (x : Digest) : Nat → R Digest × Digest
  | 0 => (.ok x s, x)
  | n + 1 =>
    if len ≤ x.k then (.ok x s, x) else
    match loadMem s s.agent (a + x.k) (pieceSize (a + x.k) (len - x.k)) with
    | .ok bs s => digestRead s a len (x.take bs) n
    | .trap c s => (.trap c s, x)
    | .hold s => (.hold s, x)

/-- Words that a held digest keeps: the state, then the bytes of the block. -/
def Digest.words (x : Digest) : List Word := toWords x.sha.bytes ++ x.blk.map fun b => wd b.toNat

/-- The digest that a hold keeps. -/
def digestOfHold (h : Hold) : Digest :=
  { sha := shaOfBytes (ofWords (h.aux.take 8)), blk := (h.aux.drop 8).map (BitVec.setWidth 8), k := h.elem - 1 }

/-- Marks of a held digest: it stores the state of a fault, or it reads a state back. -/
def dgstFaultMark : Nat := 2 ^ 60
def dgstBackMark : Nat := 2 ^ 61

/-- A fault at byte k stops the instruction: the running state of the whole blocks goes to the output first. -/
def digestFault (s : State) (out a k cause : Nat) (st : List Byte) : Res :=
  match storeMem s s.agent out st with
  | .ok _ s => .next (trapVector s cause (if cause = 0x0C then 2 else 1) k (wd (a + k)) none)
  | .trap c s => .next (trapVector s c 1 0 (wd out) none)
  | .hold s => .next (holdAt s (dgstFaultMark + cause * 2 ^ 56 + k) (toWords st))

/-- Write the digest, the length and zeros, and end. -/
def digestEnd (s : State) (f : H2) (out len : Nat) (x : Digest) : Res :=
  let bs := (shaEnd x.sha x.blk len).bytes.take 48 ++ leBytes 8 len ++ List.replicate 8 0
  match storeMem s s.agent out bs with
  | .ok _ s => writeReg s f.d.toNat 0
  | .trap c s => .next (trapScalar s c (wd out))
  | .hold s => .next (holdAt s (x.k + 1) x.words)

/-- Go on with a digest from where it stands. -/
def digestOn (s : State) (f : H2) (out a len : Nat) (x : Digest) : Res :=
  match digestRead s a len x (len - x.k) with
  | (.ok x s, _) => digestEnd s f out len x
  | (.trap c s, x) => digestFault s out a x.k c x.sha.bytes
  | (.hold s, x) => .next (holdAt s (x.k + 1) x.words)

/-- Where a digest starts: at byte 0, or where `es` says when it resumes. -/
def digestStart (s : State) : Nat :=
  match s.c.resume with
  | some r => if r.active && r.pc == s.c.pc then s.c.es.toNat / 128 * 128 else 0
  | none => 0

/-- Start a digest; one that resumes after a whole block reads its state back from the output. -/
def digestBegin (s : State) (f : H2) (out a len : Nat) : Res :=
  let k := digestStart s
  if k = 0 then digestOn s f out a len { sha := shaInit, blk := [], k := 0 } else
  match loadMem s s.agent out 64 with
  | .ok bs s => digestOn s f out a len { sha := shaOfBytes bs, blk := [], k := k }
  | .trap c s => .next (trapVector s c (if c = 0x0C then 2 else 1) k (wd out) none)
  | .hold s => .next (holdAt s dgstBackMark [])

/-- `dgst`. -/
def execDgst (f : H2) (s : State) : Res :=
  let out := (s.reg f.d.toNat).toNat
  let a := (s.reg f.a.toNat).toNat
  let len := (s.reg f.b.toNat).toNat
  if out % 64 ≠ 0 then .next (trapScalar s 0x04 (wd out))
  else if 0 < len && out < a + len && a < out + 64 then writeReg s f.d.toNat 1
  else if 2 ^ 52 < len then writeReg s f.d.toNat 2
  else match s.c.hold with
  | none => digestBegin s f out a len
  | some h =>
    if h.elem = dgstBackMark then digestBegin s f out a len
    else if dgstFaultMark ≤ h.elem then
      digestFault s out a (h.elem % 2 ^ 56) ((h.elem - dgstFaultMark) / 2 ^ 56) (ofWords h.aux)
    else digestOn s f out a len (digestOfHold h)

end Sys2Proof.Machine
end

