-- ==== Sys2Proof/Machine/Flags.lean ====
section
/-! DEFINITION. The flags of `fps` (R107), the wait status (R49), the length and configuration registers (R139 to
R143), and how a write changes each control register. -/
namespace Sys2Proof.Machine

/-! ## `fps` and `ws` -/

/-- Set sticky flags (R107, R309). -/
def Ctx.setFlags (c : Ctx) (fl : Nat) : Ctx := { c with fps := c.fps ||| wd (fl % 64) }

/-- Set sticky flags of the running context. -/
def State.setFlags (s : State) (fl : Nat) : State := { s with c := s.c.setFlags fl }

/-- The rounding mode (R107). -/
def Ctx.rm (c : Ctx) : Nat := nbits c.fps.toNat 8 3

/-- The rounding mode of the running context. -/
def State.rm (s : State) : Nat := s.c.rm

/-- The state of the stochastic-rounding LFSR (R107). -/
def Ctx.seed (c : Ctx) : BitVec 32 := c.fps.extractLsb' 32 32

/-- Replace the LFSR state. -/
def Ctx.setSeed (c : Ctx) (x : BitVec 32) : Ctx := { c with fps := x ++ c.fps.extractLsb' 0 32 }

/-- One step of the LFSR (R286). -/
def stepLfsr (x : BitVec 32) : BitVec 32 := if x.getLsbD 0 then (x >>> 1) ^^^ 0x80200003 else x >>> 1

/-- What `fps` holds after a write (R107). -/
def fpsWritten (x : Word) : Word :=
  let seed := if x.toNat / 2 ^ 32 = 0 then 1 else x.toNat / 2 ^ 32
  let rm := if 5 ≤ nbits x.toNat 8 3 then 0 else nbits x.toNat 8 3
  wd (seed * 2 ^ 32 + rm * 256 + x.toNat % 64)

/-- Write the wait status (R49). -/
def State.setWs (s : State) (code : Nat) : State := { s with c := { s.c with ws := wd (code % 8) } }

/-! ## `vcfg`, `vl`, `vcap` (R139 to R143) -/

/-- Element width that an ET code gives (R143). -/
def etWidth (et : Nat) : Nat :=
  match et with
  | 1 | 5 | 13 => 8
  | 2 | 6 | 9 | 10 => 16
  | 4 | 8 | 12 => 64
  | _ => 32

def Ctx.et (c : Ctx) : Nat := nbits c.vcfg.toNat 8 4
def Ctx.ew (c : Ctx) : Nat := etWidth c.et
/-- The group factor G. -/
def Ctx.grp (c : Ctx) : Nat := 2 ^ nbits c.vcfg.toNat 4 2
def Ctx.space (c : Ctx) : Nat := nbits c.vcfg.toNat 0 3
def Ctx.vill (c : Ctx) : Bool := c.vcfg.getLsbD 63
/-- The grant. -/
def Ctx.vlen (c : Ctx) : Nat := c.vl.toNat % 2 ^ 22
/-- Whether the loop is chained, and its chain (R139). -/
def Ctx.chv (c : Ctx) : Bool := c.vl.getLsbD 63
def Ctx.chn (c : Ctx) : Nat := nbits c.vl.toNat 56 6

/-- The word of `vl` (R139). -/
def vlWord (chv : Bool) (chn n : Nat) : Word := wd (chv.toNat * 2 ^ 63 + chn % 64 * 2 ^ 56 + n % 2 ^ 22)

/-- VLMAX of a context with L lanes and DLEN rows on a seat (R143). -/
def vlmaxOf (lgcap lanes dlen ew g : Nat) : Nat := min (2 ^ lgcap) (lanes * dlen * 32 / ew * g)

/-- VLMAX of the running context. -/
def State.vlmax (s : State) : Nat :=
  vlmaxOf (s.mySeat.vcap.toNat % 32) s.lanes s.dlen s.c.ew s.c.grp

/-- Set the grant and keep the chain (R139). -/
def State.setVl (s : State) (n : Nat) : State := { s with c := { s.c with vl := vlWord s.c.chv s.c.chn n } }

/-- A write of `vl` (R139). -/
def State.writeVl (s : State) (x : Word) : State :=
  { s with c := { s.c with vl := vlWord (x.getLsbD 63) (nbits x.toNat 56 6) (min (x.toNat % 2 ^ 22) s.vlmax) } }

/-- What `vcfg` holds after a write (R140): a reserved ET or SPACE sets VILL alone. -/
def vcfgWritten (old x : Word) : Word :=
  let et := nbits x.toNat 8 4
  let sp := nbits x.toNat 0 3
  if et = 15 || 5 ≤ sp then old ||| (1#64 <<< 63) else wd (et * 256 + nbits x.toNat 4 2 * 16 + sp)

/-- A write of `vcfg` (R140); then VL is clamped. -/
def State.writeVcfg (s : State) (x : Word) : State :=
  let s := { s with c := { s.c with vcfg := vcfgWritten s.c.vcfg x } }
  s.setVl (min s.c.vlen s.vlmax)

/-! ## Written values of the other registers -/

/-- `whz` (R48): a value above 2^34 stores 2^34. -/
def whzWritten (x : Word) : Word := wd (min x.toNat (2 ^ 34))

/-- The value that a write of `lpr` holds ready (R28). -/
def lprWritten (size : Nat) (x : Word) : Word :=
  let side := nbits x.toNat 8 4
  let lc := nbits x.toNat 0 3
  let bad := lc = 0 || side = 0 || side % 2 ^ size = 2 ^ size - 1 || 2 ^ size ≤ side
  let en := if x.getLsbD 3 && !bad then 1 else 0
  wd (side * 256 + en * 8 + lc)

/-- `esk` (R443): a KIND of 5 to 7 stores 0. -/
def eskWritten (x : Word) : Word := if 5 ≤ x.toNat % 8 then 0 else wd (x.toNat % 8)

/-- `tst` (R129): a PPL of 3 leaves the field unchanged. -/
def tstWritten (old x : Word) : Word :=
  wd (nbits x.toNat 2 1 * 4 + (if x.toNat % 4 = 3 then old.toNat % 4 else x.toNat % 4))

/-- `lpr` as it reads: the value in force and PEND (R27). -/
def Seat.lprWord (t : Seat) : Word := t.lpr ||| (if t.lprNew.isSome then 0x8000#64 else 0)

/-- `spwst` as it reads (R299). -/
def Seat.spwstWord (t : Seat) : Word :=
  wd (t.jams % 2 ^ 16 * 2 ^ 48 + t.stalls % 2 ^ 16 * 2 ^ 32 + t.peak % 2 ^ 11 * 2 ^ 16 + t.spill.length % 2 ^ 11)

end Sys2Proof.Machine
end

