-- ==== Sys2Proof/Machine/Operands.lean ====
section
/-! DEFINITION. Operand forms: vector groups and their elements (R304, R307), masks (R86, R305), accumulator elements
(R268, R296), scalar sources, and the loop every vector instruction runs over its elements (R308 to R310, R453). -/
namespace Sys2Proof.Machine

/-! ## Elements of vector groups (R304) -/

/-- Element e of the group from `reg`, of width w. -/
def State.elem (s : State) (w reg e : Nat) : Nat :=
  leNat (getCells s.c.v (elemKey s.lanes s.dlen w reg e) (w / 8))

/-- The register that holds element e of a group. -/
def State.elemReg (s : State) (w reg e : Nat) : Nat := reg + e / (s.lanes * (s.dlen * 32 / w))

/-- Write element e of a group and mark its register dirty (R448). -/
def State.setElem (s : State) (w reg e x : Nat) : State :=
  { s with c := { s.c with
      v := setCells s.c.v (elemKey s.lanes s.dlen w reg e) (leBytes (w / 8) x),
      vDirty := s.c.vDirty ||| (1#32 <<< s.elemReg w reg e) } }

/-- Registers of a group of width w when the instruction's element width is EW (R307, R317). -/
def groupRegs (g w ew : Nat) : Nat := max 1 (g * w / ew)

/-- A group of n registers starts at a multiple of n and ends at or below register 31. -/
def groupOk (n reg : Nat) : Bool := reg % n = 0 && decide (reg + n ≤ 32)

/-- Two groups share a register. -/
def overlaps (a na b nb : Nat) : Bool := decide (a < b + nb) && decide (b < a + na)

/-! ## Masks (R86, R305) -/

/-- Mask register n. -/
def Ctx.mask (c : Ctx) (n : Nat) : Nat := c.m[n]?.getD 0

/-- Whether a MASK field selects element e. -/
def Ctx.active (c : Ctx) (mask : BitVec 4) (e : Nat) : Bool :=
  if mask = 0 then true
  else if mask.getLsbD 3 then (c.mask (mask.toNat % 8)).testBit e
  else !(c.mask (mask.toNat % 4)).testBit e

/-- A number with bit e set to b. -/
def setBit (x e : Nat) (b : Bool) : Nat :=
  if x.testBit e = b then x else if b then x + 2 ^ e else x - 2 ^ e

/-- Replace mask register n and mark it dirty (R448). -/
def State.setMask (s : State) (n x : Nat) : State :=
  { s with c := { s.c with m := s.c.m.setIfInBounds n x, mDirty := s.c.mDirty ||| (1#8 <<< n) } }

/-! ## Accumulators (R268, R296) -/

/-- Row m and column n of the group from `reg`: rows past DLEN lie in the next register. -/
def State.acc (s : State) (reg m n : Nat) : BitVec 36 := getCell 0 (aKey (reg + m / s.dlen) (m % s.dlen) n) s.c.a

/-- Write row m and column n of a group. -/
def State.setAcc (s : State) (reg m n : Nat) (x : BitVec 36) : State :=
  { s with c := { s.c with a := setCell 0 (aKey (reg + m / s.dlen) (m % s.dlen) n) x s.c.a,
                           aDirty := s.c.aDirty ||| (1#32 <<< (reg + m / s.dlen)) } }

/-! ## Scalar sources -/

/-- A register as a number. -/
def State.num (s : State) (n : BitVec 5) : Nat := (s.reg n.toNat).toNat

/-- Operand b of element e in the three forms of R306. -/
def State.operandB (s : State) (f : H2) (w e : Nat) : Nat :=
  match f.sub.toNat with
  | 0 => s.elem w f.b.toNat e
  | 1 => s.num f.b % 2 ^ w
  | _ => wrapN w (sval 8 f.imm.toNat)

/-! ## Issue checks (R307) -/

/-- Checks of an element-wise instruction whose groups are all of the width of TYPE. -/
def elementwiseOk (s : State) (ty : Nat) (regs : List Nat) : Bool :=
  !s.c.vill && tyWidth ty == s.c.ew && regs.all (groupOk s.c.grp)

/-! ## The element loop -/

/-- The instruction of the running context is the one that a trap stopped part-way. -/
def Ctx.resuming (c : Ctx) : Bool :=
  match c.resume with
  | some r => r.active && r.pc == c.pc
  | none => false

/-- The first element (R236, R308): 0 on a fresh issue, `es` on a resume of the trapped instruction, the progress index of
one that was stopped with it or by a pre-emption (R441). -/
def Ctx.startElem (c : Ctx) : Nat :=
  if c.resuming then c.es.toNat else (c.entry0.map Prog.idx).getD 0

/-- The element after the last: `vl`, or where the instruction stops part-way (R441). -/
def Ctx.endElem (c : Ctx) : Nat :=
  match c.stop with
  | some k => min k c.vlen
  | none => c.vlen

/-- The numbers from lo to hi − 1. -/
def span (lo hi : Nat) : List Nat := List.range' lo (hi - lo)

/-- The meter of a TYPE's element operations (R466). -/
def tyMeter (ty : Nat) : Nat := if ty = 9 || ty = 10 then 5 else if ty = 11 then 6 else if ty = 12 then 7 else 4

/-- The active elements of a range. -/
def Ctx.actives (c : Ctx) (mask : BitVec 4) (lo hi : Nat) : List Nat := (span lo hi).filter (c.active mask)

/-- Raise the pipeline error (R453) at element or row k. -/
def pipeTrap (s : State) (k tval : Nat) (mm : Option MmCap) : State :=
  let place := s.c.place
  let s := { s with c := { s.c with perr := none } }
  (trapVector s 0x0B 4 k (wd tval) mm).postEvent 0 7 place tval

/-- Perform a vector instruction over elements lo to hi − 1 (R308): `f lo hi` is its effect. A residue mismatch that waits
stops it at the group it is in (R453). `partway` is false for the instructions that never stop part-way (R310). -/
def groupRun (s : State) (partway : Bool) (f : Nat → Nat → State) : Res :=
  let lo := if partway then s.c.startElem else 0
  let hi := s.c.endElem
  match s.c.perr with
  | some (g, tv) =>
    let k := if partway then max lo (g / 256 * 256) else 0
    if k < hi then .next (pipeTrap (if partway then f lo k else s) k tv none)
    else .next { (f lo hi) with c := { (f lo hi).c with perr := none } }.adv
  | none => .next (f lo hi).adv

/-- Perform a vector instruction that counts its active elements (R466). -/
def vecRun (s : State) (ty : Nat) (mask : BitVec 4) (partway : Bool) (f : Nat → Nat → State) : Res :=
  groupRun s partway fun lo hi => (f lo hi).meter s.c.part (tyMeter ty) (s.c.actives mask lo hi).length

/-- The effect of an element-wise instruction on elements lo to hi − 1: `op e` is the result and its flags, read from
the state before the instruction. -/
def vecMap (s : State) (w dst : Nat) (mask : BitVec 4) (op : Nat → Nat × Nat) (lo hi : Nat) : State :=
  (s.c.actives mask lo hi).foldl (fun t e => (t.setElem w dst e (op e).1).setFlags (op e).2) s

/-- An element-wise instruction of one width: the checks of R307, then the loop. -/
def elementwise (s : State) (f : H2) (regs : List Nat) (op : Nat → Nat × Nat) : Res :=
  let ty := f.ty.toNat
  if elementwiseOk s ty regs then vecRun s ty f.mask true (vecMap s (tyWidth ty) f.d.toNat f.mask op)
  else .next (illegal s)

/-- The registers that a two-operand instruction checks: D, A, and B in the vector form. -/
def regsDAB (f : H2) : List Nat :=
  if f.sub = 0 then [f.d.toNat, f.a.toNat, f.b.toNat] else [f.d.toNat, f.a.toNat]

/-- A two-operand element-wise instruction. -/
def binary (s : State) (f : H2) (op : Nat → Nat → Nat × Nat) : Res :=
  let w := tyWidth f.ty.toNat
  elementwise s f (regsDAB f) fun e => op (s.elem w f.a.toNat e) (s.operandB f w e)

/-- A one-operand element-wise instruction. -/
def unary (s : State) (f : H2) (op : Nat → Nat × Nat) : Res :=
  let w := tyWidth f.ty.toNat
  elementwise s f [f.d.toNat, f.a.toNat] fun e => op (s.elem w f.a.toNat e)

end Sys2Proof.Machine
end

