-- ==== Sys2Proof/Machine/Spillway.lean ====
section
/-! DEFINITION. The Spillway (R297 to R302): entries of a seat, folds into the accumulators, and `spwmode`. -/
namespace Sys2Proof.Machine

/-- Add into an int36 element with saturation: the sum, and whether it was clamped (R282). -/
def satAdd36 (x : BitVec 36) (d : Int) : BitVec 36 × Bool :=
  let y := x.toInt + d
  let z := clampI (intMin true 36) (intMax true 36) y
  (BitVec.ofNat 36 (wrapN 36 z), decide (z ≠ y))

/-- Add into row m and column n of the accumulator register `reg` of a context, as int36. -/
def Ctx.addAcc36 (c : Ctx) (reg m n : Nat) (d : Int) : Ctx :=
  let r := satAdd36 (getCell 0 (aKey reg m n) c.a) d
  { c with a := setCell 0 (aKey reg m n) r.1 c.a, aDirty := c.aDirty ||| (1#32 <<< reg),
           sat := if r.2 then c.sat ||| (1#32 <<< reg) else c.sat }

/-- The context that holds a row and a column of a seat. -/
def holderOf (s : State) (t : Seat) (row col : Nat) : Option Ctx :=
  s.ctxs.find? fun x => x.core == t.core && x.pos == t.pos && decide (t.dbase x.slot ≤ row) &&
    decide (row < t.dbase x.slot + t.dlen x.slot) && decide (t.laneBase x.slot ≤ col) &&
    decide (col < t.laneBase x.slot + t.lanes x.slot)

/-- Fold one entry: count × 2^20 into its element (R300). An entry whose rows no context holds is freed alone. -/
def foldEntry (s : State) (t : Seat) (e : Spill) : State :=
  match holderOf s t e.row e.col with
  | none => s
  | some x => s.withCtx x.id fun c => c.addAcc36 e.reg (e.row - t.dbase x.slot) (e.col - t.laneBase x.slot) (e.count * 2 ^ 20)

/-- Fold the entries of a seat that satisfy `p` and free them (R300). -/
def foldSeat (s : State) (core pos : Nat) (p : Spill → Bool) : State :=
  match s.seat? core pos with
  | none => s
  | some t =>
    let s := (t.spill.filter p).foldl (fun s e => foldEntry s t e) s
    s.setSeat core pos fun t => { t with spill := t.spill.filter fun e => !p e }

/-- Drop the entries of a seat that satisfy `p` without folding. -/
def discardSpill (s : State) (core pos : Nat) (p : Spill → Bool) : State :=
  s.setSeat core pos fun t => { t with spill := t.spill.filter fun e => !p e }

/-- Whether an entry of a seat is a context's own. -/
def Ctx.ownsSpill (c : Ctx) (t : Seat) (e : Spill) : Bool :=
  decide (t.dbase c.slot ≤ e.row) && decide (e.row < t.dbase c.slot + t.dlen c.slot) &&
  decide (t.laneBase c.slot ≤ e.col) && decide (e.col < t.laneBase c.slot + t.lanes c.slot)

/-- What `spwmode` holds after a write (R298): AU from 1 to the seat's share ÷ 16. -/
def spwmodeWritten (size : Nat) (x : Word) : Word :=
  let au := max 1 (min (nbits x.toNat 8 8) (16 * size))
  wd (au * 256 + x.toNat % 2)

/-- A write of `spwmode` (R298): every entry of the seat folds, then the value applies. -/
def writeSpwmode (s : State) (x : Word) : State :=
  let s := foldSeat s s.c.core s.c.pos fun _ => true
  s.setMySeat fun t => { t with spwmode := spwmodeWritten t.size x }

/-- A write of `spwst` (R299): JAMS and STALLS as written, and PEAK takes USED. -/
def writeSpwst (s : State) (x : Word) : State :=
  s.setMySeat fun t => { t with jams := nbits x.toNat 48 16, stalls := nbits x.toNat 32 16, peak := t.spill.length }

end Sys2Proof.Machine
end

