-- ==== Sys2Proof/Machine/Queues.lean ====
section
/-! DEFINITION. The hardware queue slots of host queues (R42, R43). -/
namespace Sys2Proof.Machine

/-- The hardware queue slots of the device (R42). -/
def numQSlots : Nat := 512

/-- Whether a host queue is held as non-preemptible: declared so, and within its partition's allotment in binding
order (R42). -/
def queueNp (s : State) (part n : Nat) : Bool :=
  let nps := s.bufs.filter fun b => b.part == part && b.host && b.np
  (nps.take (s.part part).npq).any fun b => b.n == n

/-- Refresh the flags of the occupied slots (R42). -/
def refreshNp (s : State) : State := { s with qslots := s.qslots.map fun q => { q with np := queueNp s q.part q.buf } }

/-- A queue slot wakes: pauses of its partition end (R134), and HPR is reread for the receives that wait on its buffer
(R167). -/
def wakeQueue (s : State) (part n : Nat) : State :=
  let f := fun (c : Ctx) =>
    if c.part = part then { c with wait := c.wait.map fun w => if w.op = .pause then { w with u := 2 ^ 64 } else w } else c
  let s := { s with c := f s.c, others := s.others.map f }
  match bufOf s part n with
  | none => s
  | some b => if b.recvs.isEmpty || b.home ≠ s.dev then s else settleBuf s (rereadHpr s b)

/-- The lowest free slot. -/
def freeQSlot (s : State) : Option Nat := (List.range numQSlots).find? fun i => !(s.qslots.any fun q => q.idx == i)

/-- The preemptible queue whose last notify is oldest: the slots lie in the order of their last notifies. -/
def oldestQ (s : State) : Option QSlot := s.qslots.find? fun q => !q.np

/-- Whether a slot is a queue's. -/
def QSlot.isOf (part n : Nat) (q : QSlot) : Bool := q.part == part && q.buf == n

/-- Give a queue the slot of this index and wake it; a pending notify of it is served so. -/
def takeQSlot (s : State) (part n i : Nat) : State :=
  let s := s.setPart part fun p => { p with pending := if p.pending.testBit n then p.pending - 2 ^ n else p.pending }
  wakeQueue { s with qslots := s.qslots ++ [{ idx := i, part := part, buf := n, np := queueNp s part n, last := s.now }] } part n

/-- A notify of a queue that holds a slot makes it the latest and wakes it. -/
def touchQueue (s : State) (q : QSlot) : State :=
  wakeQueue { s with qslots := (s.qslots.filter fun x => x.idx != q.idx) ++ [{ q with last := s.now }] } q.part q.buf

/-- Act on a notify of a host queue (R42): one that needs another queue's slot waits for the end of the cycle, so that the
cycle's notifies come before its evictions (R43). -/
def notifyQueue (s : State) (part n : Nat) : State :=
  match s.qslots.find? (QSlot.isOf part n) with
  | some q => touchQueue s q
  | none => match freeQSlot s with
    | some i => takeQSlot s part n i
    | none => { s with evicts := s.evicts ++ [(part, n)] }

/-- A notify that found no free slot: it evicts the queue whose last notify is oldest, or becomes a pending notify when
every slot holds a non-preemptible queue (R42, R43). A queue that has been unbound meanwhile takes none. -/
def evictFor (s : State) (part n : Nat) : State :=
  if !((bufOf s part n).any fun b => b.host) then s else
  match s.qslots.find? (QSlot.isOf part n) with
  | some q => touchQueue s q
  | none => match freeQSlot s with
    | some i => takeQSlot s part n i
    | none =>
      match oldestQ s with
      | some q => takeQSlot { s with qslots := s.qslots.filter fun x => x.idx != q.idx } part n q.idx
      | none =>
        if (s.part part).pending.testBit n then s
        else (s.setPart part fun p => { p with pending := p.pending + 2 ^ n }).postEvent part 4 0 n

/-- The evictions at the end of a cycle. -/
def settleEvicts (s : State) : State := s.evicts.foldl (fun s x => evictFor s x.1 x.2) { s with evicts := [] }

/-- The next pending notify, round-robin over partitions after the one served last (R43). -/
def nextPending (s : State) : Option (Nat × Nat) :=
  (List.range 64).findSome? fun i =>
    let p := (s.qserved + 1 + i) % 64
    let x := (s.part p).pending
    if x = 0 then none else (List.range 256).findSome? fun n => if x.testBit n then some (p, n) else none

/-- Serve a pending notify with a free slot (R43). -/
def servePending (s : State) : State :=
  match freeQSlot s, nextPending s with
  | some i, some (p, n) =>
    takeQSlot { s with qserved := p } p n i
  | _, _ => s

/-- Free the slots of the queues that satisfy `p`, and serve pending notifies with them. -/
def dropQueues (s : State) (p : QSlot → Bool) : State :=
  let n := (s.qslots.filter p).length
  let s := refreshNp { s with qslots := s.qslots.filter fun q => !p q }
  (List.range n).foldl (fun s _ => servePending s) s

end Sys2Proof.Machine
end

