-- ==== Sys2Proof/Machine/Waits.lean ====
section
/-! DEFINITION. The tick, named barriers, meetings, locks, circular buffers and chains as a program issues them:
majors 0x0E to 0x11 (R47, R136 to R138, R150 to R168). What the homes do is in `Machine/Homes.lean`. -/
namespace Sys2Proof.Machine

/-! ## What the waiting instructions share -/

/-- Whether a deadline lies beyond the wait horizon (R47). -/
def beyondHorizon (s : State) (dl : Nat) : Bool := decide (s.now + s.myPart.whz.toNat < dl)

/-- The wait-horizon trap (R47). -/
def horizonTrap (s : State) (dl : Nat) : State := trapAt s 0x09 (wd dl)

/-- The permission trap of a number (R152, R160). -/
def numberTrap (s : State) (n : Nat) : State := trapAt s 0x08 (wd n)

/-- Where a record lies: device, address or storage key there, die. -/
structure Rec where
  dev : Nat
  pa : Nat
  die : Nat
  deriving DecidableEq, Repr

/-- Find the record at an address, with the checks of R136 in their order. -/
def recordAt (s : State) (va : Word) : Except Nat (Rec × State) :=
  if va.toNat % 64 ≠ 0 then .error 0x04 else
  match resolve s s.agent .load va.toNat 64 with
  | .error c => .error c
  | .ok (t, s) =>
    match t with
    | .near p =>
      if isHost p.key || isLane p.key then .error 0x0D
      else .ok ({ dev := s.dev, pa := p.pa.getD p.key, die := p.die }, s)
    | .far dev pa _ => .ok ({ dev := dev, pa := pa, die := homePort 0 pa / 128 }, s)

/-- The scope that the caller's place gives an object on a die (R156). -/
def placeScope (s : State) (r : Rec) : Nat :=
  if r.dev ≠ s.dev then 4 else if dieOfCore s.c.core = r.die then 2 else 3

/-- The scope of a meeting: its own while it is live here, else the place's (R57). -/
def meetScope (s : State) (r : Rec) : Nat :=
  match if r.dev = s.dev then meetOf s (.meet r.pa) else none with
  | some m => m.scope
  | none => placeScope s r

/-- Whether a scope is cut off because the tick is not synchronised (R45). -/
def fabricCut (s : State) (scope : Nat) : Bool := s.uns && decide (4 ≤ scope)

/-- Send a request to its home. -/
def sendReq (s : State) (r : Rec) (scope : Nat) (obj : Obj) (req : Req) : State :=
  if r.dev = s.dev then sendHome s (boundOf s scope) s.who r.die obj req
  else meetingAsk s r.dev { who := s.who, die := r.die, arrive := s.now, obj := obj, req := req }

/-- Let the running context wait. -/
def waitFor (s : State) (op : WaitOp) (obj : Option Obj) (dev u : Nat) (limit : Option Nat) : State :=
  { s with c := { s.c with
    wait := some { op := op, obj := obj, dev := dev, stamp := s.now, u := u, limit := limit } } }

/-- The ticks that a party waits for a lost home (R68). -/
def lossTicks : Nat := 2 ^ 16

/-- End a wait, or an instruction that does not come to wait, with `ws` and two destinations. -/
def endPlain (s : State) (d1 d2 code : Nat) (r1 r2 : Word) : State :=
  (((({ s with c := { s.c with wait := none } }).setWs code).setReg d1 r1).setReg d2 r2).adv

/-- An instruction whose fabric is not synchronised (R45). -/
def endCut (s : State) (d1 d2 : Nat) : State := endPlain s d1 d2 wsNOVERDICT ones ones

/-- Whether a request is a release (R200): of joins, a group's (R399). -/
def reqReleases (obj : Obj) : Req → Bool
  | .mtJoin _ _ => (match obj with | .group _ _ => true | _ => false)
  | .mtArrive _ _ _ _ => true
  | .lkRelease => true
  | .cbFill _ _ => true
  | .cbFree _ => true
  | .chPub _ => true
  | _ => false

/-- Send a request and wait for its answer (R137). A release stands at its instruction until what it covers is performed
(R200). -/
def askHome (s : State) (r : Rec) (scope : Nat) (obj : Obj) (req : Req) (op : WaitOp) (u limit : Nat) : State :=
  if reqReleases obj req && fillsOut s then s
  else waitFor (sendReq (if reqReleases obj req then releaseAt s scope else s) r scope obj req) op (some obj) r.dev u (some limit)

/-- An arrival that does not wait for its verdict: a release (R200). -/
def arriveOnly (s : State) (r : Rec) (scope : Nat) (obj : Obj) (req : Req) : State :=
  if fillsOut s then s else endPlain (sendReq (releaseAt s scope) r scope obj req) 0 0 wsMET 0 0

/-! ## Major 0x0E (R150 to R152) -/

/-- `tick`. -/
def execTick (f : H3) (s : State) : Res := writeReg s f.d.toNat s.tick

/-- The running context completes a `waitt`: its sequencer gives it the next issue slot (R13), after those that completed one
before it. `late` is 1 for one that ends at its issue, in the course of the cycle. -/
def endWaitt (s : State) (late : Nat) : State :=
  let s := endPlain s 0 0 wsMET 0 0
  { s with c := { s.c with waittDone := true, waittAt := 2 * s.cycle + late } }

/-- `waitt` (R13, R47, R151): a target that is not later than the stamp ends at once. -/
def execWaitt (f : H3) (s : State) : Res :=
  let dl := s.num f.dl
  if beyondHorizon s dl then .next (horizonTrap s dl)
  else if dl ≤ s.now then .next (endWaitt s 1)
  else .next (waitFor s .tick none s.dev dl none)

/-- The barrier that an instruction names: its number in the core, none when the seat does not reach it (R152). -/
def barrierOf (s : State) (f : H3) : Option Obj :=
  let n := f.imm.toNat % 256
  if n < 12 * s.mySeat.size then some (.barrier s.c.core (12 * s.c.pos + n)) else none

/-- The place of a barrier's home. -/
def barrierRec (s : State) : Rec := { dev := s.dev, pa := 0, die := dieOfCore s.c.core }

/-- The membership that an arrival gives a barrier that is not live (R152). -/
def barrierMemb (s : State) (f : H3) : BitVec 64 := wd (s.num f.b % 2 ^ min 16 s.mySeat.slots)

/-- A barrier instruction: `k` is given the barrier. -/
def atBarrier (f : H3) (s : State) (waits : Bool) (k : Obj → State) : Res :=
  let dl := s.num f.dl
  if waits && beyondHorizon s dl then .next (horizonTrap s dl) else
  match barrierOf s f with
  | none => .next (numberTrap s (f.imm.toNat % 256))
  | some o => .next (k o)

/-- `nb.arr`. -/
def execNbArr (f : H3) (s : State) : Res :=
  atBarrier f s true fun o =>
    arriveOnly s (barrierRec s) 0 o (.mtArrive s.c.slot (s.num f.dl) false (barrierMemb s f))

/-- `nb.wait`. -/
def execNbWait (f : H3) (s : State) : Res :=
  atBarrier f s true fun o =>
    askHome s (barrierRec s) 0 o (.mtWait s.c.slot (s.num f.dl)) (.plain f.d.toNat f.c.toNat) (s.num f.dl) (s.now + lossTicks)

/-- `nb.sync`. -/
def execNbSync (f : H3) (s : State) : Res :=
  atBarrier f s true fun o =>
    askHome s (barrierRec s) 0 o (.mtArrive s.c.slot (s.num f.dl) true (barrierMemb s f)) (.plain f.d.toNat f.c.toNat)
      (s.num f.dl) (s.now + lossTicks)

/-- `nb.join`. -/
def execNbJoin (f : H3) (s : State) : Res :=
  atBarrier f s false fun o =>
    askHome s (barrierRec s) 0 o (.mtJoin s.c.slot 0) (.plain f.d.toNat 0) s.now (s.now + lossTicks)

/-! ## Major 0x0F: meetings (R153, R154) -/

/-- `mt.init` (R54, R57): a record on another device makes the object one of fabric scope, whatever SUB says.
DESIGN CHOICE (log 54): the traps of the record come before that of the grace. -/
def execMtInit (f : H3) (s : State) : Res :=
  let a := s.reg f.a.toNat
  let scope := f.sub.toNat
  let g := f.imm.toNat
  match recordAt s a with
  | .error c => .next (trapScalar s c a)
  | .ok (r, s) =>
    let reach := if r.dev = s.dev then scope else 4
    if g < boundOf s reach then .next (trapAt s 0x01 (wd g))
    else if fabricCut s reach then .next (endCut s 0 0)
    else .next (askHome s r reach (.meet r.pa) (.mtInit (s.reg f.b.toNat) g scope)
      (.plain 0 0) s.now (s.now + lossTicks))

/-- An instruction of a party at a meeting: horizon, record, party, then the synchronised tick. `k` is given the
record, the scope and the party. -/
def atMeeting (f : H3) (s : State) (waits : Bool) (d1 d2 : Nat) (k : State → Rec → Nat → Nat → State) : Res :=
  let a := s.reg f.a.toNat
  let p := s.reg f.b.toNat
  let dl := s.num f.dl
  if waits && beyondHorizon s dl then .next (horizonTrap s dl) else
  match recordAt s a with
  | .error c => .next (trapScalar s c a)
  | .ok (r, s) =>
    if 64 ≤ p.toNat then .next (trapAt s 0x08 p)
    else if fabricCut s (meetScope s r) then .next (endCut s d1 d2)
    else .next (k s r (meetScope s r) p.toNat)

/-- `mt.arr`. -/
def execMtArr (f : H3) (s : State) : Res :=
  atMeeting f s true 0 0 fun s r sc p =>
    arriveOnly s r sc (.meet r.pa) (.mtArrive p (s.num f.dl) false 0)

/-- `mt.wait`. -/
def execMtWait (f : H3) (s : State) : Res :=
  atMeeting f s true f.d.toNat f.c.toNat fun s r sc p =>
    askHome s r sc (.meet r.pa) (.mtWait p (s.num f.dl)) (.plain f.d.toNat f.c.toNat) (s.num f.dl) (s.now + lossTicks)

/-- `mt.sync`. -/
def execMtSync (f : H3) (s : State) : Res :=
  atMeeting f s true f.d.toNat f.c.toNat fun s r sc p =>
    askHome s r sc (.meet r.pa) (.mtArrive p (s.num f.dl) true 0) (.plain f.d.toNat f.c.toNat) (s.num f.dl)
      (s.now + lossTicks)

/-- `mt.join`. -/
def execMtJoin (f : H3) (s : State) : Res :=
  atMeeting f s false f.d.toNat 0 fun s r sc p =>
    askHome s r sc (.meet r.pa) (.mtJoin p 0) (.plain f.d.toNat 0) s.now (s.now + lossTicks)

/-! ## Major 0x10: locks (R155, R156) -/

/-- The limit of a wait that its home answers at deadline + b (R68). -/
def servedLimit (s : State) (u scope : Nat) : Nat := max u s.now + boundOf s scope + lossTicks

/-- A lock instruction at the record in A. -/
def atLock (f : H3) (s : State) (d : Nat) (k : State → Rec → Nat → State) : Res :=
  let a := s.reg f.a.toNat
  match recordAt s a with
  | .error c => .next (trapScalar s c a)
  | .ok (r, s) => if fabricCut s (placeScope s r) then .next (endCut s d 0) else .next (k s r (placeScope s r))

/-- `lk.acq`: both deadlines are held to the horizon (R156). DESIGN CHOICE (log 54): the horizon trap comes before the
traps of the record. -/
def execLkAcq (f : H3) (s : State) : Res :=
  let dl := s.num f.dl
  let hdl := s.num f.b
  if beyondHorizon s dl then .next (horizonTrap s dl)
  else if beyondHorizon s hdl then .next (horizonTrap s hdl)
  else atLock f s f.d.toNat fun s r sc =>
    askHome s r sc (.lock r.pa) (.lkAcquire hdl dl) (.plain f.d.toNat 0) dl (servedLimit s dl sc)

/-- `lk.rel`. -/
def execLkRel (f : H3) (s : State) : Res :=
  atLock f s 0 fun s r sc => askHome s r sc (.lock r.pa) .lkRelease (.plain 0 0) s.now (s.now + lossTicks)

/-- `lk.mend`. -/
def execLkMend (f : H3) (s : State) : Res :=
  atLock f s 0 fun s r sc => askHome s r sc (.lock r.pa) .lkMend (.plain 0 0) s.now (s.now + lossTicks)

/-! ## Bindings (R157, R160) -/

/-- Whether the bits of a number below w alone may be set. -/
def below (x w : Nat) : Bool := decide (x < 2 ^ w)

/-- The result that a buffer record gives before it is bound (R160). -/
def bufRecordBad (r : List Byte) : Bool :=
  let n := fun i k => fieldAt r i k
  let host := nbit (n 11 1) 7
  let cap := n 8 2
  let lgsz := n 10 1
  let scope := n 11 1 % 8
  !below (n 0 8) 56 || !below cap 13 || !below lgsz 5 || nbits (n 11 1) 3 3 != 0 || n 12 4 != 0 ||
  !below (n 34 2) 13 || !below (n 36 2) 13 || !below (n 32 2) 13 ||
  (List.range 26).any (fun i => n (38 + i) 1 != 0) ||
  decide (cap < 1) || decide (4096 < cap) || decide (lgsz < 6) || decide (20 < lgsz) || scope == 0 || decide (4 < scope) ||
  decide (n 0 8 % 2 ^ lgsz ≠ 0) ||
  (!host && decide (cap ≤ n 32 2)) || decide (cap ≤ n 34 2) || decide (cap ≤ n 36 2) ||
  (if host then n 20 4 != n 24 4 || n 34 2 != n 36 2
   else n 16 4 != n 20 4 || n 20 4 != n 24 4 || n 32 2 != n 34 2 || n 34 2 != n 36 2)

/-- The binding of a buffer to a good record (R160, R167). -/
def bufBinding (s : State) (n : Nat) (r : Rec) (bs : List Byte) : Buf :=
  let g := fun i k => fieldAt bs i k
  { part := s.c.part, n := n, pa := r.pa, home := r.dev, die := r.die, base := g 0 7, cap := g 8 2, lgsz := g 10 1,
    host := nbit (g 11 1) 7, np := nbit (g 11 1) 6, scope := g 11 1 % 8, rsv := BitVec.ofNat 32 (g 16 4),
    fre := BitVec.ofNat 32 (g 20 4), con := BitVec.ofNat 32 (g 24 4), hpr := BitVec.ofNat 32 (g 28 4), rpos := g 32 2,
    fpos := g 34 2, cpos := g 36 2, slots := List.replicate (g 8 2) .free, claims := [], recvs := [], expert := none,
    events := decide (n = 255) && decide (1 ≤ s.c.priv.toNat) }

/-- Whether a buffer's old binding keeps it from being bound anew (R160). -/
def bufBusy (b : Buf) : Bool :=
  !b.claims.isEmpty || !b.recvs.isEmpty || b.slots.any (fun x => x != .free) ||
    (b.host && b.hpr != b.con)

/-- Remove a buffer's binding with its queue slot and its pending notify. -/
def unbindBuf (s : State) (part n : Nat) : State :=
  let s := { s with bufs := s.bufs.filter fun b => !(b.part == part && b.n == n) }
  let s := s.setPart part fun p => { p with pending := if p.pending.testBit n then p.pending - 2 ^ n else p.pending }
  let s := { s with evicts := s.evicts.filter fun x => x != (part, n) }
  dropQueues s fun q => q.part == part && q.buf == n

/-- The scope of a buffer for its instructions: fabric when its home is another device. -/
def Buf.reach (b : Buf) (s : State) : Nat := if b.home ≠ s.dev then 4 else b.scope
/-- The scope of a chain. -/
def Chain.reach (b : Chain) (s : State) : Nat := if b.home ≠ s.dev then 4 else b.scope

/-- The place of a buffer's home. -/
def Buf.homeRec (b : Buf) : Rec := { dev := b.home, pa := b.pa, die := b.die }
/-- The place of a chain's home. -/
def Chain.homeRec (b : Chain) : Rec := { dev := b.home, pa := b.pa, die := b.die }

/-- Ask a home to bind or unbind (R137, R160). -/
def askBind (s : State) (r : Rec) (scope d n : Nat) (chain : Bool) (pa : Option Nat) : State :=
  let obj := if chain then Obj.chain s.c.part n else Obj.buf s.c.part n
  askHome s r (if r.dev = s.dev then scope else 4) obj (.query chain.toNat ((pa.map fun p => p + 1).getD 0))
    (if r.dev = s.dev then .plain d 0 else .bind d n chain pa) s.now (s.now + lossTicks)

/-- Ask one of the two homes of a binding that moves between devices (R160, log 54): with `pa` to bind that record, else to
give the binding up. -/
def askMove (s : State) (o : Rec) (scope n : Nat) (chain : Bool) (pa : Option Nat) (op : WaitOp) : State :=
  let obj := if chain then Obj.chain s.c.part n else Obj.buf s.c.part n
  askHome s o (if o.dev = s.dev then scope else 4) obj (.query chain.toNat ((pa.map fun p => p + 1).getD 0)) op s.now (s.now + lossTicks)

/-- Move a binding to a record whose home is another device than the old one's: a new home on another device binds first,
else the old one gives up first, and what cannot be finished is taken back, so that nothing changes (R160, log 54). -/
def askRebind (s : State) (o : Rec) (scope d n : Nat) (chain : Bool) (r : Rec) : State :=
  let op := fun step => WaitOp.rebind step d n chain r.dev r.pa r.die 0 0
  if r.dev = s.dev then askMove s o scope n chain none (op .oldFirst)
  else askMove s r 4 n chain (some r.pa) (op .atNew)

/-- What `cb.def` and `chain.def` share: `old` is the home and the scope of the old binding, `bad` tells a record that
cannot be bound, and `scopeOf` reads a record's scope. The home decides (R59, R137). -/
def defineObj (f : H3) (s : State) (chain : Bool) (old : Option (Rec × Nat)) (bad : List Byte → Bool)
    (scopeOf : List Byte → Nat) : Res :=
  let a := s.reg f.a.toNat
  let d := f.d.toNat
  let n := f.imm.toNat % 256
  if a = 0 then
    let o := old.getD ({ dev := s.dev, pa := 0, die := dieOfCore s.c.core }, 0)
    .next (if fabricCut s o.2 then endCut s d 0 else askBind s o.1 o.2 d n chain none)
  else match recordAt s a with
  | .error c => .next (trapScalar s c a)
  | .ok (r, s) =>
    if r.dev = s.dev && poisoned s (physKey s r.pa) 64 then .next (trapScalar s 0x0C a) else
    let bs := peek s r.pa 64
    let scope := if r.dev = s.dev then scopeOf bs else 4
    if fabricCut s scope then .next (endCut s d 0) else
    match old.filter fun o => o.1.dev != r.dev && !(r.dev == s.dev && bad bs) with
    | some o => .next (if fabricCut s o.2 then endCut s d 0 else askRebind s o.1 o.2 d n chain r)
    | none => .next (askBind s r scope d n chain (some r.pa))

/-- `cb.def`. -/
def execCbDef (f : H3) (s : State) : Res :=
  defineObj f s false ((bufOf s s.c.part (f.imm.toNat % 256)).map fun b => (b.homeRec, b.reach s)) bufRecordBad
    fun bs => fieldAt bs 11 1 % 8

/-- The result that a chain record gives before it is bound. -/
def chainRecordBad (r : List Byte) : Bool :=
  let sc := fieldAt r 8 1
  sc == 0 || decide (4 < sc) || (List.range 55).any fun i => fieldAt r (9 + i) 1 != 0

/-- The binding of a chain to a good record. -/
def chainBinding (s : State) (n : Nat) (r : Rec) (bs : List Byte) : Chain :=
  { part := s.c.part, n := n, pa := r.pa, home := r.dev, die := r.die, h := wd (fieldAt bs 0 8), scope := fieldAt bs 8 1, waits := [] }

/-- Remove a chain's binding. -/
def unbindChain (s : State) (part n : Nat) : State :=
  { s with chains := s.chains.filter fun c => !(c.part == part && c.n == n) }

/-- `chain.def`. -/
def execChainDef (f : H3) (s : State) : Res :=
  defineObj f s true ((chainOf s s.c.part (f.imm.toNat % 256)).map fun b => (b.homeRec, b.reach s)) chainRecordBad
    fun bs => fieldAt bs 8 1

/-! ## Major 0x11: buffers and chains (R159, R161 to R168) -/

/-- An instruction on a bound buffer; `prod` for one that produces. -/
def atBuffer (f : H3) (s : State) (waits prod : Bool) (d1 d2 : Nat) (k : Nat → Buf → State) : Res :=
  let n := f.imm.toNat % 256
  let dl := s.num f.dl
  if waits && beyondHorizon s dl then .next (horizonTrap s dl) else
  match bufOf s s.c.part n with
  | none => .next (numberTrap s n)
  | some b =>
    if prod && b.closed then .next (numberTrap s n)
    else if fabricCut s (b.reach s) then .next (endCut s d1 d2)
    else .next (k n b)

/-- `cb.claim`: field C holds the count. -/
def execCbClaim (f : H3) (s : State) : Res :=
  atBuffer f s true true f.d.toNat 0 fun n b =>
    let dl := s.num f.dl
    askHome s b.homeRec (b.reach s) (.buf s.c.part n) (.cbClaim f.c.toNat dl dl) (.plain f.d.toNat 0) dl (servedLimit s dl (b.reach s))

/-- `cb.fill`. -/
def execCbFill (f : H3) (s : State) : Res :=
  atBuffer f s false true 0 0 fun n b =>
    askHome s b.homeRec (b.reach s) (.buf s.c.part n) (.cbFill (s.num f.a) false) (.plain 0 0) s.now (s.now + lossTicks)

/-- `recv`: field C holds the count, and B takes the count taken. -/
def execRecv (f : H3) (s : State) : Res :=
  atBuffer f s true false f.d.toNat f.b.toNat fun n b =>
    let dl := s.num f.dl
    askHome s b.homeRec (b.reach s) (.buf s.c.part n) (.cbRecv f.c.toNat dl false) (.plain f.d.toNat f.b.toNat) dl
      (servedLimit s dl (b.reach s))

/-- `cb.free`. -/
def execCbFree (f : H3) (s : State) : Res :=
  atBuffer f s false false 0 0 fun n b =>
    askHome s b.homeRec (b.reach s) (.buf s.c.part n) (.cbFree (s.num f.a)) (.plain 0 0) s.now (s.now + lossTicks)

/-- The status word of a buffer (R165). -/
def bufStatus (b : Buf) : Word :=
  wd (bufFree b % 2 ^ 13 + bufFilled b % 2 ^ 13 * 2 ^ 16 + b.cpos % 2 ^ 13 * 2 ^ 32 + b.host.toNat * 2 ^ 48)

/-- `cb.st`. -/
def execCbSt (f : H3) (s : State) : Res :=
  atBuffer f s false false f.d.toNat 0 fun n b =>
    askHome s b.homeRec (b.reach s) (.buf s.c.part n) (.query 2 0) (.plain f.d.toNat 0) s.now (s.now + lossTicks)

/-- `chain.pub`. -/
def execChainPub (f : H3) (s : State) : Res :=
  let n := f.imm.toNat % 256
  match chainOf s s.c.part n with
  | none => .next (numberTrap s n)
  | some b =>
    if fabricCut s (b.reach s) then .next (endCut s 0 0)
    else .next (askHome s b.homeRec (b.reach s) (.chain s.c.part n) (.chPub (s.num f.a)) (.plain 0 0) s.now (s.now + lossTicks))

end Sys2Proof.Machine
end

