-- ==== Sys2Proof/Machine/VecCfg.lean ====
section
/-! DEFINITION. Strip length, vector configuration and gangs: major 0x13 (R30, R67, R139 to R149). -/
namespace Sys2Proof.Machine

/-- `vsetl` without a chain (R145). -/
def execVsetl (f : H3) (s : State) : Res :=
  let a := s.reg f.a.toNat
  let g := min a.toNat s.vlmax
  writeReg { s with c := { s.c with avl := a, vl := vlWord false s.c.chn g } } f.d.toNat (wd g)

/-- The full grant of a chained `vsetl` of this length. -/
def fullGrant (s : State) (len : Word) : Nat := min len.toNat s.vlmax

/-- The grant that a chain's answer allows (R145, R146): none after NOVERDICT or GONE. -/
def chainGrant (s : State) (avl es : Word) (code : Nat) (h : Word) : Nat :=
  if code = wsNOVERDICT || code = wsGONE then 0 else min (min avl.toNat s.vlmax) (h.toNat - es.toNat)

/-- The end of a chained `vsetl` (R146). -/
def endVsetl (s : State) (d : Nat) (len : Word) (chn code : Nat) (h : Word) : State :=
  let g := chainGrant s len s.c.es code h
  let s := { s with c := { s.c with wait := none, avl := len, vl := vlWord true chn g } }
  ((s.setWs code).setReg d (wd g)).adv

/-- The end of a chained `vnext` (R145). -/
def endVnext (s : State) (d code : Nat) (h : Word) : State :=
  let avl := s.c.avl - wd s.c.vlen
  let es := s.c.es + wd s.c.vlen
  let g := chainGrant s avl es code h
  let last := avl = 0
  let s := { s with c := { s.c with
    wait := none, avl := avl, es := if last then 0 else es, vl := vlWord (!decide last) s.c.chn g } }
  ((s.setWs code).setReg d (wd g)).adv

/-- The end of a wait for a chain. -/
def endGrant (s : State) (d : Nat) (next : Bool) (len : Word) (chn code : Nat) (h : Word) : State :=
  if next then endVnext s d code h else endVsetl s d len chn code h

/-- A chained `vsetl` (R67, R146). -/
def execVsetlChained (f : H3) (s : State) : Res :=
  let n := f.imm.toNat % 256
  let a := s.reg f.a.toNat
  let dl := s.num f.dl
  if beyondHorizon s dl then .next (horizonTrap s dl) else
  match chainOf s s.c.part n with
  | none => .next (numberTrap s n)
  | some b =>
    if fabricCut s (b.reach s) then .next (endVsetl s f.d.toNat a n wsNOVERDICT 0)
    else .next (askHome s b.homeRec (b.reach s) (.chain s.c.part n) (.chRead (fullGrant s a) s.c.es.toNat dl)
      (.grant f.d.toNat false a n) dl (servedLimit s dl (b.reach s)))

/-- `vnext` (R145). In a chained loop it asks for no full grant, so the home answers at once; an unbound chain raises
the trap of R146. -/
def execVnext (f : H3) (s : State) : Res :=
  if s.c.chv then
    let n := s.c.chn
    match chainOf s s.c.part n with
    | none => .next (numberTrap s n)
    | some b =>
      if fabricCut s (b.reach s) then .next (endVnext s f.d.toNat wsNOVERDICT 0)
      else .next (askHome s b.homeRec (b.reach s) (.chain s.c.part n) (.chRead 0 s.c.es.toNat s.now)
        (.grant f.d.toNat true 0 n) s.now (s.now + lossTicks))
  else
    let avl := s.c.avl - wd s.c.vlen
    let g := min avl.toNat s.vlmax
    writeReg { s with c := { s.c with avl := avl, vl := vlWord false s.c.chn g } } f.d.toNat (wd g)

/-- `vcfg` (R147). -/
def execVcfg (f : H3) (s : State) : Res :=
  let v : Word := wd (f.ty.toNat * 256 + f.imm.toNat % 4 * 16 + nbits f.imm.toNat 2 3)
  let s := { s with c := { s.c with vcfg := v } }
  .next (s.setVl (min s.c.vlen s.vlmax)).adv

/-- The word of `vlanes` (R148). -/
def lanesWord (s : State) : Word :=
  wd (s.vlmax % 2 ^ 22 + s.lanes % 2 ^ 12 * 2 ^ 32 + s.dlen % 2 ^ 8 * 2 ^ 48 + s.c.gang.length % 8 * 2 ^ 60)

/-- `vlanes`. -/
def execVlanes (f : H3) (s : State) : Res := writeReg s f.d.toNat (lanesWord s)

/-! ## Gangs (R30, R149) -/

/-- The seats of a list: core and position of byte j. -/
def gangSeats (list : Word) (n : Nat) : List (Nat × Nat) :=
  (List.range n).map fun j => (nbits list.toNat (8 * j + 2) 6, nbits list.toNat (8 * j) 2)

/-- Whether a listed seat may be attached at all (R149). -/
def gangAllowed (s : State) (x : Nat × Nat) : Bool :=
  match s.seat? x.1 x.2 with
  | none => false
  | some t => t.part == s.c.part && x.1 != s.c.core && decide (s.dlen ≤ t.rows)

/-- Whether a seat is free for a context: nothing runs on it, and no other context has it (R30). -/
def gangFree (s : State) (x : Nat × Nat) : Bool :=
  match s.seat? x.1 x.2 with
  | none => false
  | some t => t.gangOf.all (· == s.c.id) && !(s.ctxs.any fun c => c.core == x.1 && c.pos == x.2)

/-- Detach the seats of the running context. -/
def dropGang (s : State) : State := { (detachSeats s s.c.id) with c := { s.c with gang := [] } }

/-- Attach seats to the running context. -/
def takeGang (s : State) (seats : List (Nat × Nat)) : State :=
  let id := s.c.id
  let s := seats.foldl (fun s x => s.setSeat x.1 x.2 fun t => { t with gangOf := some id }) s
  { s with c := { s.c with gang := seats } }

/-- The end of `vgang`: `vl` is 0, with its chain fields, whatever the outcome. -/
def endGang (s : State) (d code : Nat) (busy : Word) : State :=
  endPlain { s with c := { s.c with vl := 0 } } d 0 code busy 0

/-- The bits of the seats that are still busy. -/
def busyMask (s : State) (seats : List (Nat × Nat)) : Word :=
  wd (((List.range seats.length).filter fun j => !gangFree s (seats.getD j (0, 0))).foldl (fun a j => a + 2 ^ j) 0)

/-- Let a waiting `vgang` end if it can: all seats free, or its deadline passed. -/
def settleGang (s : State) (d : Nat) (seats : List (Nat × Nat)) (dl : Nat) : State :=
  if seats.all (gangFree s) then endGang (takeGang s seats) d wsMET 0
  else if dl < s.now then endGang s d wsABSENT (busyMask s seats)
  else s

/-- `vgang` (R149): the context's earlier vector instructions are performed already. A poll takes what it can at
once. -/
def execVgang (f : H3) (s : State) : Res :=
  let a := s.reg f.a.toNat
  let n := s.num f.b
  let dl := s.num f.dl
  let seats := gangSeats a n
  if beyondHorizon s dl then .next (horizonTrap s dl)
  else if 7 < n || !seats.all (gangAllowed s) || !decide seats.Nodup then .next (trapAt s 0x08 a)
  else
    let s := dropGang s
    let d := f.d.toNat
    if seats.all (gangFree s) then .next (endGang (takeGang s seats) d wsMET 0)
    else if dl ≤ s.now then .next (endGang s d wsABSENT (busyMask s seats))
    else .next (waitFor s (.gang d seats dl) none s.dev dl none)

end Sys2Proof.Machine
end

