-- ==== Sys2Proof/Machine/Tasks.lean ====
section
/-! DEFINITION. Tile tasks and task graphs: major 0x12, the graph scheduler and the spawn queue (R33 to R41, R169 to
R173). -/
namespace Sys2Proof.Machine

/-! ## Slots (R23, R28, R30, R39) -/

/-- The free slots of a seat: nothing is resident there, and the seat is attached to no context. -/
def freeSlots (s : State) (t : Seat) : List Nat :=
  if t.gangOf.isSome then [] else
  (List.range t.slots).filter fun i => !(s.ctxs.any fun c => c.core == t.core && c.pos == t.pos && c.slot == i)

/-- The free slots of a partition on a core for new tasks, lowest position first: position and slot. A pending `lpr`
takes no new task (R28). -/
def coreSlots (s : State) (part core : Nat) : List (Nat × Nat) :=
  (List.range 4).flatMap fun pos =>
    match s.seat? core pos with
    | some t => if t.part = part && t.lprNew.isNone then (freeSlots s t).map fun i => (pos, i) else []
    | none => []

/-- Whether a partition holds a seat on a core. -/
def holdsSeat (s : State) (part core : Nat) : Bool := s.seats.any fun t => t.part == part && t.core == core

/-- The core of a list with the most free slots, the lowest among equals (R39). -/
def roomiest (s : State) (part : Nat) (cores : List Nat) : Option Nat :=
  cores.foldl (fun o c =>
    let n := (coreSlots s part c).length
    match o with
    | none => if n = 0 then none else some c
    | some b => if (coreSlots s part b).length < n then some c else some b) none

/-- The cores that a spawn may use (R170): 0 core, 1 cluster, 2 die, 3 package. -/
def spawnCores (scope core : Nat) : List Nat :=
  (List.range 64).filter fun n =>
    match scope with
    | 0 => n == core
    | 1 => n / 4 == core / 4
    | 2 => dieOfCore n == dieOfCore core
    | _ => true

/-! ## Stages (R34, R38, R39) -/

/-- Whether the partition's scheduler places work: it is live, no stop runs, and no checkpoint gathers its contexts. -/
def schedules (s : State) (p : Nat) : Bool := partLive s p && (s.part p).ckPhase == 0

/-- Slots that the inputs or outputs of a stage need of one buffer. DESIGN CHOICE (log 60): where two inputs, or two outputs, name
one buffer, it is the sum of their counts. -/
def needOf (l : List (Nat × Nat)) (n : Nat) : Nat := (l.filter fun x => x.1 == n).foldl (fun a x => a + x.2) 0

/-- A buffer of a stage as the scheduler finds it: a host queue's HPR is read anew (R34, R167). -/
def stageBuf (s : State) (part n : Nat) : Option Buf := (bufOf s part n).map (rereadHpr s)

/-- Whether a stage is ready (R34). Its buffers have their homes on this device (log 18). -/
def stageReady (s : State) (part : Nat) (t : Stage) : Bool :=
  (t.ins.all fun x => x.2 == 0 || (stageBuf s part x.1).any fun b => b.home == s.dev && decide (needOf t.ins x.1 ≤ bufFilled b)) &&
  (t.outs.all fun x => x.2 == 0 ||
    (bufOf s part x.1).any fun b => b.home == s.dev && !b.closed && decide (needOf t.outs x.1 ≤ bufFree b)) &&
  decide (t.running ≤ t.maxi)

/-- A stage whose inputs are all unused (R36). -/
def Stage.isRoot (t : Stage) : Bool := t.ins.all fun x => x.2 == 0

/-- Whether a stage of a running graph may fire: ready, and due if it is a root (R36). -/
def stageDue (s : State) (g : Graph) (t : Stage) : Bool :=
  g.running && stageReady s g.part t && (!t.isRoot || decide (0 < t.due))

/-- The level of a wait (R38): n while it exceeds 1,024 × n, up to 3; 4 once it is overdue. -/
def waitLevel (wait : Nat) : Nat := if 4096 ≤ wait then 4 else min 3 ((wait - 1) / 1024)

/-- The wait of a stage. -/
def stageWait (s : State) (t : Stage) : Nat := match t.since with
  | some x => s.now - x
  | none => 0

/-- Start and stop the wait clocks of a partition's stages. -/
def clockGraph (s : State) (g : Graph) : Graph :=
  { g with stages := g.stages.map fun t =>
      if stageDue s g t then (if t.since.isSome then t else { t with since := some s.now, level := 0 })
      else { t with since := none, level := 0 } }

/-- Start and stop every wait clock (R38). -/
def clockStages (s : State) : State := { s with graphs := s.graphs.map (clockGraph s) }

/-- A stage that its partition's seats cannot serve now, because they are time-shared and another tenant holds them:
its clock stands for the tick (R447). -/
def holdClock (s : State) (part : Nat) (t : Stage) : Stage :=
  if (List.range 64).any fun c => t.aff.getLsbD c && holdsSeat s part c then t
  else { t with since := t.since.map (· + 1) }

/-- Occupancy of the fullest used input, as a number that orders the fractions (R39). -/
def occupancy (s : State) (part : Nat) (t : Stage) : Nat :=
  (t.ins.filter fun x => x.2 != 0).foldl (fun a x =>
    match stageBuf s part x.1 with
    | some b => max a (bufFilled b * 2 ^ 25 / b.cap)
    | none => a) 0

/-! ## The choice (R39, R40, R451) -/

/-- Who competes for a slot. -/
inductive Cand where
  | stage (g i : Nat)
  | spawn (i : Nat)
  | saved (i : Nat)
  deriving DecidableEq, Repr

/-- A candidate with its key, greater first, and its place: core, position, slot. -/
structure Bid where
  who : Cand
  key : List Nat
  core : Nat
  pos : Nat
  slot : Nat
  deriving DecidableEq, Repr

/-- Lexicographic order of keys. -/
def keyLess : List Nat → List Nat → Bool
  | [], [] => false
  | [], _ => true
  | _, [] => false
  | a :: t, b :: u => if a < b then true else if b < a then false else keyLess t u

/-- The first free slot of a core for a partition. -/
def firstSlot (s : State) (part core : Nat) : Option (Nat × Nat) := (coreSlots s part core).head?

/-- The bids of a partition's stages. -/
def stageBids (s : State) (part : Nat) : List Bid :=
  (s.graphs.filter fun g => g.part == part).flatMap fun g =>
    (List.range g.stages.length).filterMap fun i =>
      match g.stages[i]? with
      | none => none
      | some t =>
        if !stageDue s g t then none else
        match roomiest s part ((List.range 64).filter fun c => t.aff.getLsbD c) with
        | none => none
        | some c =>
          match firstSlot s part c with
          | none => none
          | some p =>
            let w := stageWait s t
            some { who := .stage g.g i, core := c, pos := p.1, slot := p.2,
                   key := [if t.level = 4 then w + 1 else 0, min 3 (t.prio + min 3 t.level), 0, occupancy s part t, w,
                           2 ^ 10 - (g.g * 64 + i)] }

/-- Whether a saved context fits a slot of a seat (R451): lanes, depth, and its gang's seats. -/
def savedFits (s : State) (x : Saved) (t : Seat) (slot : Nat) : Bool :=
  let own := x.ctx.gang.length
  t.part == x.part && x.seat.all (fun p => p == (t.core, t.pos)) && t.lanes slot + 256 * own == x.lanes &&
  decide (x.rrows ≤ t.dlen slot) && (x.ctx.aDirty == 0 || t.dlen slot == x.dlen) &&
  x.ctx.gang.all fun p =>
    match s.seat? p.1 p.2 with
    | some g => g.part == x.part && g.gangOf.isNone && (freeSlots s g).length == g.slots && decide (t.dlen slot ≤ g.rows) &&
        !(p == (t.core, t.pos))
    | none => false

/-- The slots that a saved context may take. -/
def savedPlaces (s : State) (x : Saved) : List (Nat × Nat × Nat) :=
  s.seats.flatMap fun t => ((freeSlots s t).filter (savedFits s x t)).map fun i => (t.core, t.pos, i)

/-- Whether a saved context of a partition among the first n may take a slot of a core: it competes for it before what comes
after it (R40, R451). -/
def savedBefore (s : State) (part n core : Nat) : Bool :=
  (s.saved.take n).any fun x => x.part == part && (savedPlaces s x).any fun p => p.1 == core

/-- The bids of a partition's saved contexts: each ranks as a spawned task of its priority that waits since it was saved, and
all of them stand ahead of the spawn queue (R451). -/
def savedBids (s : State) (part : Nat) : List Bid :=
  (List.range s.saved.length).filterMap fun i =>
    match s.saved[i]? with
    | none => none
    | some x =>
      if x.part ≠ part then none else
      ((savedPlaces s x).find? fun p => !savedBefore s part i p.1).map fun p =>
        { who := .saved i, core := p.1, pos := p.2.1, slot := p.2.2
          key := [0, min 3 (x.ctx.prio + min 3 (waitLevel (s.now - x.since))), 2, 0, 0, 2 ^ 10 - i] }

/-- The bids of a partition's spawned tasks: on each core the earliest that it may take, where no saved context may. -/
def spawnBids (s : State) (part : Nat) : List Bid :=
  let q := (s.part part).spawnQ
  (List.range q.length).filterMap fun i =>
    match q[i]? with
    | none => none
    | some x =>
      let earlier := fun c => ((q.take i).any fun y => (spawnCores y.scope y.core).contains c) || savedBefore s part s.saved.length c
      match roomiest s part ((spawnCores x.scope x.core).filter fun c => !earlier c) with
      | none => none
      | some c => (firstSlot s part c).map fun p =>
          { who := .spawn i, core := c, pos := p.1, slot := p.2,
            key := [0, min 3 (x.prio + min 3 (waitLevel (s.now - x.at_))), 1, 0, 0, 2 ^ 10 - i] }

/-- The bid that stands first in a partition. -/
def firstBid (s : State) (part : Nat) : Option Bid :=
  if !schedules s part then none else
  (stageBids s part ++ spawnBids s part ++ savedBids s part).foldl (fun o b =>
    match o with
    | none => some b
    | some a => if keyLess a.key b.key then some b else some a) none

/-! ## Firing and placing -/

/-- Claim the inputs of a firing: first slots and the slots taken (R34). -/
def claimInputs (s : State) (part : Nat) : List (Nat × Nat) → State × List Nat × List (Nat × Nat)
  | [] => (s, [], [])
  | (n, k) :: t =>
    match if k = 0 then none else stageBuf s part n with
    | none =>
      let r := claimInputs s part t
      (r.1, 0 :: r.2.1, r.2.2)
    | some b =>
      let took := (List.range k).map fun i => (n, (b.cpos + i) % b.cap)
      let r := claimInputs (storeBuf s (takeN b k)) part t
      (r.1, b.cpos :: r.2.1, took ++ r.2.2)

/-- Reserve the outputs of a firing: first slots and the slots reserved (R34). -/
def reserveOutputs (s : State) (part dl : Nat) : List (Nat × Nat) → State × List Nat × List (Nat × Nat)
  | [] => (s, [], [])
  | (n, k) :: t =>
    match if k = 0 then none else bufOf s part n with
    | none =>
      let r := reserveOutputs s part dl t
      (r.1, 0 :: r.2.1, r.2.2)
    | some b =>
      let took := (List.range k).map fun i => (n, (b.rpos + i) % b.cap)
      let r := reserveOutputs (storeBuf s (reserveN b dl k)) part dl t
      (r.1, b.rpos :: r.2.1, took ++ r.2.2)

/-- Set registers from number n on. -/
def Ctx.setRegs (c : Ctx) (n : Nat) : List Nat → Ctx
  | [] => c
  | x :: t => (c.setReg n (wd x)).setRegs (n + 1) t

/-- A new task context at a place (R10, R35), with its firing or spawn tick (R26). -/
def startTask (s : State) (part core pos slot entry prio born : Nat) (regs : List Nat) (firing : Option Firing) : State :=
  let c := Ctx.start s.nextId core pos slot part 0 (BitVec.ofNat 56 entry)
  let c := (c.setRegs 1 regs)
  { (s.addCtx { c with prio := prio, firing := firing, born := born }) with nextId := s.nextId + 1 }

/-- Change a stage. -/
def setStage (s : State) (part g i : Nat) (f : Stage → Stage) : State :=
  { s with graphs := updFirst (fun x => x.part == part && x.g == g) (fun x => { x with stages := x.stages.modify i f }) s.graphs }

/-- The stage of a graph. -/
def stageOf (s : State) (part g i : Nat) : Option Stage :=
  (s.graphs.find? fun x => x.part == part && x.g == g).bind fun x => x.stages[i]?

/-- Fire a stage at a place (R34, R35). -/
def fireStage (s : State) (part g i core pos slot : Nat) : State :=
  match stageOf s part g i with
  | none => s
  | some t =>
    let a := claimInputs s part t.ins
    let b := reserveOutputs a.1 part (s.now + t.term) t.outs
    let s := setStage b.1 part g i fun t =>
      { t with fired := t.fired + 1, due := t.due - 1, running := t.running + 1, since := none, level := 0 }
    startTask s part core pos slot t.entry t.prio s.now ([t.arg.toNat, t.fired] ++ a.2.1 ++ b.2.1)
      (some { graph := g, stage := i, ins := a.2.2, outs := b.2.2 })

/-- STAGE_FIRING (R39). -/
def execStageFiring (part : Nat) (s : State) : Res :=
  match firstBid (clockStages s) part with
  | some b =>
    match b.who with
    | .stage g i => .next (fireStage (clockStages s) part g i b.core b.pos b.slot)
    | _ => .next s
  | none => .next s

/-- SPAWN_PLACEMENT (R40). -/
def execSpawnPlacement (part : Nat) (s : State) : Res :=
  match firstBid (clockStages s) part with
  | some b =>
    match b.who with
    | .spawn i =>
      match (s.part part).spawnQ[i]? with
      | some x =>
        let s := s.setPart part fun p => { p with spawnQ := p.spawnQ.eraseIdx i }
        .next (startTask s part b.core b.pos b.slot x.entry.toNat x.prio x.at_ [x.arg.toNat] none)
      | none => .next s
    | _ => .next s
  | none => .next s

/-- STAGE_AGING (R38): the level of a stage follows its wait. -/
def execStageAging (part g stage : Nat) (s : State) : Res :=
  match stageOf s part g stage with
  | none => .next s
  | some t =>
    if t.since.isNone then .next s
    else .next (setStage s part g stage fun t => { t with level := max t.level (waitLevel (stageWait s t)) })

/-! ## Major 0x12 (R169 to R173) -/

/-- The 26-bit target of a `spawn` (R88, R169). -/
def spawnTarget (s : State) (f : H3) : Word := wd (jumpTarget s f)

/-- `spawn` (R170). -/
def execSpawn (f : H3) (s : State) : Res := releasing s f.sub.toNat fun s =>
  let p := s.myPart
  let d := f.d.toNat
  let scope := f.sub.toNat
  if !((spawnCores scope s.c.core).any (holdsSeat s s.c.part)) then .next (endPlain s d 0 wsABSENT 0 0)
  else if 1024 ≤ p.spawnQ.length then .next (endPlain s d 0 wsOVERFLOW 0 0)
  else
    let x : Spawn := { entry := spawnTarget s f, arg := s.reg f.a.toNat, scope := scope, core := s.c.core,
                       prio := s.c.prio, at_ := s.now }
    let s' := s.setPart s.c.part fun p => { p with spawnQ := p.spawnQ ++ [x], spawnCount := (p.spawnCount + 1) % 2 ^ 32 }
    .next (endPlain s' d 0 wsMET (wd p.spawnCount) 0)

/-- Four inputs or outputs of a stage record. -/
def stageLinks (r : List Byte) (i : Nat) : List (Nat × Nat) :=
  (List.range 4).map fun j => (fieldAt r (i + 2 * j) 1, fieldAt r (i + 2 * j + 1) 1)

/-- The stage of a record (R33). -/
def stageOfRecord (r : List Byte) : Stage :=
  { entry := fieldAt r 0 7, ins := stageLinks r 8, outs := stageLinks r 16, prio := fieldAt r 24 1 / 64,
    maxi := fieldAt r 24 1 % 64, aff := wd (fieldAt r 32 8), arg := wd (fieldAt r 40 8), term := fieldAt r 48 4,
    fired := 0, due := 0, running := 0, since := none, level := 0 }

/-- Whether a stage record gives a reason of R171. -/
def stageFault (s : State) (r : List Byte) (reason : Nat) : Bool :=
  match reason with
  | 1 => fieldAt r 7 1 != 0 || (List.range 7).any (fun i => fieldAt r (25 + i) 1 != 0) ||
      (List.range 12).any (fun i => fieldAt r (52 + i) 1 != 0)
  | 2 => fieldAt r 48 4 == 0
  | _ => !((List.range 64).any fun c => nbit (fieldAt r 32 8) c && holdsSeat s s.c.part c)

/-- The lowest reason that a list of records gives, with the first offending record (R171, R495). -/
def graphFault (s : State) (rs : List (List Byte)) : Option (Nat × Nat) :=
  [1, 2, 3].findSome? fun reason =>
    ((List.range rs.length).find? fun i => stageFault s (rs.getD i []) reason).map fun i => (reason, i)

/-- The firings of a stopped graph go on without it. -/
def orphan (part g : Nat) (c : Ctx) : Ctx :=
  if c.part = part then
    { c with firing := c.firing.map fun f => if f.graph = g then { f with graph := 2 ^ 16 } else f }
  else c

/-- Replace a graph (R171). -/
def replaceGraph (s : State) (part g : Nat) (stages : List Stage) : State :=
  let gs := s.graphs.filter fun x => !(x.part == part && x.g == g)
  { s with graphs := if stages.isEmpty then gs else gs ++ [{ part := part, g := g, stages := stages, running := false }]
           c := orphan part g s.c, others := s.others.map (orphan part g)
           saved := s.saved.map fun x => { x with ctx := orphan part g x.ctx } }

/-- Cut bytes into pieces of 64. -/
def recs64 (bs : List Byte) (n : Nat) : List (List Byte) := (List.range n).map fun i => (bs.drop (64 * i)).take 64

/-- `gdef` (R171, R495): the lowest reason that applies. Of more than 64 records the first 64 are read (log 40). -/
def execGdef (f : H3) (s : State) : Res :=
  let a := s.reg f.a.toNat
  let n := s.num f.b
  let g := f.imm.toNat % 16
  let d := f.d.toNat
  if a.toNat % 64 ≠ 0 then .next (trapScalar s 0x04 a)
  else endLines (loadLines s s.agent a.toNat (min n 64)) a fun bs s =>
    let rs := recs64 bs (min n 64)
    match graphFault s rs with
    | some (reason, i) => (s.setReg d (wd (reason * 256 + i))).adv
    | none => if 64 < n then (s.setReg d (wd (5 * 256 + 0xFF))).adv else ((replaceGraph s s.c.part g (rs.map stageOfRecord)).setReg d 0).adv

/-- Whether every buffer that a graph's stages name is bound. -/
def graphBound (s : State) (g : Graph) : Bool :=
  g.stages.all fun t => (t.ins ++ t.outs).all fun x => x.2 == 0 || (bufOf s g.part x.1).isSome

/-- Start a graph (R36, R172). -/
def startGraph (s : State) (g : Graph) : State :=
  let f := fun (t : Stage) => { t with fired := 0, due := if t.isRoot then t.maxi + 1 else 0, since := none, level := 0 }
  { s with graphs := updFirst (fun x => x.part == g.part && x.g == g.g)
             (fun x => { x with running := true, stages := x.stages.map f }) s.graphs }

/-- `gstart` (R172). -/
def execGstart (f : H3) (s : State) : Res :=
  let d := f.d.toNat
  match s.graphs.find? (fun x => x.part == s.c.part && x.g == f.imm.toNat % 16) with
  | none => writeReg s d 1
  | some g =>
    if !graphBound s g then writeReg s d 2
    else if g.running then writeReg s d 3
    else writeReg (startGraph s g) d 0

/-- `exit` (R37, R173, R361): it stands while a copy of the context has not completed. -/
def execExit (_ : H3) (s : State) : Res :=
  if s.copies.any fun x => x.ctx == s.c.id then .next s else releasing s 3 fun s => .next (leaveSlot s)

/-- `yield` (R173): the turn ends; in this model each instruction is a turn. -/
def execYield (_ : H3) (s : State) : Res := .next s.adv

end Sys2Proof.Machine
end

