-- ==== Sys2Proof/Machine/VecInt.lean ====
section
/-! DEFINITION. Vector integer instructions, major 0x14, and the integer multiply-accumulates of major 0x16 (R312,
R315). -/
namespace Sys2Proof.Machine

/-- An integer instruction of two operands; `op` is given the type and the two elements as numbers below 2^w. -/
def vecInt (op : Nat → Nat → Nat → Nat) (f : H2) (s : State) : Res :=
  let ty := f.ty.toNat
  binary s f fun a b => (op ty a b % 2 ^ tyWidth ty, 0)

/-- An operation on the values by type, wrapped. -/
def byValue (op : Int → Int → Int) (ty a b : Nat) : Nat := wrapN (tyWidth ty) (op (tyInt ty a) (tyInt ty b))

/-- Clamp to the range of a type. -/
def clampTy (ty : Nat) (x : Int) : Int := clampI (intMin (tySigned ty) (tyWidth ty)) (intMax (tySigned ty) (tyWidth ty)) x

/-- Bits that AND NOT b. -/
def andNotN (w a b : Nat) : Nat := a &&& (2 ^ w - 1 - b % 2 ^ w)

/-- Logical shifts; the count is b mod w. -/
def shlN (ty a b : Nat) : Nat := a * 2 ^ (b % tyWidth ty)
def shrN (ty a b : Nat) : Nat := a / 2 ^ (b % tyWidth ty)

/-- Arithmetic shift right. -/
def sraN (ty a b : Nat) : Nat := wrapN (tyWidth ty) (sval (tyWidth ty) a / (2 ^ (b % tyWidth ty) : Nat))

/-- Lesser and greater by type. -/
def minTy (ty a b : Nat) : Nat := if tyInt ty a ≤ tyInt ty b then a else b
def maxTy (ty a b : Nat) : Nat := if tyInt ty b ≤ tyInt ty a then a else b

/-- High half of the product by type. -/
def mulhTy (ty a b : Nat) : Nat := wrapN (tyWidth ty) (tyInt ty a * tyInt ty b / (2 ^ tyWidth ty : Nat))

/-- `vadd`. -/
def execVadd (f : H2) (s : State) : Res := vecInt (fun _ a b => a + b) f s
/-- `vsub`. -/
def execVsub (f : H2) (s : State) : Res := vecInt (byValue fun a b => a - b) f s
/-- `vrsub`. -/
def execVrsub (f : H2) (s : State) : Res := vecInt (byValue fun a b => b - a) f s
/-- `vand`. -/
def execVand (f : H2) (s : State) : Res := vecInt (fun _ a b => a &&& b) f s
/-- `vor`. -/
def execVor (f : H2) (s : State) : Res := vecInt (fun _ a b => a ||| b) f s
/-- `vxor`. -/
def execVxor (f : H2) (s : State) : Res := vecInt (fun _ a b => a ^^^ b) f s
/-- `vandn`. -/
def execVandn (f : H2) (s : State) : Res := vecInt (fun ty a b => andNotN (tyWidth ty) a b) f s
/-- `vshl`. -/
def execVshl (f : H2) (s : State) : Res := vecInt shlN f s
/-- `vshr`. -/
def execVshr (f : H2) (s : State) : Res := vecInt shrN f s
/-- `vsra`. -/
def execVsra (f : H2) (s : State) : Res := vecInt sraN f s
/-- `vmin`. -/
def execVmin (f : H2) (s : State) : Res := vecInt minTy f s
/-- `vmax`. -/
def execVmax (f : H2) (s : State) : Res := vecInt maxTy f s
/-- `vmul`. -/
def execVmul (f : H2) (s : State) : Res := vecInt (fun _ a b => a * b) f s
/-- `vmulh`. -/
def execVmulh (f : H2) (s : State) : Res := vecInt mulhTy f s
/-- `vadds`. -/
def execVadds (f : H2) (s : State) : Res := vecInt (fun ty => byValue (fun a b => clampTy ty (a + b)) ty) f s
/-- `vsubs`. -/
def execVsubs (f : H2) (s : State) : Res := vecInt (fun ty => byValue (fun a b => clampTy ty (a - b)) ty) f s

/-- A multiply-accumulate: `op a b c` is the element of the destination, which holds c (R315). -/
def accumulate (s : State) (f : H2) (op : Nat → Nat → Nat → Nat × Nat) : Res :=
  let w := tyWidth f.ty.toNat
  elementwise s f (regsDAB f) fun e => op (s.elem w f.a.toNat e) (s.operandB f w e) (s.elem w f.d.toNat e)

/-- `vmac`. -/
def execVmac (f : H2) (s : State) : Res :=
  accumulate s f fun a b c => ((a * b + c) % 2 ^ tyWidth f.ty.toNat, 0)
/-- `vnmsc`. -/
def execVnmsc (f : H2) (s : State) : Res :=
  accumulate s f fun a b c => (wrapN (tyWidth f.ty.toNat) ((c : Int) - a * b), 0)

end Sys2Proof.Machine
end

