-- ==== Sys2Proof/Machine/VecFp.lean ====
section
/-! DEFINITION. Vector floating point: majors 0x15 to 0x17 (R313 to R316). -/
namespace Sys2Proof.Machine

/-- A floating-point instruction of two operands; `op` is given the format and the rounding mode. -/
def vecFloat (op : Fmt → Nat → Nat → Nat → Nat × Nat) (f : H2) (s : State) : Res :=
  binary s f (op (tyFmt f.ty.toNat) s.rm)

/-- A floating-point instruction of one operand. -/
def vecFloat1 (op : Fmt → Nat → Nat → Nat × Nat) (f : H2) (s : State) : Res :=
  unary s f (op (tyFmt f.ty.toNat) s.rm)

/-- The sign bit of a format. -/
def signBit (f : Fmt) : Nat := 2 ^ (f.eb + f.fb)

/-- Magnitude bits. -/
def magBits (f : Fmt) (a : Nat) : Nat := a % signBit f

/-- `vfadd`. -/
def execVfadd (f : H2) (s : State) : Res := vecFloat fAdd f s
/-- `vfsub`. -/
def execVfsub (f : H2) (s : State) : Res := vecFloat fSub f s
/-- `vfmul`. -/
def execVfmul (f : H2) (s : State) : Res := vecFloat fMul f s
/-- `vfdiv`. -/
def execVfdiv (f : H2) (s : State) : Res := vecFloat fDiv f s
/-- `vfmin`. -/
def execVfmin (f : H2) (s : State) : Res := vecFloat (fun t _ => fMinMax t false) f s
/-- `vfmax`. -/
def execVfmax (f : H2) (s : State) : Res := vecFloat (fun t _ => fMinMax t true) f s
/-- `vfsqrt`. -/
def execVfsqrt (f : H2) (s : State) : Res := vecFloat1 fSqrt f s
/-- `vfabs` (R314). -/
def execVfabs (f : H2) (s : State) : Res := vecFloat1 (fun t _ a => (magBits t a, 0)) f s
/-- `vfneg` (R314). -/
def execVfneg (f : H2) (s : State) : Res := vecFloat1 (fun t _ a => (a ^^^ signBit t, 0)) f s
/-- `vfsgn` (R314). -/
def execVfsgn (f : H2) (s : State) : Res :=
  vecFloat (fun t _ a b => (magBits t a + (b / signBit t % 2) * signBit t, 0)) f s

/-- A fused multiply-add (R315). -/
def vecFma (np nc : Bool) (f : H2) (s : State) : Res :=
  accumulate s f (fFma (tyFmt f.ty.toNat) s.rm np nc)

/-- `vfma`. -/
def execVfma (f : H2) (s : State) : Res := vecFma false false f s
/-- `vfms`. -/
def execVfms (f : H2) (s : State) : Res := vecFma false true f s
/-- `vfnma`. -/
def execVfnma (f : H2) (s : State) : Res := vecFma true false f s
/-- `vfnms`. -/
def execVfnms (f : H2) (s : State) : Res := vecFma true true f s

/-! ## Compares (R316) -/

/-- Write bit e of a mask for each active element, with flags, on elements lo to hi − 1. -/
def maskMap (s : State) (dst : Nat) (mask : BitVec 4) (op : Nat → Bool × Nat) (lo hi : Nat) : State :=
  (s.c.actives mask lo hi).foldl (fun t e => (t.setMask dst (setBit (t.c.mask dst) e (op e).1)).setFlags (op e).2) s

/-- The condition of a compare by type, with its flag: `test` of the order (none when a NaN is there), `quiet` when
only a signalling NaN sets NV. -/
def compareTy (test : Option Ordering → Bool) (quiet : Bool) (ty a b : Nat) : Bool × Nat :=
  if tyFloat ty then
    let x := fDec (tyFmt ty) a
    let y := fDec (tyFmt ty) b
    (test (cmpV x y), if quiet then nanFlags [x, y] else if x.isNan || y.isNan then fNV else 0)
  else (test (some (compare (tyInt ty a) (tyInt ty b))), 0)

/-- A compare: the sources are checked as in R307, the mask is written. -/
def vecCmp (test : Option Ordering → Bool) (quiet : Bool) (f : H2) (s : State) : Res :=
  let ty := f.ty.toNat
  let w := tyWidth ty
  let regs := if f.sub = 0 then [f.a.toNat, f.b.toNat] else [f.a.toNat]
  if elementwiseOk s ty regs then
    vecRun s ty f.mask true (maskMap s f.d.toNat f.mask fun e =>
      compareTy test quiet ty (s.elem w f.a.toNat e) (s.operandB f w e))
  else .next (illegal s)

/-- `vcmp.eq`. -/
def execVcmpEq (f : H2) (s : State) : Res := vecCmp (fun o => o == some .eq) true f s
/-- `vcmp.ne`: true for a NaN. -/
def execVcmpNe (f : H2) (s : State) : Res := vecCmp (fun o => o != some .eq) true f s
/-- `vcmp.lt`. -/
def execVcmpLt (f : H2) (s : State) : Res := vecCmp (fun o => o == some .lt) false f s
/-- `vcmp.le`. -/
def execVcmpLe (f : H2) (s : State) : Res := vecCmp (fun o => o == some .lt || o == some .eq) false f s
/-- `vcmp.gt`. -/
def execVcmpGt (f : H2) (s : State) : Res := vecCmp (fun o => o == some .gt) false f s
/-- `vcmp.ge`. -/
def execVcmpGe (f : H2) (s : State) : Res := vecCmp (fun o => o == some .gt || o == some .eq) false f s
/-- `vcmp.un`. -/
def execVcmpUn (f : H2) (s : State) : Res := vecCmp (fun o => o == none) true f s

end Sys2Proof.Machine
end

