-- ==== Sys2Proof/Machine/Narrow.lean ====
section
/-! DEFINITION. Narrow formats (R273 to R279, R284 to R286) and the conversions of major 0x18 (R317 to R322). -/
namespace Sys2Proof.Machine

/-! ## Format registers (R273, R274) -/

def fmtW (f : Word) : Nat := nbits f.toNat 0 4
def fmtE (f : Word) : Nat := nbits f.toNat 7 3
def fmtSP (f : Word) : Bool := f.getLsbD 10
def fmtSUB (f : Word) : Bool := f.getLsbD 11
def fmtESC (f : Word) : Bool := f.getLsbD 12
def fmtSCL (f : Word) : Bool := f.getLsbD 16
def fmtUNS (f : Word) : Bool := f.getLsbD 17
def fmtCLS (f : Word) : Nat := nbits f.toNat 18 2
def fmtBIAS (f : Word) : Int := sval 8 (nbits f.toNat 20 8)
/-- Mantissa bits of a narrow float. -/
def fmtM (f : Word) : Nat := fmtW f - 1 - fmtE f

/-- Whether a format value is valid (R274). -/
def fmtValid (f : Word) : Bool :=
  nbits f.toNat 28 36 == 0 && nbits f.toNat 13 3 == 0 && nbits f.toNat 4 3 == 0 &&
  match fmtCLS f with
  | 0 => decide (2 ≤ fmtW f) && decide (fmtW f ≤ 8) && decide (1 ≤ fmtE f) && decide (fmtE f < fmtW f) &&
      (!fmtSP f || decide (1 ≤ fmtM f)) && !fmtUNS f
  | 1 => (fmtW f == 4 || fmtW f == 8) && fmtBIAS f == 0 && fmtE f == 0 && !fmtSP f && !fmtSUB f && !fmtESC f && !fmtSCL f
  | _ => nbits f.toNat 0 18 == 0 && fmtBIAS f == 0

/-- Whether a format has escapes, and whether it reads scales (R273). -/
def hasEsc (f : Word) : Bool := fmtCLS f == 0 && fmtESC f
def hasScl (f : Word) : Bool := fmtCLS f == 0 && fmtSCL f

/-! ## Decoding (R277 to R279) -/

/-- The value of a code; none for an escape. -/
def decodeNarrow (f : Word) (code : Nat) : Option FVal :=
  let w := fmtW f
  match fmtCLS f with
  | 0 =>
    let m := fmtM f
    let s := code.testBit (w - 1)
    let x := nbits code m (fmtE f)
    let fr := code % 2 ^ m
    if fmtESC f && s && x = 0 && fr = 0 then none
    else if fmtSP f && x = 2 ^ fmtE f - 1 then some (if fr = 0 then .inf s else .nan false)
    else if x = 0 then some (.fin s (if fmtSUB f then fr else 0) (1 - fmtBIAS f - m))
    else some (.fin s (2 ^ m + fr) (x - fmtBIAS f - m))
  | 1 =>
    let v : Int := if fmtUNS f then ((code % 2 ^ w : Nat) : Int) else sval w code
    some (.fin (decide (v < 0)) v.natAbs 0)
  | 2 => some (fDec bf16 code)
  | _ => some (fDec fp16 code)

/-- A scale code as an exponent; none for NaN (R279). -/
def scaleExp (c : Nat) : Option Int := if c % 256 = 255 then none else some ((c % 256 : Nat) - 127)

/-- A value times a scale. A scale that is NaN makes the result a NaN of its own, which signals nothing (log 53). -/
def FVal.scaled (v : FVal) (k : Option Int) : FVal :=
  match v, k with
  | _, none => .nan false
  | .nan q, _ => .nan q
  | .inf n, _ => .inf n
  | .fin n m e, some k => .fin n m (e + k)

/-! ## Encoding (R284 to R286) -/

/-- The largest finite magnitude of a narrow float as k·2^q. -/
def narrowLargest (f : Word) : Nat × Int :=
  let m := fmtM f
  let top := 2 ^ fmtE f - (if fmtSP f then 2 else 1)
  if top = 0 then ((if fmtSUB f then 2 ^ m - 1 else 0), 1 - fmtBIAS f - m)
  else (2 ^ (m + 1) - 1, (top : Int) - fmtBIAS f - m)

/-- The code without its sign of a magnitude k·2^q of the format, the exponent field running on without bound. -/
def magCode (f : Word) (k : Nat) (q : Int) : Nat :=
  if k = 0 then 0 else
  let m := fmtM f
  let e : Int := k.log2 + q
  let emin : Int := 1 - fmtBIAS f
  if e < emin then (if q ≤ emin - m then k / 2 ^ (emin - m - q).toNat else k * 2 ^ (q - (emin - m)).toNat)
  else
    let sh : Int := e - m - q
    let fr := if 0 ≤ sh then k / 2 ^ sh.toNat else k * 2 ^ (-sh).toNat
    (e + fmtBIAS f).toNat * 2 ^ m + (fr - 2 ^ m)

/-- Round m·2^e to a multiple of 2^q (R284, R286): the multiple and whether it is inexact. A tie goes to the even code;
`u` is the random threshold of a stochastic rounding. -/
def roundNarrow (rm u : Nat) (m : Nat) (e q : Int) (odd : Nat → Bool) : Nat × Bool :=
  if q ≤ e then (m * 2 ^ (e - q).toNat, false)
  else
    let sh := (q - e).toNat
    let k := m / 2 ^ sh
    let rem := m % 2 ^ sh
    let up := match rm with
      | 0 => decide (2 ^ sh < 2 * rem) || (2 * rem == 2 ^ sh && odd k)
      | 4 => decide (u < rem * 2 ^ 24 / 2 ^ sh)
      | _ => false
    (if up then k + 1 else k, rem != 0)

/-- Whether k·2^q exceeds k'·2^q'. -/
def exceeds (k : Nat) (q : Int) (k' : Nat) (q' : Int) : Bool :=
  let e := min q q'
  decide (k' * 2 ^ (q' - e).toNat < k * 2 ^ (q - e).toNat)

/-- The outcome of a narrow conversion: code, flags, and the slot when it is an escape. -/
structure NCode where
  code : Nat
  flags : Nat
  slot : Option Nat
  deriving DecidableEq, Repr

/-- Convert a finite value that is not zero (R284). DESIGN CHOICE (log 60): with SUB = 0 and M ≥ 1 a tie between 0 and the smallest
normal number, whose codes both end in 0, goes to 0. -/
def convFinite (f : Word) (rm u : Nat) (free : Bool) (neg : Bool) (m : Nat) (e : Int) : NCode :=
  let mb := fmtM f
  let sg := if neg then 2 ^ (fmtW f - 1) else 0
  let emin : Int := 1 - fmtBIAS f
  let ex : Int := m.log2 + e
  let q := if fmtSUB f || decide (emin ≤ ex) then max (ex - mb) (emin - mb) else emin
  let r := roundNarrow rm u m e q fun k => magCode f k q % 2 == 1
  let qu := ex - mb
  let un := roundNarrow rm u m e qu fun k => if mb = 0 then (k.log2 + qu + fmtBIAS f) % 2 == 1 else k % 2 == 1
  let big := narrowLargest f
  if exceeds un.1 qu big.1 big.2 then
    if free && fmtESC f then { code := 2 ^ (fmtW f - 1), flags := 0, slot := some (roundF bf16 0 neg m e).1 }
    else if !fmtSP f || (rm != 0 && rm != 4) then
      let c := magCode f big.1 big.2
      { code := if c = 0 && fmtESC f then 0 else sg + c, flags := fOF ||| fNX, slot := none }
    else { code := sg + (2 ^ fmtE f - 1) * 2 ^ mb, flags := fOF ||| fNX, slot := none }
  else
    let c := magCode f r.1 q
    let tiny := decide (ex < emin) && !(decide (ex + 1 = emin) && un.1 == 2 ^ (mb + 1))
    let fl := if r.2 then fNX ||| (if tiny then fUF else 0) else 0
    { code := if c = 0 && fmtESC f then 0 else sg + c, flags := fl, slot := none }

/-- Convert a value into a narrow float (R284); `free` says that a slot of the block is free. -/
def convNarrow (f : Word) (rm u : Nat) (free : Bool) (v : FVal) : NCode :=
  let esc := 2 ^ (fmtW f - 1)
  let useSlot := free && fmtESC f
  let sg := fun (n : Bool) => if n then esc else 0
  match v with
  | .nan s =>
    if useSlot then { code := esc, flags := if s then fNV else 0, slot := some 0x7FC0 }
    else if !fmtSP f then { code := 0, flags := fNV, slot := none }
    else { code := (2 ^ fmtE f - 1) * 2 ^ fmtM f + 2 ^ (fmtM f - 1), flags := if s then fNV else 0, slot := none }
  | .inf n =>
    if useSlot then { code := esc, flags := 0, slot := some (fInf bf16 n) }
    else if !fmtSP f then
      let c := magCode f (narrowLargest f).1 (narrowLargest f).2
      { code := if c = 0 && fmtESC f then 0 else sg n + c, flags := fNX, slot := none }
    else { code := sg n + (2 ^ fmtE f - 1) * 2 ^ fmtM f, flags := 0, slot := none }
  | .fin n m e =>
    if m = 0 then { code := if fmtESC f then 0 else sg n, flags := 0, slot := none }
    else convFinite f rm u free n m e

/-- Convert a value into the integer class (R285). -/
def convNarrowInt (f : Word) (rm u : Nat) (v : FVal) : NCode :=
  let w := fmtW f
  let lo := intMin (!fmtUNS f) w
  let hi := intMax (!fmtUNS f) w
  match v with
  | .nan _ => { code := 0, flags := fNV, slot := none }
  | .inf n => { code := wrapN w (if n then lo else hi), flags := fNV, slot := none }
  | .fin n m e =>
    let r := roundNarrow rm u m e 0 fun k => k % 2 == 1
    let x : Int := if n then -(r.1 : Int) else r.1
    if x < lo then { code := wrapN w lo, flags := fNV, slot := none }
    else if hi < x then { code := wrapN w hi, flags := fNV, slot := none }
    else { code := wrapN w x, flags := if r.2 then fNX else 0, slot := none }

/-- The value of an element by type (R319). -/
def valueTy (ty x : Nat) : FVal :=
  if tyFloat ty then fDec (tyFmt ty) x
  else .fin (decide (tyInt ty x < 0)) (tyInt ty x).natAbs 0

/-! ## Checks (R317) -/

/-- Format register K of an instruction, if its value is valid and of an allowed class. -/
def fmtUse (s : State) (k : Nat) (classes : List Nat) : Option Word :=
  let f := s.c.f[k]?.getD 0
  if fmtValid f && classes.contains (fmtCLS f) then some f else none

/-- Whether groups given by register and count are in range, and no destination shares a register with a source. -/
def groupsOk (dsts srcs : List (Nat × Nat)) : Bool :=
  (dsts ++ srcs).all (fun x => groupOk x.2 x.1) && dsts.all fun d => srcs.all fun x => !overlaps d.1 d.2 x.1 x.2

/-- Registers of an operand of width w. -/
def State.regsOf (s : State) (w : Nat) : Nat := groupRegs s.c.grp w s.c.ew

/-! ## `vcvt` (R318) -/

/-- `vcvt`. -/
def execVcvt (f : H2) (s : State) : Res :=
  let t := f.ty.toNat
  let src := f.imm.toNat % 16
  let wt := tyWidth t
  let ws := tyWidth src
  let d := (f.d.toNat, s.regsOf wt)
  let a := (f.a.toNat, s.regsOf ws)
  let ok := if wt = ws then groupOk d.2 d.1 && groupOk a.2 a.1 else groupsOk [d] [a]
  if !s.c.vill && max wt ws == s.c.ew && ok then
    vecRun s t f.mask true (vecMap s wt f.d.toNat f.mask fun e => convTy t src s.rm (s.elem ws f.a.toNat e))
  else .next (illegal s)

/-! ## `vqnt` (R319, R322) -/

/-- The scale of a block. -/
def blockScale (s : State) (f : Word) (b : Nat) (j : Nat) : Option Int :=
  if hasScl f then scaleExp (s.elem 8 b j) else some 0

/-- The scale inverted, for a division. -/
def negScale (k : Option Int) : Option Int := k.map fun x => -x

/-- Quantise one element: state, slots of the block so far. `s0` is the state before the instruction. -/
def quantOne (s0 : State) (fm : Word) (f : H2) (src side : Nat) (x : State × List Nat) (e : Nat) : State × List Nat :=
  let t := x.1
  let rm := s0.rm
  let seed := if rm = 4 then stepLfsr t.c.seed else t.c.seed
  let t := { t with c := t.c.setSeed seed }
  let u := seed.toNat / 256
  let v := (valueTy src (s0.elem (tyWidth src) f.a.toNat e)).scaled (negScale (blockScale s0 fm f.b.toNat (e / 32)))
  let r := if fmtCLS fm = 1 then convNarrowInt fm rm u v else convNarrow fm rm u (decide (x.2.length < 4)) v
  let t := (t.setElem 8 f.d.toNat e r.code).setFlags r.flags
  match r.slot with
  | none => (t, x.2)
  | some v => (t.setElem 16 side (4 * (e / 32) + x.2.length) v, x.2 ++ [v])

/-- Write zero into the slots of a block that took no escape. -/
def clearSlots (side j used : Nat) (t : State) : State :=
  (span used 4).foldl (fun t i => t.setElem 16 side (4 * j + i) 0) t

/-- Quantise one block's active elements between lo and hi − 1. -/
def quantBlock (s0 : State) (fm : Word) (f : H2) (src side lo hi : Nat) (t : State) (j : Nat) : State :=
  let es := s0.c.actives f.mask (max lo (32 * j)) (min hi (32 * j + 32))
  if es.isEmpty then t else
  let r := es.foldl (quantOne s0 fm f src side) (t, [])
  if hasEsc fm then clearSlots side j r.2.length r.1 else r.1

/-- `vqnt`. -/
def execVqnt (f : H2) (s : State) : Res :=
  let src := f.imm.toNat % 16
  match fmtUse s (f.imm.toNat / 16) [0, 1] with
  | none => .next (illegal s)
  | some fm =>
    let ws := tyWidth src
    let n := s.regsOf 8
    let side := f.d.toNat + n
    let d := (f.d.toNat, n) :: if hasEsc fm then [(side, n)] else []
    let a := (f.a.toNat, s.regsOf ws) :: if hasScl fm then [(f.b.toNat, n)] else []
    if !s.c.vill && max ws (if hasEsc fm then 16 else 8) == s.c.ew && groupsOk d a && (hasScl fm || f.b == 0) then
      vecRun s 13 f.mask true fun lo hi =>
        (span (lo / 32) ((hi + 31) / 32)).foldl (quantBlock s fm f src side lo hi) s
    else .next (illegal s)

/-! ## `vdq` (R320) -/

/-- The number of escapes of a block before element e, over every code of the block. -/
def escapesBefore (s : State) (fm : Word) (a e : Nat) : Nat :=
  ((span (e / 32 * 32) e).filter fun i => (decodeNarrow fm (s.elem 8 a i)).isNone).length

/-- The value that an element decodes to, with the ESC flag of a fifth escape. -/
def dequantVal (s : State) (fm : Word) (a side e : Nat) : FVal × Nat :=
  match decodeNarrow fm (s.elem 8 a e) with
  | some v => (v, 0)
  | none =>
    let i := escapesBefore s fm a e
    if i < 4 then (fDec bf16 (s.elem 16 side (4 * (e / 32) + i)), 0) else (.nan false, fESC)

/-- Round a decoded value times its scale: a NaN is canonical and sets no flag. DESIGN CHOICE (log 60): a signalling NaN in a side
list is no exception. -/
def dequantRound (t : Fmt) (rm : Nat) (v : FVal) : Nat × Nat := if v.isNan then (fNan t, 0) else roundV t rm v

/-- `vdq`. -/
def execVdq (f : H2) (s : State) : Res :=
  let t := f.ty.toNat
  match fmtUse s (f.imm.toNat / 16) [0, 1] with
  | none => .next (illegal s)
  | some fm =>
    let wt := tyWidth t
    let n := s.regsOf 8
    let side := f.a.toNat + n
    let d := [(f.d.toNat, s.regsOf wt)]
    let a := (f.a.toNat, n) :: (if hasEsc fm then [(side, n)] else []) ++ if hasScl fm then [(f.b.toNat, n)] else []
    if !s.c.vill && wt == s.c.ew && groupsOk d a && (hasScl fm || f.b == 0) then
      vecRun s t f.mask true (vecMap s wt f.d.toNat f.mask fun e =>
        let v := dequantVal s fm f.a.toNat side e
        let r := dequantRound (tyFmt t) s.rm (v.1.scaled (blockScale s fm f.b.toNat (e / 32)))
        (r.1, r.2 ||| v.2))
    else .next (illegal s)

/-! ## `vbsc` (R321) -/

/-- The exponent of a finite value that is not zero. -/
def expOf : FVal → Option Int
  | .fin _ m e => if m = 0 then none else some (m.log2 + e)
  | _ => none

/-- The scale code of a block's active values. -/
def scaleCode (fm : Word) (vs : List FVal) : Nat :=
  let big := narrowLargest fm
  let top := (vs.filterMap expOf).foldl (fun o x => match o with
    | none => some x
    | some y => some (max y x)) (none : Option Int)
  if vs.any FVal.isNan then 255
  else match top with
    | none => 127
    | some m => if big.1 = 0 then 127 else (clampI 0 254 (m - (big.1.log2 + big.2) + 127)).toNat

/-- `vbsc`. -/
def execVbsc (f : H2) (s : State) : Res :=
  let src := f.imm.toNat % 16
  let ws := tyWidth src
  match fmtUse s (f.imm.toNat / 16) [0] with
  | none => .next (illegal s)
  | some fm =>
    if !s.c.vill && ws == s.c.ew && groupsOk [(f.d.toNat, s.regsOf 8)] [(f.a.toNat, s.regsOf ws)] then
      vecRun s 13 f.mask true fun lo hi =>
        (span (lo / 32) ((hi + 31) / 32)).foldl (fun t j =>
          let es := s.c.actives f.mask (max lo (32 * j)) (min hi (32 * j + 32))
          if es.isEmpty then t
          else t.setElem 8 f.d.toNat j (scaleCode fm (es.map fun e => valueTy src (s.elem ws f.a.toNat e)))) s
    else .next (illegal s)

end Sys2Proof.Machine
end

