-- ==== Sys2Proof/Machine/Desc.lean ====
section
/-! DEFINITION. Tensor descriptors, the Sluice's bindings and format registers: majors 0x2A and 0x2B (R332 to R338). -/
namespace Sys2Proof.Machine

/-! ## Descriptors (R332, R333) -/

/-- A dimension: extent, stride, shift, boundary (0 zero, 1 wrap, 2 clamp). -/
structure Dim where
  ext : Nat
  str : Int
  shf : Int
  bnd : Nat
  deriving DecidableEq, Repr

/-- A descriptor that is well formed. -/
structure Desc where
  space : Nat
  base : Nat
  ty : Nat
  bk : Nat
  alt : Nat
  dims : List Dim
  deriving DecidableEq, Repr

/-- Dimension i of an image. -/
def dimOf (img : List Byte) (i : Nat) : Dim :=
  let x := fieldAt img (20 + 12 * i) 12
  { ext := nbits x 0 32, str := sval 48 (nbits x 32 48), shf := sval 14 (nbits x 80 14), bnd := nbits x 94 2 }

/-- Read an image that is well formed. -/
def parseDesc (img : List Byte) : Option Desc :=
  let w0 := fieldAt img 0 8
  let ty := fieldAt img 8 1 % 16
  let bk := fieldAt img 9 1
  let alt := fieldAt img 12 8
  let dims := (List.range 9).map (dimOf img)
  if w0 < 2 ^ 59 && nbits w0 56 3 ≤ 4 && 1 ≤ ty && ty ≤ 13 && bk ≤ 2 && fieldAt img 10 2 == 0 && alt < 2 ^ 56 &&
      dims.all fun d => d.ext != 0 && d.bnd != 3 then
    some { space := nbits w0 56 3, base := nbits w0 0 56, ty := ty, bk := bk, alt := alt, dims := dims }
  else none

/-- The image in descriptor register n. -/
def Ctx.descImg (c : Ctx) (n : Nat) : List Byte := c.d[n]?.getD []

/-- The descriptor in register n, if it is well formed. -/
def Ctx.desc (c : Ctx) (n : Nat) : Option Desc := parseDesc (c.descImg n)

/-- Bytes of an element. -/
def Desc.bytes (d : Desc) : Nat := tyWidth d.ty / 8

/-- The lowest offset of the footprint from BASE, and the highest. -/
def Desc.low (d : Desc) : Int := d.dims.foldl (fun a x => a + min 0 (((x.ext : Int) - 1) * x.str)) 0
def Desc.high (d : Desc) : Int := d.dims.foldl (fun a x => a + max 0 (((x.ext : Int) - 1) * x.str)) 0 + d.bytes - 1

/-- Elements of a descriptor. -/
def Desc.count (d : Desc) : Nat := d.dims.foldl (fun a x => a * x.ext) 1

/-- The index vector of a linear index, dimension 0 fastest (R354). -/
def indexVec : List Dim → Nat → List Nat
  | [], _ => []
  | x :: t, k => k % x.ext :: indexVec t (k / x.ext)

/-- An index under the boundary of a dimension (R354): none where the element is zero. -/
def boundIdx (i : Int) (x : Dim) : Option Nat :=
  if 0 ≤ i ∧ i < x.ext then some i.toNat
  else if x.bnd = 1 then some (i % x.ext).toNat
  else if x.bnd = 2 then some (if i < 0 then 0 else x.ext - 1)
  else none

/-- The address of the element at an index vector. -/
def Desc.addrAt (d : Desc) (is : List Nat) : Nat :=
  wrapN 64 ((is.zip d.dims).foldl (fun a p => a + (p.1 : Int) * p.2.str) (d.base : Int))

/-! ## The Sluice (R336) -/

/-- Whether a page can back a double-backed buffer: translated, in device memory, and reachable. Answers the size of
the page. -/
def backingPage (s : State) (ag : Agent) (va : Nat) : Option Nat :=
  if 2 ^ 56 ≤ va || nbits va 48 8 = 0xFE then none else
  match walkFrom s ag .load va (s.part ag.part).root [4, 3, 2, 1, 0] with
  | .fault _ => none
  | .leaf e _ _ =>
    let pa := eFrame e * 4096 + va % 2 ^ pageBits (eSize e)
    if eRMT e || hbmEnd ≤ pa then none else some (2 ^ pageBits (eSize e))

/-- Whether every page from an address up to an end can back a buffer; at most n pages. -/
def backed (s : State) (ag : Agent) (hi : Nat) (va : Nat) : Nat → Bool
  | 0 => hi ≤ va
  | n + 1 =>
    if hi ≤ va then true else
    match backingPage s ag va with
    | none => false
    | some sz => backed s ag hi (va / sz * sz + sz) n

/-- Two ranges of bytes meet. -/
def rangesMeet (a an b bn : Nat) : Bool := decide (a < b + bn) && decide (b < a + an)

/-- Whether the Sluice refuses an image (R336). -/
def bindRefused (s : State) (d : Desc) : Bool :=
  let span := (d.high + 1).toNat
  let ag := s.agent
  d.space != 0 || d.dims.any (fun x => decide (x.str < 0)) || d.alt == 0 || rangesMeet d.base span d.alt span ||
  !backed s ag (d.base + span) d.base (span / 4096 + 2) || !backed s ag (d.alt + span) d.alt (span / 4096 + 2) ||
  s.binds.any fun b => b.part == s.c.part &&
    (rangesMeet d.base span b.base b.span || rangesMeet d.base span b.alt b.span ||
     rangesMeet d.alt span b.base b.span || rangesMeet d.alt span b.alt b.span)

/-- The binding of a partition at a BASE. -/
def bindAt (s : State) (part base : Nat) : Option Bind := s.binds.find? fun b => b.part == part && b.base == base

/-- Whether an image names a binding again: the same BASE, ALT and SPAN (R336). -/
def repeatsBind (s : State) (d : Desc) : Bool :=
  d.space == 0 && d.dims.all (fun x => decide (0 ≤ x.str)) && s.binds.any fun b =>
    b.part == s.c.part && b.base == d.base && b.alt == d.alt && b.span == (d.high + 1).toNat

/-- `SluiceBind`: the status and the state. An exact repeat is accepted first. -/
def sluiceBind (s : State) (img : List Byte) (d : Desc) : Nat × State :=
  if repeatsBind s d then (0, s)
  else if bindRefused s d then (2, s)
  else if 64 ≤ (s.binds.filter fun b => b.part == s.c.part).length then (3, s)
  else (0, { s with binds := s.binds ++
    [{ part := s.c.part, base := d.base, alt := d.alt, span := (d.high + 1).toNat, cur := false, desc := img, torn := false }] })

/-- Whether a copy writes the shadow of the binding at a BASE. -/
def Copy.shadows (x : Copy) (part base : Nat) : Bool :=
  x.part == part && (match x.kind with | .shadow b _ => b == base | .slot _ _ _ => false)

/-- `SluiceUnbind`: the status and the state. -/
def sluiceUnbind (s : State) (d : Desc) : Nat × State :=
  match bindAt s s.c.part d.base with
  | none => (4, s)
  | some _ =>
    if s.copies.any fun x => x.shadows s.c.part d.base then (4, s)
    else (0, { s with binds := s.binds.filter fun b => !(b.part == s.c.part && b.base == d.base) })

/-! ## `dld` and `dst` (R334, R335) -/

/-- What `dld` does with an image that it has read: the status and the state. -/
def loadDesc (s : State) (img : List Byte) : Nat × State :=
  match parseDesc img with
  | none => (1, s)
  | some d => if d.bk = 1 then sluiceBind s img d else if d.bk = 2 then sluiceUnbind s d else (0, s)

/-- Replace descriptor register n. -/
def State.setDesc (s : State) (n : Nat) (img : List Byte) : State :=
  { s with c := { s.c with d := s.c.d.setIfInBounds n img } }

/-- `dld`. -/
def execDld (f : H2) (s : State) : Res :=
  let a := s.reg f.a.toNat
  if a.toNat % 128 ≠ 0 then .next (trapScalar s 0x04 a) else
  match loadLines s s.agent a.toNat 2 with
  | .trap c s => .next (trapScalar s c (lineTval s a))
  | .hold s => .next s
  | .ok img s =>
    let r := loadDesc s img
    let s := if r.1 = 0 then r.2.setDesc f.d.toNat img else r.2
    if f.b ≠ 0 then writeReg s f.b.toNat (wd r.1)
    else if r.1 ≠ 0 then .next (trapAt s 0x08 a)
    else .next s.adv

/-- Store bytes line by line from line i; a held instruction goes on where it stopped. -/
def storeLinesFrom (s : State) (ag : Agent) (va : Nat) (bs : List Byte) (i : Nat) : Nat → R Unit
  | 0 => .ok () s
  | n + 1 =>
    match storeMem s ag (va + 64 * i) ((bs.drop (64 * i)).take 64) with
    | .trap c s => .trap c (holdAt s i [])
    | .hold s => .hold (holdAt s i [])
    | .ok _ s => storeLinesFrom s ag va bs (i + 1) n

/-- The cause that a store of n bytes would trap with, if any. -/
def storeFault (s : State) (va n : Nat) : Option Nat :=
  match resolve s s.agent .store va n with
  | .error c => if c = busyCause then none else some c
  | .ok _ => if watchHit s s.c.part .store va n then some 0x0F else none

/-- `dst`. Both its lines are checked before one is stored (R114); on a remote frame they leave as one request. -/
def execDst (f : H2) (s : State) : Res :=
  let a := s.reg f.a.toNat
  let bs := s.c.descImg f.b.toNat
  let i := (s.c.hold.map Hold.elem).getD 0
  let stop := fun (x : Word) c => Host.Outcome.next (trapScalar (faultWalk s s.agent (sluiceFor s s.agent x.toNat)) c x)
  let split := endLines (storeLinesFrom s s.agent a.toNat bs i (2 - i)) a fun _ s => s.adv
  if a.toNat % 128 ≠ 0 then .next (trapScalar s 0x04 a)
  else if i = 2 then endAccess (farAccess s s.agent 0 0 0 128 1 0 8 0 0 bs) a fun _ s => s.adv
  else if s.c.hold.isSome then split
  else match storeFault s a.toNat 64, storeFault s (a.toNat + 64) 64 with
  | some c, _ => stop a c
  | none, some c => stop (a + 64) c
  | none, none =>
    match resolve s s.agent .store a.toNat 64 with
    | .ok (.far d pa k, t) =>
      match resolve t s.agent .store (a.toNat + 64) 64 with
      | .ok (.far d' pa' _, t) =>
        if d = d' && pa + 64 = pa' then
          match farAccess t s.agent d pa k 128 1 0 8 0 0 bs with
          | .hold t => .next (if (t.c.hold.bind Hold.tag).isSome then holdAt t 2 [] else t)
          | r => endAccess r a fun _ t => t.adv
        else split
      | _ => split
    | _ => split

/-! ## `fmt.ld` and `fmt.st` (R337, R338) -/

/-- The address of a format access. -/
def fmtAddr (s : State) (f : H2) : Word := s.reg f.a.toNat + wrap64 (8 * sval 8 f.imm.toNat)

/-- A format image with a reserved bit set loads as the after-reset value (R338). -/
def fmtLoaded (x : Word) : Word :=
  if nbits x.toNat 28 36 = 0 && nbits x.toNat 13 3 = 0 && nbits x.toNat 4 3 = 0 then x else 0

/-- `fmt.ld`. -/
def execFmtLd (f : H2) (s : State) : Res :=
  let a := fmtAddr s f
  if a.toNat % 8 ≠ 0 then .next (trapScalar s 0x04 a)
  else endAccess (loadMem s s.agent a.toNat 8) a fun bs s =>
    { s with c := { s.c with f := s.c.f.setIfInBounds f.d.toNat (fmtLoaded (wd (leNat bs))) } }.adv

/-- `fmt.st`. -/
def execFmtSt (f : H2) (s : State) : Res :=
  let a := fmtAddr s f
  if a.toNat % 8 ≠ 0 then .next (trapScalar s 0x04 a)
  else endAccess (storeMem s s.agent a.toNat (leBytes 8 (s.c.f[f.b.toNat]?.getD 0).toNat)) a fun _ s => s.adv

end Sys2Proof.Machine
end

