-- ==== Sys2Proof/Machine/VecMem.lean ====
section
/-! DEFINITION. Stream registers and vector memory instructions: majors 0x1E to 0x24 (R182, R203 to R211, R235 to
R252). -/
namespace Sys2Proof.Machine

/-! ## Stream registers (R240 to R242) -/

/-- The page of a stream that its position comes to (R228): the page next to the last that it holds, on the side that
its stride leads to, when the position is within one page of that last page; none for a stride above the page size. -/
def aheadPage (q : Stream) : Option Nat :=
  match q.held with
  | [] => none
  | t :: _ =>
    let size : Int := 2 ^ pageBits (eSize t.e)
    let up := decide (0 ≤ q.stride.toInt)
    let page := fun (x : Trans) => (x.va : Int) / size
    let last := q.held.foldl (fun m x => if up then max m (page x) else min m (page x)) (page t)
    let at_ := ((wrapN 64 ((q.base.toNat : Int) + q.pos.toInt * q.stride.toInt) : Nat) : Int) / size
    let next := (if up then last + 1 else last - 1) * size
    if size < q.stride.toInt.natAbs || 1 < (last - at_).natAbs || next < 0 || 2 ^ 56 ≤ next then none else some next.toNat

/-- Walk ahead (R228): no trap, no ACC or DRT, and no invalid entry is kept; the lines are read as by any walk (R223). -/
def walkAhead (s : State) (n : Nat) : State :=
  let q := s.c.stream n
  match aheadPage q with
  | none => s
  | some va =>
    if nbits va 48 8 = 0xFE || (q.held.any fun t => t.covers va) then s else
    match walkFrom s s.agent .load va s.myPart.root [4, 3, 2, 1, 0] with
    | .fault _ => touchWalk s s.agent va
    | .leaf e _ line => (touchWalk s s.agent va).setStream n fun q => { q with ahead := lineLeaves s va (eLevel e) line }

/-- `qset` with a stride (R240); no stream instruction runs while VILL is 1 (R140). -/
def setStreamTo (f : H2) (s : State) (stride : Word) : Res :=
  if s.c.vill then .next (illegal s) else
  .next (s.setStream f.d.toNat fun _ => { base := s.reg f.a.toNat, stride := stride, valid := true }).adv

/-- An instruction that names stream n: VILL (R140), then VALID (R241). DESIGN CHOICE (log 60): `qinfo` and its forms trap on
VALID = 0 as well, where R242 has Base and Stride read 0 until the first `qset`. -/
def onStream (s : State) (n : Nat) (k : Stream → Res) : Res :=
  if s.c.vill then .next (illegal s)
  else if !(s.c.stream n).valid then .next (trapAt s 0x08 (wd n))
  else k (s.c.stream n)

/-- `qset`. -/
def execQset (f : H2) (s : State) : Res := setStreamTo f s (s.reg f.b.toNat)
/-- `qset` with an immediate stride. -/
def execQsetImm (f : H2) (s : State) : Res := setStreamTo f s (f.imm.signExtend 64)
/-- `qadv` (R228: the position may have come to another page). -/
def execQadv (f : H2) (s : State) : Res :=
  onStream s f.d.toNat fun _ =>
    .next (walkAhead (s.setStream f.d.toNat fun q => { q with pos := q.pos + (s.reg f.a.toNat).setWidth 48 }) f.d.toNat).adv

/-- The state word (R242). -/
def streamWord (q : Stream) : Word :=
  wd (q.valid.toNat * 2 ^ 63 + q.stale.toNat * 2 ^ 62 + min 8 q.held.length * 2 ^ 58 + q.pos.toNat)

/-- `qinfo`. -/
def execQinfo (f : H2) (s : State) : Res := onStream s f.a.toNat fun q => writeReg s f.d.toNat (streamWord q)
/-- `qinfo.b`. -/
def execQinfoB (f : H2) (s : State) : Res := onStream s f.a.toNat fun q => writeReg s f.d.toNat q.base
/-- `qinfo.s`. -/
def execQinfoS (f : H2) (s : State) : Res := onStream s f.a.toNat fun q => writeReg s f.d.toNat q.stride

/-! ## Elements and their addresses (R182, R237) -/

/-- One access of an element: the address that `tval` shows, the virtual or window address, none when the space refuses
it, and the agent whose shares it meets. -/
structure Elt where
  tv : Nat
  va : Option Nat
  ag : Agent
  deriving DecidableEq, Repr

/-- The window address of a local space. -/
def windowAddr (win x : Nat) : Nat := 0xFE * 2 ^ 48 + win * 2 ^ 40 + x

/-- The core, physical lane, first position and size of the seat that serves a logical lane, and whether the seat is an
attached one (R30). -/
def laneHome (s : State) (l : Nat) : Nat × Nat × Nat × Nat × Bool :=
  let t := s.mySeat
  let own := t.lanes s.c.slot
  if l < own then (s.c.core, t.laneBase s.c.slot + l, t.pos, t.size, false)
  else
    let g := s.c.gang.getD ((l - own) / 256) (0, 0)
    (g.1, (l - own) % 256, g.2, ((s.seat? g.1 g.2).map Seat.size).getD 1, true)

/-- A lane-slice access (R182, R248): the offset within the slice of the lane of element e. `strict` holds it to the
seat's own share. -/
def laneElt (s : State) (strict : Bool) (e off : Nat) : Elt :=
  let h := laneHome s (e % s.lanes)
  let share := decide (h.2.2.1 ≤ off / 512) && decide (off / 512 < h.2.2.1 + h.2.2.2.1)
  let ok := decide (off < 2 ^ 11) && (!(strict || h.2.2.2.2) || share)
  { tv := off, va := if ok then some (windowAddr 4 (h.2.1 * 2 ^ 11 + off)) else none, ag := { s.agent with core := h.1 } }

/-- The virtual or window address of an address in a space from 0 to 3 (R182), none when the space refuses it. -/
def spaceVa (sp addr : Nat) : Option Nat :=
  if sp = 0 then some addr
  else if addr < 2 ^ (if sp = 1 then 22 else 26) then some (windowAddr sp addr) else none

/-- An access in the space of `vcfg` (R182). -/
def spaceElt (s : State) (e addr : Nat) : Elt :=
  if s.c.space = 4 then laneElt s false e addr
  else { tv := addr, va := spaceVa s.c.space addr, ag := s.agent }

/-- The address of field j of element e of stream n, with its own translations (R227, R237). -/
def streamElt (s : State) (n : Nat) (q : Stream) (w e j : Nat) : Elt :=
  let i := if s.c.space = 4 then (q.pos.toInt + e) / s.lanes else q.pos.toInt + e
  let x := spaceElt s e (wrapN 64 ((q.base.toNat : Int) + i * q.stride.toInt + j * w))
  { x with ag := { x.ag with unit := 4 + n } }

/-- Element e of an index register (R237). -/
def indexOf (s : State) (reg e : Nat) : Int := sval s.c.ew (s.elem s.c.ew reg e)

/-- The address of an indexed element. -/
def indexElt (s : State) (q : Stream) (reg e : Nat) : Elt :=
  spaceElt s e (wrapN 64 ((q.base.toNat : Int) + indexOf s reg e))

/-! ## The loop (R207 to R211, R238) -/

/-- How a vector memory instruction leaves its loop: done, stopped by a fault at element k with the elements that it had
not come to, or held with the elements that remain. -/
inductive VOut where
  | done (s : State)
  | fault (cause k tval : Nat) (rest : List Nat) (s : State)
  | hold (todo : List Nat) (s : State)

/-- A vector memory instruction: kind of access, element bytes, the accesses of an element, the loads that come before
them, and what an element does. -/
structure VPlan where
  acc : Acc
  w : Nat
  elts : Nat → List Elt
  srcs : Nat → List Elt := fun _ => []
  act : Nat → State → R State

/-- Every access of an element with its kind. -/
def VPlan.accesses (p : VPlan) (e : Nat) : List (Acc × Elt) :=
  (p.srcs e).map (fun x => (Acc.load, x)) ++ (p.elts e).map fun x => (p.acc, x)

/-- The cause that an access would trap with before its data are read, if any; alignment aside. -/
def eltFault (s : State) (acc : Acc) (w : Nat) (x : Elt) : Option Nat :=
  match x.va with
  | none => some 0x08
  | some va =>
    match resolve s x.ag acc va w with
    | .error c => if c = busyCause then none else some c
    | .ok _ => if watchHit s x.ag.part acc va w then some 0x0F else none

/-- The kind of the page that an access lies on, if it lies on one. -/
def eltKind (s : State) (acc : Acc) (w : Nat) (x : Elt) : Option Nat :=
  match x.va.map fun va => resolve s x.ag acc va w with
  | some (.ok (.near p, _)) => some p.kind
  | some (.ok (.far _ _ k, _)) => some k
  | _ => none

/-- Whether an access lies on an SO page. -/
def eltSO (s : State) (acc : Acc) (w : Nat) (x : Elt) : Bool := eltKind s acc w x == some 0

/-- Whether the search of R207 meets an SO page before a page whose check fails. -/
def meetsSO (s : State) (p : VPlan) : List (Acc × Elt) → Bool
  | [] => false
  | x :: t =>
    if (eltFault s x.1 p.w x.2).isSome then false
    else if eltSO s x.1 p.w x.2 then true else meetsSO s p t

/-- The first fault of the checks of an element: alignment first (R238). -/
def elementFault (s : State) (p : VPlan) : List (Acc × Elt) → Option (Nat × Nat)
  | [] => none
  | x :: t =>
    if x.2.tv % p.w ≠ 0 then some (0x04, x.2.tv) else
    match eltFault s x.1 p.w x.2 with
    | some c => some (c, x.2.tv)
    | none => elementFault s p t

/-- Change the hold of the running context. -/
def State.setHold (s : State) (f : Hold → Hold) : State :=
  { s with c := { s.c with hold := some (f (s.c.hold.getD { stamp := s.now })) } }

/-- Drop what has been gathered for an element that is done. -/
def dropFields (s : State) : State :=
  { s with c := { s.c with hold := s.c.hold.map fun h => { h with aux := [], stopAt := none } } }

/-- The fields of the element that a held instruction has gathered. -/
def gathered (s : State) : List Word := (s.c.hold.map Hold.aux).getD []

/-- Keep the fields gathered so far, and the address of the access that stops the element. -/
def holdFields (s : State) (l : List Word) (tv : Nat) : State := s.setHold fun h => { h with aux := l, stopAt := some tv }

/-- The backings of the buffers that an element's accesses lie in, as they stand (R262). -/
def backsOf (s : State) (xs : List (Acc × Elt)) : List (Nat × Bool) :=
  xs.filterMap fun x => x.2.va.bind fun va => (bindOver s x.2.ag.part va).map fun b => (b.base, b.cur)

/-- Keep the backing of each buffer that a performed element is the first to reach (R262). -/
def keepBacks (s : State) (xs : List (Acc × Elt)) : State :=
  if s.binds.isEmpty then s else s.setHold fun h =>
    { h with backs := h.backs ++ (backsOf s xs).filter fun b => !(h.backs.any fun x => x.1 == b.1) }

/-- The state at a fault that the checks of accesses have found: the walk of the access that failed has read its lines
(R223). -/
def checkedFault (s : State) (tv : Nat) (xs : List (Acc × Elt)) : State :=
  match (xs.find? fun x => x.2.tv == tv).bind fun x => x.2.va.map fun va => (x.2.ag, va) with
  | some (ag, va) => faultWalk s ag (sluiceFor s ag va)
  | none => s

/-- Perform elements in a given order. A trap of an access names the access after those that are done. One whose answer has come
is checked no more. -/
def vecLoop (p : VPlan) (s : State) : List Nat → VOut
  | [] => .done s
  | e :: es =>
    match if (s.c.hold.bind Hold.ans).isSome then none else elementFault s p (p.accesses e) with
    | some (c, tv) => .fault c e tv es (checkedFault s tv (p.accesses e))
    | none =>
      match p.act e (keepBacks s (p.accesses e)) with
      | .ok t _ => vecLoop p (dropFields t) es
      | .trap c t => .fault c e ((t.c.hold.bind Hold.stopAt).getD 0) es t
      | .hold t => .hold (e :: es) t

/-! ## Elements on UO pages (R205, R209) -/

/-- Whether an access lies on a UO page of this device, and nothing can keep it from being performed at once: an atomic goes to
the host, or nowhere, from a page that is not of device memory (R118). -/
def sureAccess (s : State) (p : VPlan) (x : Acc × Elt) : Bool :=
  match x.2.va.map fun va => resolve s x.2.ag x.1 va p.w with
  | some (.ok (.near q, _)) =>
    q.kind == 2 && !poisoned s q.key p.w && !q.pa.any (switching s) && (x.1 != .atomic || q.pa.isSome)
  | _ => false

/-- Whether an element lies on UO pages alone and can be performed at once. -/
def sureElt (s : State) (p : VPlan) (e : Nat) : Bool :=
  (elementFault s p (p.accesses e)).isNone && (p.accesses e).all (sureAccess s p)

/-- The storage key of an access on this device. -/
def eltKey (s : State) (p : VPlan) (x : Elt) : Option Nat :=
  match x.va.map fun va => resolve s x.ag p.acc va p.w with
  | some (.ok (.near q, _)) => some q.key
  | _ => none

/-- A list in an order that free values choose, with the number of values used. -/
def freeOrder (n : Nat) : Nat → List Nat → List Nat
  | 0, _ => []
  | k + 1, l =>
    let i := (Config.freeWord n).toNat % l.length
    l.getD i 0 :: freeOrder (n + 1) k (l.eraseIdx i)

/-- A run of sure elements: in a free order when two of them write one location, else as it stands (R205, log 19). -/
def orderRun (p : VPlan) (s : State) (run : List Nat) : State × List Nat :=
  if ((run.flatMap p.elts).filterMap (eltKey s p)).Nodup then (s, run)
  else (s.useFree run.length, freeOrder s.free run.length run)

/-- The elements in order, but for the order within each run of elements that lie on UO pages alone; `run` is the run so
far. No element leaves its place for one on an RC or SO page, or for one that may stop the instruction (R204, R206). -/
def runsFrom (p : VPlan) (s : State) (run : List Nat) : List Nat → State × List Nat
  | [] => orderRun p s run
  | e :: es =>
    if sureElt s p e then runsFrom p s (run ++ [e]) es
    else
      let r := orderRun p s run
      let q := runsFrom p r.1 [] es
      (q.1, r.2 ++ e :: q.2)

/-- The order of an instruction whose elements on UO pages have none (R205). -/
def uoOrder (p : VPlan) (s : State) (es : List Nat) : State × List Nat := runsFrom p s [] es

/-- Element order. -/
def elementOrder (s : State) (es : List Nat) : State × List Nat := (s, es)

/-- Elements above a fault on a UO page: a free value says of each sure one whether it has been performed (R209). -/
def performAbove (p : VPlan) (s : State) : List Nat → State
  | [] => s
  | e :: es =>
    if !sureElt s p e then performAbove p s es
    else
      let go := s.freeVal.getLsbD 0
      let s := s.useFree 1
      if go then
        match p.act e (keepBacks s (p.accesses e)) with
        | .ok t _ => performAbove p (dropFields t) es
        | _ => performAbove p s es
      else performAbove p s es

/-! ## A whole instruction (R207 to R211, R238) -/

/-- Raise a vector memory trap at element k. -/
def vecMemTrap (s : State) (c k tval : Nat) : State := trapVector s c (if c = 0x0C then 2 else 1) k (wd tval) none

/-- The active elements of a vector memory instruction from its start element on. -/
def toPerform (s : State) (mask : BitVec 4) : List Nat := s.c.actives mask s.c.startElem s.c.vlen

/-- Perform elements; after a fault the lower ones that were still to come are performed first, and the lowest element
that faults is the instruction's. -/
def vecElems (p : VPlan) (s : State) (es : List Nat) : VOut :=
  match vecLoop p s es with
  | .fault c k tv rest s =>
    match vecLoop p (dropFields s) ((rest.filter fun e => decide (e < k)).mergeSort (· ≤ ·)) with
    | .done s => .fault c k tv (rest.filter fun e => decide (k < e)) s
    | .fault c k' tv _ s => .fault c k' tv (rest.filter fun e => decide (k < e)) s
    | .hold todo s => .hold (todo ++ k :: rest.filter fun e => decide (k < e)) s
  | o => o

/-- Trap at element k. What a store or load of elements on UO pages had performed above it is a free choice. -/
def vecStop (p : VPlan) (s : State) (c k tval : Nat) (rest : List Nat) : State :=
  vecMemTrap (if p.acc = .atomic then s else performAbove p s rest) c k tval

/-- Mark the instruction that a trap has stopped as one whose footprint touches an SO page: nothing has started behind it
(R203). -/
def markSO (so : Bool) (s : State) : State :=
  if so then { s with c := { s.c with resume := s.c.resume.map fun r => { r with so := true } } } else s

/-- The first element that a vector memory instruction does not come to now: that of the group in which a residue mismatch
stops it (R453), or where its context is being stopped (R445). -/
def Ctx.memLimit (c : Ctx) : Option Nat :=
  match c.perr with
  | some (g, _) => some (max c.startElem (g / 256 * 256))
  | none => c.stopping

/-- A vector memory instruction has performed the elements below its limit: its residue mismatch stops it, or it waits where
it stands. -/
def vecMemHalt (s : State) (rest : List Nat) : State :=
  match s.c.perr, s.c.memLimit with
  | some (_, tv), some k => pipeTrap s k tv none
  | _, _ => s.setHold fun h => { h with todo := some rest }

/-- The end of a vector memory instruction; of one that stops part-way, what it holds stays to be read (R262). -/
def vecMemEnd (s : State) (fin : State → State) : State :=
  let t := (fin { s with c := { s.c with perr := none } }).adv
  if s.c.stop.isSome then { t with c := { t.c with hold := s.c.hold } } else t

/-- Perform the elements `l` of a vector memory instruction in their order, as far as its limit allows. -/
def vecMemGo (s : State) (p : VPlan) (so : Bool) (l : List Nat) (fin : State → State) : State :=
  let later := fun e => s.c.memLimit.any fun n => decide (n ≤ e)
  let rest := l.filter later
  match vecElems p s (l.filter fun e => !later e) with
  | .done s => if rest.isEmpty then vecMemEnd s fin else vecMemHalt s rest
  | .fault c k tv above s => markSO so (vecStop p s c k tv above)
  | .hold todo s => s.setHold fun h => { h with todo := some (todo ++ rest) }

/-- Run a vector memory instruction over the elements `es`, its footprint, in the order `order` gives, or over those that a
held one has left; `pos` is the stream position that it has captured and `fin` what its completion does besides. A footprint
that touches an SO page is checked whole before anything is written (R207), and never starts behind another instruction
(R203). -/
def vecMemOver (s : State) (p : VPlan) (pos : Option (BitVec 48)) (es : List Nat)
    (order : List Nat → State × List Nat) (fin : State → State) : Res :=
  let all := es.flatMap p.accesses
  let so := meetsSO s p all
  match s.c.hold.bind Hold.todo with
  | some l => .next (vecMemGo s p so l fin)
  | none =>
    if s.c.stop.isSome && so then .next s else
    match if s.c.hold.isNone && so then all.findSome? fun x => (eltFault s x.1 p.w x.2).map fun c => (c, x.2.tv) else none with
    | some (c, tv) => .next (markSO true (trapAt (checkedFault s tv all) c (wd tv)))
    | none =>
      let o := order (es.filter fun e => s.c.stop.all fun n => decide (e < n))
      let backs := if s.c.resuming then [] else (s.c.entry0.map Prog.backs).getD []
      .next (vecMemGo (o.1.setHold fun h => { h with pos := pos, backs := h.backs ++ backs }) p so o.2 fin)

/-- Run a vector memory instruction over its active elements. -/
def vecMemRun (s : State) (mask : BitVec 4) (p : VPlan) (pos : Option (BitVec 48)) (order : List Nat → State × List Nat)
    (fin : State → State) : Res :=
  vecMemOver s p pos (toPerform s mask) order fin

/-! ## Issue checks (R235, R241) -/

/-- The checks of R235: width, VILL, and groups given by first register and number of registers. -/
def vecMemOk (s : State) (ty : Nat) (groups : List (Nat × Nat)) : Bool :=
  !s.c.vill && tyWidth ty == s.c.ew && groups.all fun x => x.1 % s.c.grp = 0 && decide (x.1 + x.2 ≤ 32)

/-- A vector memory instruction that names stream n: the checks, then VALID. The stream form takes the position that it
captured when it first issued (R241). -/
def atStream (s : State) (f : H2) (n : Nat) (groups : List (Nat × Nat)) (k : Stream → Res) : Res :=
  if !vecMemOk s f.ty.toNat groups then .next (illegal s)
  else onStream s n fun q => k { q with pos := s.c.capPos.getD q.pos }

/-- The completion of a stream form that captured a position: the register stands `vl` beyond it, and walks ahead. -/
def advanceStream (n : Nat) (pos : BitVec 48) (vl : Nat) (s : State) : State :=
  walkAhead (s.setStream n fun q => { q with pos := pos + BitVec.ofNat 48 vl }) n

/-- The whole of a stream form. -/
def streamRun (s : State) (f : H2) (q : Stream) (p : VPlan) (order : List Nat → State × List Nat) : Res :=
  vecMemRun s f.mask p (some q.pos) order (advanceStream f.a.toNat q.pos s.c.vlen)

/-! ## What an element does -/

/-- Load the fields of an element after those gathered in `l`. -/
def loadFields (s : State) (w : Nat) (l : List Word) : List Elt → R (List Word)
  | [] => .ok l s
  | x :: t =>
    match loadMem s x.ag (x.va.getD 0) w with
    | .trap c s => .trap c (holdFields s l x.tv)
    | .hold s => .hold (holdFields s l x.tv)
    | .ok bs s => loadFields s w (l ++ [wd (leNat bs)]) t

/-- The remote frame that an access reaches: device, address and kind. -/
def farPlace (s : State) (acc : Acc) (w : Nat) (x : Elt) : Option (Nat × Nat × Nat) :=
  match x.va.map fun va => resolve s x.ag acc va w with
  | some (.ok (.far d pa k, _)) => some (d, pa, k)
  | _ => none

/-- Whether places of w bytes each follow one another on one device. -/
def adjoining (w : Nat) : List (Option (Nat × Nat × Nat)) → Bool
  | some a :: some b :: t => a.1 == b.1 && a.2.1 + w == b.2.1 && adjoining w (some b :: t)
  | [some _] => true
  | _ => false

/-- Store the fields of an element one by one; `n` are stored already. -/
def storeFields (s : State) (w n : Nat) : List (Elt × Nat) → R State
  | [] => .ok s s
  | (x, v) :: t =>
    match storeMem s x.ag (x.va.getD 0) (leBytes w v) with
    | .trap c s => .trap c (holdFields s (List.replicate n 0) x.tv)
    | .hold s => .hold (holdFields s (List.replicate n 0) x.tv)
    | .ok _ s => storeFields s w (n + 1) t

/-- Store the fields of an element. Remote fields that adjoin leave as one request, so that its refusal stores none of
them; of an element that lies here in part, the remote fields are stored first (R245, log 55). -/
def storeElt (s : State) (w : Nat) (xs : List (Elt × Nat)) : R State :=
  let far := xs.map fun x => farPlace s .store w x.1
  match far.head?.join, xs with
  | some (d, pa, k), (x, _) :: _ :: _ =>
    if adjoining w far then
      match farAccess s x.ag d pa k (w * xs.length) 1 0 8 0 0 (xs.flatMap fun y => leBytes w y.2) with
      | .ok _ s => .ok s s
      | .trap c s => .trap c (holdFields s [] x.tv)
      | .hold s => .hold (holdFields s [] x.tv)
    else storeMixed s xs
  | _, _ => storeMixed s xs
where
  /-- The remote fields first. -/
  storeMixed (s : State) (xs : List (Elt × Nat)) : R State :=
    let n := (gathered s).length
    storeFields s w n (((xs.filter fun x => (farPlace s .store w x.1).isSome) ++
      xs.filter fun x => (farPlace s .store w x.1).isNone).drop n)

/-- Write the fields of element e into the groups from register d, g registers apart. -/
def setFields (s : State) (w d g e : Nat) : List Word → State
  | [] => s
  | v :: t => setFields (s.setElem (8 * w) d e v.toNat) w (d + g) g e t

/-- A load of nf fields into groups from d. -/
def loadPlan (s0 : State) (w d : Nat) (elts : Nat → List Elt) : VPlan :=
  { acc := .load, w := w, elts := elts,
    act := fun e s => match loadFields s w (gathered s) ((elts e).drop (gathered s).length) with
      | .ok l s => let t := setFields s w d s0.c.grp e l
                   .ok t t
      | .trap c s => .trap c s
      | .hold s => .hold s }

/-- Clear the poison of units that the elements `done e` of a store cover whole together (R455). -/
def cleanUnits (w : Nat) (elts : Nat → List Elt) (done : Nat → List Nat) (e : Nat) (s : State) : State :=
  if s.poison.isEmpty then s
  else unpoisonAll s (((done e).flatMap elts).filterMap fun x => x.va.bind fun va => storedPiece w (resolve s x.ag .store va w))

/-- A store of nf fields from groups from b. -/
def storePlan (s0 : State) (mask : BitVec 4) (w b : Nat) (elts : Nat → List Elt) : VPlan :=
  { acc := .store, w := w, elts := elts,
    act := fun e s =>
      let xs := elts e
      match storeElt s w (xs.zip ((List.range xs.length).map fun j => s0.elem (8 * w) (b + j * s0.c.grp) e)) with
      | .ok s _ => let t := cleanUnits w elts (fun e => s0.c.actives mask s0.c.startElem (e + 1)) e s
                   .ok t t
      | .trap c s => .trap c s
      | .hold s => .hold s }

/-! ## Loads and stores (R243 to R248) -/

/-- A stream load of nf fields. -/
def streamLoad (f : H2) (nf : Nat) (s : State) : Res :=
  atStream s f f.a.toNat [(f.d.toNat, nf * s.c.grp)] fun q =>
    let w := s.c.ew / 8
    streamRun s f q (loadPlan s w f.d.toNat fun e => (List.range nf).map (streamElt s f.a.toNat q w e)) (elementOrder s)

/-- A stream store of nf fields. -/
def streamStore (f : H2) (nf : Nat) (s : State) : Res :=
  atStream s f f.a.toNat [(f.b.toNat, nf * s.c.grp)] fun q =>
    let w := s.c.ew / 8
    let p := storePlan s f.mask w f.b.toNat fun e => (List.range nf).map (streamElt s f.a.toNat q w e)
    streamRun s f q p (uoOrder p s)

/-- `vld`. -/
def execVld (f : H2) (s : State) : Res := streamLoad f 1 s
/-- `vlds`. -/
def execVlds (f : H2) (s : State) : Res := streamLoad f f.imm.toNat s
/-- `vst`. -/
def execVst (f : H2) (s : State) : Res := streamStore f 1 s
/-- `vsts`. -/
def execVsts (f : H2) (s : State) : Res := streamStore f f.imm.toNat s

/-- Fetch the line of an element into the caches, without a trap and without ACC or DRT; what lies elsewhere is skipped
(R246). `l1` says whether the L1 is filled too. -/
def prefetchElt (l1 : Bool) (w : Nat) (s : State) (x : Elt) : State :=
  let va := sluiceFor s x.ag x.tv
  if x.tv % w ≠ 0 || 2 ^ 56 ≤ va || nbits va 48 8 = 0xFE || watchHit s x.ag.part .load x.tv w then s else
  match walkFrom s x.ag .load va (s.part x.ag.part).root [4, 3, 2, 1, 0] with
  | .fault _ => s
  | .leaf e _ line =>
    match leafPlace s x.ag .load va w e line with
    | .ok (.near p) =>
      if poisoned s p.key w || !(p.tile.any fun k => l1 || (tcSlot s k p.die).isSome) then s
      else cacheRead s { x.ag with seq := l1 } p w
    | _ => s

/-- `vpf` (R246): a hint. A free value says at which element the hardware drops it. -/
def execVpf (f : H2) (s : State) : Res :=
  if s.c.vill then .next (illegal s)
  else if s.c.space ≠ 0 || !(s.c.stream f.a.toNat).valid then .next s.adv
  else
    let q := s.c.stream f.a.toNat
    let pos := q.pos.toInt + f.imm.toNat * s.c.vlen
    let es := (List.range (s.freeVal.toNat % (s.c.vlen + 1))).map fun e =>
      streamElt s f.a.toNat { q with pos := BitVec.ofInt 48 pos } (s.c.ew / 8) e 0
    .next (es.foldl (prefetchElt (f.sub == 0) (s.c.ew / 8)) (s.useFree 1)).adv

/-- `vldx` (R247). -/
def execVldx (f : H2) (s : State) : Res :=
  let g := s.c.grp
  atStream s f f.a.toNat [(f.d.toNat, g), (f.b.toNat, g)] fun q =>
    vecMemRun s f.mask (loadPlan s (s.c.ew / 8) f.d.toNat fun e => [indexElt s q f.b.toNat e]) none (elementOrder s) id

/-- `vstx` (R247): DST names the data. -/
def execVstx (f : H2) (s : State) : Res :=
  let g := s.c.grp
  atStream s f f.a.toNat [(f.d.toNat, g), (f.b.toNat, g)] fun q =>
    let p := storePlan s f.mask (s.c.ew / 8) f.d.toNat fun e => [indexElt s q f.b.toNat e]
    vecMemRun s f.mask p none (uoOrder p s) id

/-- A lane-slice access of a plain form and of an indexed form (R237, R248). -/
def laneOffset (s : State) (f : H2) (indexed : Bool) (e : Nat) : Elt :=
  let a : Int := (s.num f.a : Nat)
  laneElt s true e (wrapN 64 (if indexed then a + indexOf s f.b.toNat e else a + e / s.lanes * (s.c.ew / 8)))

/-- A lane-slice instruction. -/
def laneForm (f : H2) (indexed load : Bool) (s : State) : Res :=
  let g := s.c.grp
  if !vecMemOk s f.ty.toNat ((f.d.toNat, g) :: if indexed then [(f.b.toNat, g)] else []) then .next (illegal s) else
  let elts := fun e => [laneOffset s f indexed e]
  let w := s.c.ew / 8
  vecMemRun s f.mask (if load then loadPlan s w f.d.toNat elts else storePlan s f.mask w f.d.toNat elts) none
    (elementOrder s) id

/-- `vldl`. -/
def execVldl (f : H2) (s : State) : Res := laneForm f false true s
/-- `vldl`, indexed. -/
def execVldlIndexed (f : H2) (s : State) : Res := laneForm f true true s
/-- `vstl`. -/
def execVstl (f : H2) (s : State) : Res := laneForm f false false s
/-- `vstl`, indexed. -/
def execVstlIndexed (f : H2) (s : State) : Res := laneForm f true false s

/-! ## Atomics and memory reductions (R249 to R252) -/

/-- An atomic on each element: the operand and the expected value are read from the state before it, and `keep` says
that the old value returns into DST. -/
def atomicPlan (s0 : State) (f : H2) (fn b : Nat) (keep : Bool) (elts : Nat → List Elt) : VPlan :=
  let w := s0.c.ew
  { acc := .atomic, w := w / 8, elts := elts,
    act := fun e s =>
      let x := (elts e).headD { tv := 0, va := none, ag := s.agent }
      match atomicMem s x.ag (x.va.getD 0) fn f.ty.toNat (s0.elem w b e) (s0.elem w f.d.toNat e) with
      | .ok m s => let t := if keep then s.setElem w f.d.toNat e m else s
                   .ok t t
      | .trap c s => .trap c (holdFields s [] x.tv)
      | .hold s => .hold s }

/-- A vector atomic or reduction with its ordering (R249, R250, R252): a release is met before the first element. -/
def withOrder (f : H2) (s : State) (k : State → Res) : Res :=
  if 2 ≤ nbits f.imm.toNat 6 2 && s.c.hold.isNone then releasing s f.sub.toNat k else k s

/-- Whether a vector atomic or reduction is an acquire (R249, R250). -/
def isAcquire (f : H2) : Bool := nbits f.imm.toNat 6 2 % 2 == 1

/-- The acquire of a vector atomic (R199, R252): the stores that its elements have read are performed at its scope. -/
def acquireElts (f : H2) (p : VPlan) (s0 s : State) : State :=
  if isAcquire f then
    ((s0.c.actives f.mask 0 s0.c.vlen).flatMap p.elts).foldl (fun s x =>
      match x.va with
      | some va => acquired s f.sub.toNat va p.w
      | none => s) s
  else s

/-- A returning atomic (R249). -/
def vecAtomic (fn : Nat) (f : H2) (s : State) : Res :=
  let g := s.c.grp
  let n := f.imm.toNat % 32
  let regs := [f.d.toNat, f.b.toNat] ++ if fn = 8 then [n] else []
  if !decide regs.Nodup then .next (illegal s) else
  atStream s f f.a.toNat (regs.map fun r => (r, g)) fun q => withOrder f s fun s =>
    let p := atomicPlan s f fn (if fn = 8 then n else f.d.toNat) true fun e => [indexElt s q f.b.toNat e]
    vecMemRun s f.mask p none (elementOrder s) (acquireElts f p s)

/-- `vamo.add`. -/
def execVamoAdd (f : H2) (s : State) : Res := vecAtomic 0 f s
/-- `vamo.fadd`. -/
def execVamoFadd (f : H2) (s : State) : Res := vecAtomic 1 f s
/-- `vamo.and`. -/
def execVamoAnd (f : H2) (s : State) : Res := vecAtomic 2 f s
/-- `vamo.or`. -/
def execVamoOr (f : H2) (s : State) : Res := vecAtomic 3 f s
/-- `vamo.xor`. -/
def execVamoXor (f : H2) (s : State) : Res := vecAtomic 4 f s
/-- `vamo.min`. -/
def execVamoMin (f : H2) (s : State) : Res := vecAtomic 5 f s
/-- `vamo.max`. -/
def execVamoMax (f : H2) (s : State) : Res := vecAtomic 6 f s
/-- `vamo.swap`. -/
def execVamoSwap (f : H2) (s : State) : Res := vecAtomic 7 f s
/-- `vamo.cas`. -/
def execVamoCas (f : H2) (s : State) : Res := vecAtomic 8 f s

/-- The order of a reduction's elements: free on a UO page where additions round (R205). -/
def redOrder (fn : Nat) (p : VPlan) (s : State) (es : List Nat) : State × List Nat :=
  if fn = 1 then uoOrder p s es else (s, es)

/-- An indexed memory reduction (R250). -/
def vecRedIndexed (fn : Nat) (f : H2) (s : State) : Res :=
  let g := s.c.grp
  atStream s f f.a.toNat [(f.d.toNat, g), (f.b.toNat, g)] fun q => withOrder f s fun s =>
    let p := atomicPlan s f fn f.d.toNat false fun e => [indexElt s q f.b.toNat e]
    vecMemRun s f.mask p none (redOrder fn p s) id

/-- A stream memory reduction (R250). -/
def vecRedStream (fn : Nat) (f : H2) (s : State) : Res :=
  atStream s f f.a.toNat [(f.d.toNat, s.c.grp)] fun q => withOrder f s fun s =>
    let p := atomicPlan s f fn f.d.toNat false fun e => [streamElt s f.a.toNat q (s.c.ew / 8) e 0]
    streamRun s f q p (redOrder fn p s)

/-- `vred.add`, indexed. -/
def execVredAddIndexed (f : H2) (s : State) : Res := vecRedIndexed 0 f s
/-- `vred.fadd`, indexed. -/
def execVredFaddIndexed (f : H2) (s : State) : Res := vecRedIndexed 1 f s
/-- `vred.and`, indexed. -/
def execVredAndIndexed (f : H2) (s : State) : Res := vecRedIndexed 2 f s
/-- `vred.or`, indexed. -/
def execVredOrIndexed (f : H2) (s : State) : Res := vecRedIndexed 3 f s
/-- `vred.xor`, indexed. -/
def execVredXorIndexed (f : H2) (s : State) : Res := vecRedIndexed 4 f s
/-- `vred.min`, indexed. -/
def execVredMinIndexed (f : H2) (s : State) : Res := vecRedIndexed 5 f s
/-- `vred.max`, indexed. -/
def execVredMaxIndexed (f : H2) (s : State) : Res := vecRedIndexed 6 f s
/-- `vred.add`, stream. -/
def execVredAddStream (f : H2) (s : State) : Res := vecRedStream 0 f s
/-- `vred.fadd`, stream. -/
def execVredFaddStream (f : H2) (s : State) : Res := vecRedStream 1 f s
/-- `vred.and`, stream. -/
def execVredAndStream (f : H2) (s : State) : Res := vecRedStream 2 f s
/-- `vred.or`, stream. -/
def execVredOrStream (f : H2) (s : State) : Res := vecRedStream 3 f s
/-- `vred.xor`, stream. -/
def execVredXorStream (f : H2) (s : State) : Res := vecRedStream 4 f s
/-- `vred.min`, stream. -/
def execVredMinStream (f : H2) (s : State) : Res := vecRedStream 5 f s
/-- `vred.max`, stream. -/
def execVredMaxStream (f : H2) (s : State) : Res := vecRedStream 6 f s

end Sys2Proof.Machine
end

