-- ==== Sys2Proof/Machine/Watch.lean ====
section
/-! DEFINITION. Watched frames (R457) and the execute ranges of watchpoints (R456). -/
namespace Sys2Proof.Machine

/-- First byte and size of a watchpoint's range (R456). -/
def wptBase (w : Word) : Nat := nbits w.toNat 0 56 / 2 ^ nbits w.toNat 56 5 * 2 ^ nbits w.toNat 56 5
def wptSize (w : Word) : Nat := 2 ^ nbits w.toNat 56 5

/-- The HBM frame of a virtual address under a partition's tables, if it has one. -/
def frameOf (s : State) (part va : Nat) : Option Nat :=
  match walkFrom s (engineAgent part) .load va (s.part part).root [4, 3, 2, 1, 0] with
  | .fault _ => none
  | .leaf e _ _ =>
    let pa := eFrame e * 4096 + va % 2 ^ pageBits (eSize e)
    if eRMT e || !decide (pa < hbmEnd) then none else some pa

/-- The pieces of a range that have a frame: number of the watchpoint, physical address, bytes. -/
def watchPieces (s : State) (part n base size : Nat) : List (Nat × Nat × Nat) :=
  let step := min size 4096
  (List.range (size / step)).filterMap fun i => (frameOf s part (base + i * step)).map fun pa => (n, pa, step)

/-- A write of `wpt`n (R456, R457): its range is translated, and the frames are watched until the next write. -/
def writeWpt (s : State) (part n : Nat) (x : Word) : State :=
  let new := if x.getLsbD 63 then watchPieces s part n (wptBase x) (wptSize x) else []
  s.setPart part fun p => { p with wpt := p.wpt.setIfInBounds n x, watch := (p.watch.filter fun e => e.1 != n) ++ new }

/-- Whether a write of n bytes at an HBM address touches a frame that a partition watches. -/
def watches (p : Part) (pa n : Nat) : Bool :=
  p.watch.any fun e => decide (e.2.1 < pa + n) && decide (pa < e.2.1 + e.2.2)

/-- Queue the watch events of a write made by an engine or from outside (R457, R458). -/
def watchWrite (s : State) (pa n who : Nat) : State :=
  (List.range 64).foldl (fun s p => if watches (s.part p) pa n then s.postEvent p 3 who pa else s) s

/-- WHO of a watch event (R458): device, partition, core and engine (0 copy, 1 routing, 2 remote, 3 `mst`, 4 host). -/
def watchWho (dev part core engine : Nat) : Nat := dev * 2 ^ 32 + part * 2 ^ 24 + core * 256 + engine

/-- Whether the head at an address lies in an enabled execute range (R456). -/
def execHit (s : State) (a : Nat) : Bool :=
  (s.part s.c.part).wpt.toList.any fun w => w.getLsbD 61 && decide (wptBase w ≤ a) && decide (a < wptBase w + wptSize w)

end Sys2Proof.Machine
end

