-- ==== Sys2Proof/Machine/Copy.lean ====
section
/-! DEFINITION. Tensor copies, their engine and `pub`: majors 0x2C and 0x2D (R212 to R214, R260 to R262, R353 to
R361). -/
namespace Sys2Proof.Machine

/-! ## Elements of a copy (R354, R355) -/

/-- The source element of a destination index vector, none where the element is zero. -/
def srcIndex (src : Desc) (is : List Nat) : Option (List Nat) :=
  (is.zip src.dims).mapM fun p => boundIdx ((p.1 : Int) - p.2.shf) p.2

/-- The address of destination element k, and of its source element. -/
def dstAddr (d : Desc) (k : Nat) : Nat := d.addrAt (indexVec d.dims k)
def srcAddr (d src : Desc) (k : Nat) : Option Nat := (srcIndex src (indexVec d.dims k)).map src.addrAt

/-- The checks of R355. -/
def copyOk (d src : Desc) : Bool :=
  d.bytes == src.bytes && d.space ≤ 3 && src.space ≤ 3 && d.dims.all fun x => x.shf == 0

/-- The two descriptors of a copy, when the checks hold. -/
def copyDescs (s : State) (dn sn : Nat) : Option (Desc × Desc) :=
  match s.c.desc dn, s.c.desc sn with
  | some d, some src => if copyOk d src then some (d, src) else none
  | _, _ => none

/-! ## `tcopy` (R356) -/

/-- An access of the copying context. -/
def copyElt (s : State) (d : Desc) (addr : Nat) : Elt := { tv := addr, va := spaceVa d.space addr, ag := s.agent }

/-- Write the element that has been read. -/
def copyStore (s : State) (x : Elt) (w v : Nat) : R State :=
  match storeMem s x.ag (x.va.getD 0) (leBytes w v) with
  | .ok _ s => .ok s s
  | .trap c s => .trap c (holdFields s [wd v] x.tv)
  | .hold s => .hold (holdFields s [wd v] x.tv)

/-- `tcopy` as a vector memory instruction: a load of the source element, then a store. -/
def copyPlan (s0 : State) (d src : Desc) : VPlan :=
  let dst := fun k => copyElt s0 d (dstAddr d k)
  let from_ := fun k => (srcAddr d src k).map (copyElt s0 src)
  let put := fun (k v : Nat) (s : State) =>
    match copyStore s (dst k) d.bytes v with
    | .ok s _ => let t := cleanUnits d.bytes (fun k => [dst k]) (fun k => span s0.c.startElem (k + 1)) k s
                 .ok t t
    | .trap c s => .trap c s
    | .hold s => .hold s
  { acc := .store, w := d.bytes, elts := fun k => [dst k], srcs := fun k => (from_ k).toList,
    act := fun k s =>
      match gathered s, from_ k with
      | v :: _, _ => put k v.toNat s
      | [], none => put k 0 s
      | [], some x =>
        match loadMem s x.ag (x.va.getD 0) d.bytes with
        | .ok bs s => put k (leNat bs) s
        | .trap c s => .trap c (holdFields s [] x.tv)
        | .hold s => .hold s }

/-- `tcopy`. -/
def execTcopy (f : H3) (s : State) : Res :=
  match copyDescs s f.d.toNat f.a.toNat with
  | none => .next (illegal s)
  | some (d, src) =>
    let p := copyPlan s d src
    vecMemOver s p none (span s.c.startElem d.count) (uoOrder p s) id

/-! ## The engine (R357, R358) -/

/-- The copy of a number. -/
def copyById (s : State) (id : Nat) : Option Copy := s.copies.find? fun x => x.id == id

/-- Replace a copy. -/
def setCopy (s : State) (x : Copy) : State := { s with copies := updFirst (fun y => y.id == x.id) (fun _ => x) s.copies }

/-- Two copies use one seat's slots. -/
def sameSeat (x y : Copy) : Bool := x.core == y.core && x.pos == y.pos

/-- The lowest free slot of a cluster's engine that a seat may use. -/
def freeCopySlot (s : State) (core pos : Nat) : Option Nat :=
  let size := ((s.seat? core pos).map Seat.size).getD 1
  let used := (s.copies.filter fun y => y.core / 4 == core / 4).filterMap Copy.slot
  ((List.range (4 * size)).map fun i => 16 * (core % 4) + 4 * pos + i).find? fun i => !used.contains i

/-- The bound of the time that the engine takes for what it does next (log 1). -/
def engineLat : Nat := 2 ^ 20

/-- Hand a copy off when a slot of its seat is free and no earlier copy of the seat waits for one. -/
def handOff (s : State) (id : Nat) : State :=
  match (s.copies.find? fun y => y.id == id), freeCopySlot s (((copyById s id).map Copy.core).getD 0)
      (((copyById s id).map Copy.pos).getD 0) with
  | some x, some slot =>
    let first := (s.copies.filter fun y => sameSeat x y && y.slot.isNone).head?.map Copy.id
    if x.slot.isSome || first ≠ some id || (s.part x.part).ckPhase != 0 then s else
    let r := takeLat s engineLat
    let mine := s.binds.filter fun b => b.part == x.part
    let kind := match x.kind with
      | .shadow base _ => CopyKind.shadow base !((bindAt s x.part base).any Bind.cur)
      | k => k
    setCopy r.2 { x with slot := some slot, at_ := s.now + r.1, kind := kind, cur := mine.map fun b => (b.base, b.cur) }
  | _, _ => s

/-- Queue a copy of the running context, and hand it off if that can be. -/
def startCopy (s : State) (kind : CopyKind) (dst src : List Byte) : State :=
  let x : Copy :=
    { id := s.nextCopy, part := s.c.part, ctx := s.c.id, core := s.c.core, pos := s.c.pos, devl := s.c.priv == 2,
      kind := kind, dst := dst, src := src, slot := none, at_ := s.now, next := 0, fault := none, delivered := false,
      cur := [], got := none, far := none, ans := none }
  handOff { s with copies := s.copies ++ [x], nextCopy := s.nextCopy + 1 } s.nextCopy

/-- COPY_HANDOFF (R357). -/
def execCopyHandoff (id : Nat) (s : State) : Res := .next (handOff s id)

/-- The binding of the running context's partition that a destination lies in whole (R358). -/
def bindOfDst (s : State) (d : Desc) : Option Bind :=
  s.binds.find? fun b => b.part == s.c.part && d.space == 0 && decide ((b.base : Int) ≤ d.base + d.low) &&
    decide ((d.base : Int) + d.high < b.base + b.span)

/-- `tcopy.sh` (R358). -/
def execTcopySh (f : H3) (s : State) : Res :=
  match copyDescs s f.d.toNat f.a.toNat with
  | none => .next (illegal s)
  | some (d, _) =>
    match bindOfDst s d with
    | none => .next (trapAt s 0x08 (wd d.base))
    | some b => .next (startCopy s (.shadow b.base false) (s.c.descImg f.d.toNat) (s.c.descImg f.a.toNat)).adv

/-! ## The engine's accesses (R358 to R360) -/

/-- How an engine access ends; `wait` with the request that it waits for, or with none to be tried again. -/
inductive EOut (α : Type) where
  | ok (a : α) (s : State)
  | trap (cause : Nat) (s : State)
  | wait (tag : Option Nat) (s : State)

/-- The engine as an agent of a copy's partition. -/
def Copy.agent (x : Copy) : Agent := { part := x.part, core := x.core, devl := x.devl, seq := false, unit := 1 }

/-- The backing that a copy reads of a source inside a binding: the one at hand-off. -/
def Copy.srcVa (s : State) (x : Copy) (va : Nat) : Nat :=
  match s.binds.find? fun b => b.part == x.part && decide (b.base ≤ va) && decide (va < b.base + b.span) with
  | none => va
  | some b => if ((x.cur.find? fun p => p.1 == b.base).map Prod.snd).getD b.cur then b.alt + (va - b.base) else va

/-- Where a copy writes an address of its destination. -/
def Copy.dstVa (s : State) (x : Copy) (va : Nat) : Nat :=
  match x.kind with
  | .shadow base backing =>
    match bindAt s x.part base with
    | some b => if backing then b.alt + (va - b.base) else va
    | none => va
  | .slot _ _ _ => sluice s x.part va

/-- The outcome of an answer from a remote frame. -/
def farOut (a : FAns) (s : State) : EOut FAns :=
  match a.st with
  | 0 => .ok a s
  | 4 => .trap 0x0C s
  | _ => .trap 0x0E s

/-- Read an element at its virtual address. -/
def engineRead (s : State) (x : Copy) (va n : Nat) : EOut (List Byte) :=
  match resolveRaw s x.agent .load va n with
  | .error c => if c = busyCause then .wait none s else .trap c (faultWalk s x.agent va)
  | .ok (.near p, s) =>
    if poisoned s p.key n then .trap 0x0C s else .ok (readPlace s p n) (cacheRead s x.agent p n)
  | .ok (.far dev pa kind, s) =>
    if dev = s.dev then
      match serveAccess s s.dev x.part pa kind n 0 0 8 0 0 [] with
      | (0, v, s) => .ok (leBytes n v) s
      | (1, _, s) => .wait none s
      | (4, _, s) => .trap 0x0C s
      | (_, _, s) => .trap 0x0E s
    else match x.ans with
      | some a =>
        match farOut a s with
        | .ok a s => .ok (leBytes n a.val) s
        | .trap c s => .trap c s
        | .wait t s => .wait t s
      | none =>
        let r := sendRequest s engineId x.part dev (accessFlit (kind == 0) pa n 0 0 [])
        .wait (some r.2) r.1

/-- Write an element; home slices watch it (R457). -/
def engineWrite (s : State) (x : Copy) (va : Nat) (bs : List Byte) : EOut Unit :=
  match resolveRaw s x.agent .store va bs.length with
  | .error c => if c = busyCause then .wait none s else .trap c (faultWalk s x.agent va)
  | .ok (.near p, s) =>
    if p.pa.any (switching s) then .wait none s
    else
      let s := writePlace s x.agent p bs
      .ok () (match p.pa with
        | some pa => watchWrite s pa bs.length (watchWho s.dev x.part x.core 0)
        | none => s)
  | .ok (.far dev pa kind, s) =>
    if dev = s.dev then
      match serveAccess s s.dev x.part pa kind bs.length 1 0 8 0 0 bs with
      | (0, _, s) => .ok () (watchWrite s pa bs.length (watchWho s.dev x.part x.core 0))
      | (1, _, s) => .wait none s
      | (4, _, s) => .trap 0x0C s
      | (_, _, s) => .trap 0x0E s
    else match x.ans with
      | some a =>
        match farOut a s with
        | .ok _ s => .ok () s
        | .trap c s => .trap c s
        | .wait t s => .wait t s
      | none =>
        let r := sendRequest s engineId x.part dev (accessFlit (kind == 0) pa bs.length 1 0 bs)
        .wait (some r.2) r.1

/-- A copy stopped at its element by a fault. -/
def Copy.stopped (x : Copy) (cause addr : Nat) : Copy :=
  { x with fault := some (cause, addr), delivered := false, got := none, far := none, ans := none }

/-- The destination part of an element whose source has been read. -/
def copyPut (s : State) (x : Copy) (d : Desc) (bs : List Byte) : State × Copy × Bool :=
  let a := dstAddr d x.next
  match (spaceVa d.space a).map (x.dstVa s) with
  | none => (s, x.stopped 0x08 a, false)
  | some va =>
    match engineWrite s x va bs with
    | .ok _ s => (s, { x with next := x.next + 1, got := none, far := none, ans := none }, true)
    | .trap c s => (s, x.stopped c a, false)
    | .wait t s => (s, { x with got := some bs, far := t, ans := none, at_ := s.now + 1 }, false)

/-- One element of a copy: the state, the copy, and whether it goes on. -/
def copyOne (s : State) (x : Copy) (d src : Desc) : State × Copy × Bool :=
  match x.got, srcAddr d src x.next with
  | some bs, _ => copyPut s x d bs
  | none, none => copyPut s x d (List.replicate d.bytes 0)
  | none, some a =>
    match (spaceVa src.space a).map fun v => if src.space = 0 then x.srcVa s v else v with
    | none => (s, x.stopped 0x08 a, false)
    | some va =>
      match engineRead s x va d.bytes with
      | .ok bs s => copyPut s { x with far := none, ans := none } d bs
      | .trap c s => (s, x.stopped c a, false)
      | .wait t s => (s, { x with far := t, ans := none, at_ := s.now + 1 }, false)

/-- At most n elements of a copy. -/
def copyOn (s : State) (x : Copy) (d src : Desc) : Nat → State × Copy
  | 0 => (s, x)
  | n + 1 =>
    match copyOne s x d src with
    | (s, x, true) => copyOn s x d src n
    | (s, x, false) => (s, x)

/-- Whether the engine may go on with a copy. -/
def Copy.due (x : Copy) (now : Nat) : Bool :=
  x.slot.isSome && x.fault.isNone && (x.far.isNone || x.ans.isSome) && decide (x.at_ ≤ now)

/-- What a finished copy does (R353, R359): the fill of its slot is stamped now. The party of the fill is the engine, with
the context that it works for in its slot. -/
def finishCopy (s : State) (x : Copy) : State :=
  let s := { s with copies := s.copies.filter fun y => y.id != x.id }
  match x.kind with
  | .shadow _ _ => s
  | .slot n slot _ =>
    match bufOf s x.part n with
    | none => s
    | some b =>
      let who : Who := { dev := s.dev, part := x.part, core := x.core, pos := x.pos, slot := x.ctx, id := engineId, stamp := s.now }
      let s := if 3 ≤ b.reach s then settleEngines s else s
      if fabricCut s (b.reach s) then s
      else if b.home = s.dev then sendHome s (boundOf s (b.reach s)) who b.die (.buf x.part n) (.cbFill slot true)
      else meetingAsk s b.home { who := who, die := b.die, arrive := s.now, obj := .buf x.part n, req := .cbFill slot true }

/-- Clear the poison of units that the elements a copy has written cover whole together (R455). -/
def copyClean (s : State) (x : Copy) (d : Desc) : State :=
  if s.poison.isEmpty then s
  else unpoisonAll s ((List.range x.next).filterMap fun k =>
    (spaceVa d.space (dstAddr d k)).bind fun v => storedPiece d.bytes (resolveRaw s x.agent .store (x.dstVa s v) d.bytes))

/-- COPY_COMPLETION (R356 to R360): the engine performs the elements that remain; a fault stops the copy at its
element. -/
def execCopyCompletion (id : Nat) (s : State) : Res :=
  match copyById s id with
  | none => .next s
  | some x =>
    if !x.due s.now then .next s else
    match parseDesc x.dst, parseDesc x.src with
    | some d, some src =>
      let r := copyOn s x d src (d.count - x.next)
      let t := copyClean r.1 r.2 d
      .next (if d.count ≤ r.2.next then finishCopy t r.2 else setCopy t r.2)
    | _, _ => .next (finishCopy s x)

/-- The fault of a started copy that a context is to be told of. -/
def copyFault (s : State) (ctx : Nat) : Option Copy :=
  s.copies.find? fun x => x.ctx == ctx && x.fault.isSome && !x.delivered

/-- Whether a context stands at a boundary where a copy's fault is delivered (R360). -/
def atBoundary (c : Ctx) : Bool := c.wait.isNone && c.hold.isNone && c.vq.isEmpty

/-- COPY_FAULT_DELIVERY (R360). -/
def execCopyFaultDelivery (ctx : Nat) (s : State) : Res :=
  match s.ctx? ctx, copyFault s ctx with
  | some c, some x =>
    if !atBoundary c then .next s else
    let tv := fun (a : Nat) => wd (2 ^ 63 + x.slot.getD 0 % 64 * 2 ^ 56 + a % 2 ^ 56)
    match x.fault with
    | some (cause, a) => .next ((setCopy s { x with delivered := true }).asCtx ctx fun s => trapAt s cause (tv a))
    | none => .next s
  | _, _ => .next s

/-! ## `tcopy.cb` (R359) -/

/-- `tcopy.cb`. -/
def execTcopyCb (f : H3) (s : State) : Res :=
  let dl := s.num f.dl
  let fill := s.num f.c
  let n := f.imm.toNat % 256
  match copyDescs s f.a.toNat f.b.toNat with
  | none => .next (illegal s)
  | some (d, _) =>
    if beyondHorizon s dl then .next (horizonTrap s dl)
    else if beyondHorizon s fill then .next (horizonTrap s fill)
    else match bufOf s s.c.part n with
    | none => .next (numberTrap s n)
    | some b =>
      if b.closed || decide (d.low < 0) || decide ((2 ^ b.lgsz : Int) ≤ d.high) then .next (numberTrap s n)
      else if fabricCut s (b.reach s) then .next (endCut s f.d.toNat 0)
      else .next (askHome s b.homeRec (b.reach s) (.buf s.c.part n) (.cbClaim 1 dl fill)
        (.copy f.d.toNat (s.c.descImg f.a.toNat) (s.c.descImg f.b.toNat) n fill) dl (servedLimit s dl (b.reach s)))

/-- A descriptor image with another BASE, in space 0. -/
def withBase (img : List Byte) (base : Nat) : List Byte := leBytes 8 (base % 2 ^ 56) ++ img.drop 8

/-- The end of the claim of `tcopy.cb`: a reserved slot queues the copy. -/
def endCopyClaim (s : State) (d : Nat) (dst src : List Byte) (n fill code : Nat) (r1 : Word) : State :=
  match bufOf s s.c.part n with
  | some b =>
    if code = wsMET then
      endPlain (startCopy s (.slot n r1.toNat fill) (withBase dst (b.base + r1.toNat * 2 ^ b.lgsz)) src) d 0 code r1 0
    else endPlain s d 0 code r1 0
  | none => endPlain s d 0 code r1 0

/-! ## `pub` (R260, R261) -/

/-- Keep a `pub` waiting: the copies it waits for, once it has reached the Sluice. -/
def pubWait (s : State) (ids : Option (List Nat)) : State :=
  holdAt s (if ids.isSome then 1 else 0) ((ids.getD []).map wd)

/-- `pub` at the Sluice, with the copies that had started before it. A register that is not well formed names no
double-backed buffer: `pub` raises no trap. -/
def pubAt (s : State) (d : Nat) (b : Bind) (ids : List Nat) : Res :=
  let mine := s.copies.filter fun x => x.shadows b.part b.base && ids.contains x.id
  if mine.any fun x => x.fault.isNone then .next (pubWait s (some ids))
  else if !mine.isEmpty || b.torn then writeReg s d 1
  else writeReg { s with binds := updFirst (fun x => x.part == b.part && x.base == b.base) (fun x => { x with cur := !x.cur }) s.binds }
    d 0

/-- A `tcopy.sh` of the context waits to be handed off. -/
def shadowQueued (s : State) : Bool :=
  s.copies.any fun x => x.ctx == s.c.id && x.slot.isNone && (match x.kind with | .shadow _ _ => true | .slot _ _ _ => false)

/-- `pub`. It reaches the Sluice once every earlier `tcopy.sh` of the context has been handed off (R358). DESIGN CHOICE (log 60): a
descriptor is double-backed where its space is 0 and its BASE is a binding's, whatever its BK and ALT hold. -/
def execPub (f : H1) (s : State) : Res :=
  match (s.c.desc f.a.toNat).bind fun d => if d.space = 0 then bindAt s s.c.part d.base else none with
  | none => writeReg s f.d.toNat 2
  | some b => releasing s f.sub.toNat fun s =>
    let s := if 3 ≤ f.sub.toNat then settleEngines s else s
    match s.c.hold.filter fun h => h.elem = 1 with
    | some h => pubAt s f.d.toNat b (h.aux.map BitVec.toNat)
    | none =>
      if shadowQueued s then .next (pubWait s none)
      else pubAt s f.d.toNat b ((s.copies.filter fun x => x.shadows b.part b.base && x.slot.isSome).map Copy.id)

end Sys2Proof.Machine
end

