-- ==== Sys2Proof/Machine/Reduce.lean ====
section
/-! DEFINITION. Multicast groups and the in-network reduction (R362 to R367, R393, R397): the record, the effective
tree, and what a device's reducer sends. -/
namespace Sys2Proof.Machine

/-! ## Group records (R362) -/

/-- Field of n bytes at byte i of a record. -/
def recN (r : List Byte) (i n : Nat) : Nat := fieldAt r i n

def grpNmem (r : List Byte) : Nat := recN r 0 1 % 128
def grpHome (r : List Byte) : Nat := recN r 1 1 % 64
def grpTy (r : List Byte) : Nat := recN r 2 1 % 16
def grpLen (r : List Byte) : Nat := recN r 4 4
def grpGrace (r : List Byte) : Nat := recN r 8 2
def grpMember (r : List Byte) (i : Nat) : Nat := recN r (64 + 2 * i) 2
def grpParent (r : List Byte) (i : Nat) : Nat := recN r (192 + i) 1 % 64

/-- Whether a member's chain of parents reaches the root within n steps. -/
def reachesRoot (r : List Byte) (i : Nat) : Nat → Bool
  | 0 => false
  | n + 1 => grpParent r i == i || reachesRoot r (grpParent r i) n

/-- A well-formed record (R362); `bound` is the fabric bound. -/
def grpOk (r : List Byte) (bound : Nat) : Bool :=
  let n := grpNmem r
  let ms := (List.range n).map (grpMember r)
  decide (recN r 0 1 < 128) && decide (recN r 1 1 < 64) && decide (recN r 2 1 < 16) && recN r 3 1 == 0 &&
  (List.range 54).all (fun i => recN r (10 + i) 1 == 0) &&
  decide (1 ≤ n) && decide (n ≤ 64) && decide (grpHome r < n) &&
  decide (9 ≤ grpTy r) && decide (grpTy r ≤ 11) && decide (1 ≤ grpLen r) && decide (grpLen r ≤ 65536) &&
  decide (bound ≤ grpGrace r) && decide ms.Nodup &&
  (List.range 64).all (fun i =>
    if i < n then decide (recN r (192 + i) 1 < n) else grpMember r i == 0 && recN r (192 + i) 1 == 0) &&
  ((List.range n).filter fun i => grpParent r i == i).length == 1 &&
  (List.range n).all fun i => reachesRoot r i n

/-- The digest of a record (R397). -/
def grpDigest (r : List Byte) : BitVec 64 := crc64 r

/-- The definition of a group. -/
def grpOf (s : State) (part g : Nat) : Option Grp := s.grps.find? fun x => x.part == part && x.g == g

/-- Change a group. -/
def setGrp (s : State) (part g : Nat) (f : Grp → Grp) : State :=
  { s with grps := updFirst (fun x => x.part == part && x.g == g) f s.grps }

/-! ## The effective tree (R366) -/

/-- Remove a member from a tree given as its list of parents: its children take its parent, or, when it is the root,
its lowest child becomes the root. A removed member's entry is 64. -/
def removeMember (ps : List Nat) (i : Nat) : List Nat :=
  let p := ps.getD i 64
  let kids := (List.range ps.length).filter fun j => j != i && ps.getD j 64 == i
  let up := if p = i then kids.headD 64 else p
  ((List.range ps.length).map fun j => if kids.contains j then up else ps.getD j 64).set i 64

/-- The parents of the effective tree of the present members, the others removed in increasing index. -/
def effectiveTree (r : List Byte) (pres : Word) : List Nat :=
  let ps := (List.range (grpNmem r)).map (grpParent r)
  ((List.range (grpNmem r)).filter fun i => !pres.getLsbD i).foldl removeMember ps

/-- The effective children of a member. -/
def effectiveKids (ps : List Nat) (i : Nat) : List Nat :=
  (List.range ps.length).filter fun j => j != i && ps.getD j 64 == i

/-! ## The reducer -/

/-- FP32 sum of two vectors, nearest even (R366). -/
def addVec (a b : List (BitVec 32)) : List (BitVec 32) :=
  (a.zip b).map fun p => BitVec.ofNat 32 (fAdd fp32 0 p.1.toNat p.2.toNat).1

/-- The sum of a member whose children's partial sums have all come, in increasing member index. -/
def sumParts (own : List (BitVec 32)) (parts : List (Nat × List (BitVec 32))) : List Nat → Option (List (BitVec 32))
  | [] => some own
  | c :: t =>
    match parts.find? (fun p => p.1 == c) with
    | none => none
    | some p => sumParts (addVec own p.2) parts t

/-- Write the result into a context's vector and end its `mld.red` (R367). -/
def endReduce (s : State) (vec : List (BitVec 32)) (vd d1 d2 : Nat) (v : RedV) : State :=
  let s := (List.range vec.length).foldl (fun s e => s.setElem 32 vd e (vec.getD e 0).toNat) s
  (((({ s with c := { s.c with wait := none } }).setWs v.code).setReg d1 v.absent).setReg d2 v.joined).adv

/-- End the running context's `mld.red` if it waits with this stamp and its verdict has come. -/
def endArrival (s : State) (stamp : Nat) (vec : List (BitVec 32)) (v : RedV) : State :=
  match s.c.wait with
  | some w =>
    match w.op, w.limit with
    | .reduce vd d1 d2 _, none => if w.stamp = stamp then endReduce s vec vd d1 d2 v else s
    | _, _ => s
  | none => s

/-- Give a result to the `mld.red`s of a reduction; one whose context is saved, or restored and not yet in its line, takes
it later. -/
def giveResult (s : State) (vec : List (BitVec 32)) (v : RedV) (l : List Arrival) : State :=
  l.foldl (fun s a =>
    if (s.ctx? a.ctx).any fun c => !c.entering then s.asCtx a.ctx fun s => endArrival s a.stamp vec v else s) s

/-- The number of elements in a flit of KIND 5 (R393). -/
def redPerFlit : Nat := 128

/-- The flits of a vector in element order, from element i on (R393). OPD holds the group, the child whose partial sum it is or
64 for the root's result, and the first element, a byte, a byte and four bytes (log 20). -/
def redFlits (g from_ : Nat) : Nat → Nat → List (BitVec 32) → List Flit
  | 0, _, _ => []
  | n + 1, i, l =>
    if l.isEmpty then [] else
    let now := l.take redPerFlit
    { blankFlit with
      kind := 5, len := BitVec.ofNat 10 (4 * now.length), opd := BitVec.ofNat 192 (g + from_ * 2 ^ 8 + i * 2 ^ 16)
      payload := now.flatMap fun x => leBytes 4 x.toNat } :: redFlits g from_ n (i + redPerFlit) (l.drop redPerFlit)

/-- Send a vector to a device, in the bulk class of the group's partition (R393). -/
def sendVec (s : State) (dev part g from_ : Nat) (vec : List (BitVec 32)) : State :=
  (redFlits g from_ (vec.length + 1) 0 vec).foldl (fun s f => sendFlit s part { f with
    ddev := BitVec.ofNat 16 dev, sdev := BitVec.ofNat 16 s.dev, dpart := BitVec.ofNat 6 part, spart := BitVec.ofNat 6 part,
    dinc := incOf s dev part, sinc := (s.part part).inc }) s

/-- The number that stands for the root's result where a child is named. -/
def fromRoot : Nat := 64

/-- What goes to the members or to the parent once a member's sum is complete (R366, R393). -/
def sendSum (s : State) (x : Grp) (pres : Word) (ps : List Nat) (vec : List (BitVec 32)) : State :=
  let me := x.me
  if ps.getD me 64 = me then
    let dsts := (List.range (grpNmem x.record)).filter fun i => i != me && pres.getLsbD i
    dsts.foldl (fun s i => sendVec s (grpMember x.record i) x.part x.g fromRoot vec) s
  else sendVec s (grpMember x.record (ps.getD me 64)) x.part x.g me vec

/-- The device's own vector: that of the first `mld.red` of the generation, once its verdict says that it is in it
(R365, R367). -/
def Red.own (r : Red) : Option (List (BitVec 32)) := (r.arrivals.head?.filter Arrival.known).map Arrival.vec

/-- Take a child's first waiting partial sum. -/
def takeEarly (c : Nat) : List (Nat × List (BitVec 32)) → Option (List (BitVec 32) × List (Nat × List (BitVec 32)))
  | [] => none
  | x :: t => if x.1 = c then some (x.2, t) else (takeEarly c t).map fun y => (y.1, x :: y.2)

/-- Give a reduction the partial sums of its effective children that it has not yet. A child's partial sums come in the
order of the generations in which it was present. -/
def feedRed (r : Red) (early : List (Nat × List (BitVec 32))) : List Nat → Red × List (Nat × List (BitVec 32))
  | [] => (r, early)
  | c :: t =>
    match if r.parts.any (fun p => p.1 == c) then none else takeEarly c early with
    | none => feedRed r early t
    | some y => feedRed { r with parts := r.parts ++ [(c, y.1)] } y.2 t

/-- Whether no earlier generation in which this device is present can still be without its verdict: the one before is known, or
this member joined in this one, or no `mld.red` here waits for a verdict (R52, R366). -/
def inTurn (x : Grp) (v : RedV) : Bool :=
  let before := (v.gen + 2 ^ 32 - 1) % 2 ^ 32
  v.joined.getLsbD x.me || x.last == some before || (x.reds.any fun r => r.verdict.any fun w => w.gen == before) ||
    !(x.reds.any fun r => r.arrivals.any fun a => !a.known)

/-- Let one reduction go on: once its verdict is known and every child's sum has come, its own sum leaves; the root has
the result (R366). Its turn comes after every earlier generation's, because partial sums and results carry no generation. -/
def progressRed (s : State) (x : Grp) (r : Red) (early : List (Nat × List (BitVec 32))) :
    State × Red × List (Nat × List (BitVec 32)) :=
  match r.verdict.filter (inTurn x) with
  | none => (s, r, early)
  | some v =>
    let ps := effectiveTree x.record v.pres
    let kids := effectiveKids ps x.me
    let f := if r.sent then (r, early) else feedRed r early kids
    match if r.sent then none else f.1.own.bind fun own => sumParts own f.1.parts kids with
    | none => (s, f)
    | some vec =>
      (sendSum s x v.pres ps vec,
        { f.1 with sent := true, result := if ps.getD x.me 64 = x.me then some vec else r.result }, f.2)

/-- Give a known result to the `mld.red`s whose verdict has come. -/
def closeRed (s : State) (r : Red) : State :=
  match r.result, r.verdict with
  | some vec, some v => giveResult s vec v r.arrivals
  | _, _ => s

/-- Whether a context, resident or saved, still waits with a stamp (R364). -/
def stillWaits (s : State) (a : Arrival) : Bool :=
  (s.ctxs ++ s.saved.map Saved.ctx).any fun c => c.id == a.ctx && c.wait.any fun w => w.stamp == a.stamp

/-- Let a group's reductions go on, and drop those that are over. -/
def progressGrp (s : State) (part g : Nat) : State :=
  match grpOf s part g with
  | none => s
  | some x =>
    let r := x.reds.foldl (fun (a : State × List Red × List (Nat × List (BitVec 32))) r =>
      let p := if a.2.1.all Red.sent then progressRed a.1 x r a.2.2 else (a.1, r, a.2.2)
      (closeRed p.1 p.2.1, a.2.1 ++ [p.2.1], p.2.2)) (s, [], x.early)
    let ended := fun (y : Red) => y.sent && y.result.isSome && !(y.arrivals.any (stillWaits r.1))
    let last := ((r.2.1.filter ended).getLast?.bind Red.verdict).map RedV.gen <|> x.last
    setGrp r.1 part g fun x => { x with reds := r.2.1.filter (fun y => !ended y), early := r.2.2, last := last }

/-- A reduction that one `mld.red` opens. -/
def openRed (a : Arrival) (v : Option RedV) : Red := { arrivals := [a], verdict := v, parts := [], sent := false, result := none }

/-- Add a vector to the device's reducer: an `mld.red` made while an earlier one waits for its verdict joins it (R365). -/
def addArrival (l : List Red) (a : Arrival) : List Red :=
  match l.getLast? with
  | some r => if r.verdict.isNone then l.dropLast ++ [{ r with arrivals := r.arrivals ++ [a] }] else l ++ [openRed a none]
  | none => [openRed a none]

/-- Whether an arrival is that of a context with a stamp. -/
def Arrival.isOf (ctx stamp : Nat) (a : Arrival) : Bool := a.ctx == ctx && a.stamp == stamp

/-- Whether a reduction serves an `mld.red`. -/
def Red.serves (r : Red) (ctx stamp : Nat) : Bool := r.arrivals.any (Arrival.isOf ctx stamp)

/-- Forget an `mld.red` that is in no generation (R367). -/
def dropArrival (ctx stamp : Nat) (l : List Red) : List Red :=
  (l.map fun r => { r with arrivals := r.arrivals.filter fun a => !a.isOf ctx stamp }).filter
    fun r => !r.arrivals.isEmpty || r.verdict.isSome

/-- Whether generation a comes before b. -/
def genBefore (a b : Nat) : Bool := decide (0 < (b + 2 ^ 32 - a % 2 ^ 32) % 2 ^ 32) && decide ((b + 2 ^ 32 - a % 2 ^ 32) % 2 ^ 32 < 2 ^ 31)

/-- Put a reduction with a verdict into its place, in the order of the generations; those without one stand last. -/
def insertRed (x : Red) : List Red → List Red
  | [] => [x]
  | y :: t =>
    if (x.verdict.any fun v => y.verdict.all fun w => genBefore v.gen w.gen) then x :: y :: t else y :: insertRed x t

/-- The verdict of a closed generation for one `mld.red` (R365, R366): it joins the reduction of that generation, gives
its own reduction the verdict, or opens a reduction of its own, which stands in the order of the generations. -/
def takeVerdict (ctx stamp : Nat) (v : RedV) (l : List Red) : List Red :=
  let sure := fun (r : Red) =>
    { r with arrivals := r.arrivals.map fun a => if a.isOf ctx stamp then { a with known := true } else a }
  let ofGen := fun (r : Red) => r.verdict.any fun x => x.gen == v.gen
  match l.find? fun r => r.serves ctx stamp with
  | none => l
  | some r =>
    let mine := (r.arrivals.filter (Arrival.isOf ctx stamp)).map fun a => { a with known := true }
    if ofGen r then updFirst (fun y => y.serves ctx stamp) sure l
    else if l.any ofGen then
      updFirst ofGen (fun y => { y with arrivals := y.arrivals ++ mine }) (dropArrival ctx stamp l)
    else if r.verdict.isNone then insertRed (sure { r with verdict := some v }) (l.filter fun y => !y.serves ctx stamp)
    else mine.foldl (fun l a => insertRed (openRed a (some v)) l) (dropArrival ctx stamp l)

/-- The group whose reducer serves an `mld.red`. -/
def redGroup (s : State) (ctx stamp : Nat) : Option Grp := s.grps.find? fun x => x.reds.any fun r => r.serves ctx stamp

/-- A verdict reaches the reducer (R366). -/
def redVerdict (s : State) (ctx stamp : Nat) (v : RedV) : State :=
  match redGroup s ctx stamp with
  | none => s
  | some x => progressGrp (setGrp s x.part x.g fun x => { x with reds := takeVerdict ctx stamp v x.reds }) x.part x.g

/-- An `mld.red` is in no generation. -/
def redForget (s : State) (ctx stamp : Nat) : State :=
  match redGroup s ctx stamp with
  | none => s
  | some x => progressGrp (setGrp s x.part x.g fun x => { x with reds := dropArrival ctx stamp x.reds }) x.part x.g

/-- A restored context that waits in an `mld.red` has entered its line: what came meanwhile ends its wait (R367, R446). -/
def redResume (s : State) : State :=
  match s.c.wait.bind fun w => redGroup s s.c.id w.stamp with
  | none => s
  | some x => progressGrp s x.part x.g

/-- Give the root's result to the first reduction that has sent its sum and has no result (R366). -/
def takeResult (vec : List (BitVec 32)) : List Red → List Red
  | [] => []
  | r :: t => if r.sent && r.result.isNone then { r with result := some vec } :: t else r :: takeResult vec t

/-- REDUCTION_PARTIAL. -/
def execReductionPartial (part g child : Nat) (vec : List (BitVec 32)) (s : State) : Res :=
  .next (if (grpOf s part g).any fun x => grpLen x.record == vec.length then
    progressGrp (setGrp s part g fun x => { x with early := x.early ++ [(child, vec)] }) part g else s)

/-- REDUCTION_RESULT. -/
def execReductionResult (part g : Nat) (vec : List (BitVec 32)) (s : State) : Res :=
  .next (if (grpOf s part g).any fun x => grpLen x.record == vec.length then
    progressGrp (setGrp s part g fun x => { x with reds := takeResult vec x.reds }) part g else s)

/-! ## Vectors that come in -/

/-- Put a piece into the first vector from its sender that lacks it. -/
def addPiece (part g from_ i : Nat) (p : List (BitVec 32)) : List VecIn → List VecIn
  | [] => [{ part := part, g := g, from_ := from_, pieces := [(i, p)] }]
  | x :: t =>
    if x.part == part && x.g == g && x.from_ == from_ && !(x.pieces.any fun y => y.1 == i)
    then { x with pieces := x.pieces ++ [(i, p)] } :: t else x :: addPiece part g from_ i p t

/-- The first n elements of a vector, once every piece of them has come. -/
def joinPieces (l : List (Nat × List (BitVec 32))) (n : Nat) : Option (List (BitVec 32)) :=
  let whole := (List.range ((n + redPerFlit - 1) / redPerFlit)).flatMap fun i =>
    ((l.find? fun y => y.1 == i * redPerFlit).map Prod.snd).getD []
  if whole.length = n then some whole else none

/-- The step that a whole vector of a group brings (R366, R367). -/
def vecStep (x : VecIn) (vec : List (BitVec 32)) : Instr :=
  if x.from_ = fromRoot then .reductionResult x.part x.g vec else .reductionPartial x.part x.g x.from_ vec

/-- A flit of KIND 5 reaches the reducer (R393); one for another incarnation, or for no group defined here, goes. -/
def takeVec (s : State) (f : Flit) : State :=
  let part := f.dpart.toNat
  let g := nbits f.opd.toNat 0 8
  match (grpOf s part g).filter fun _ => f.dinc == (s.part part).inc with
  | none => s
  | some x =>
    let p := (List.range (f.len.toNat / 4)).map fun i => BitVec.ofNat 32 (fieldAt f.payload (4 * i) 4)
    let l := addPiece part g (nbits f.opd.toNat 8 8) (nbits f.opd.toNat 16 32) p s.vecIns
    let done := fun (y : VecIn) => if y.part == part && y.g == g then joinPieces y.pieces (grpLen x.record) else none
    { s with vecIns := l.filter (fun y => (done y).isNone)
             inputs := s.inputs ++ l.filterMap fun y => (done y).map (vecStep y) }

end Sys2Proof.Machine
end

