-- ==== Sys2Proof/Machine/Fabric.lean ====
section
/-! DEFINITION. Multicast groups and wavelength leases (R362 to R367, R370 to R378, R396 to R406): majors 0x2F and 0x30,
and the lease unit. -/
namespace Sys2Proof.Machine

/-! ## Groups (R362 to R365, R397 to R399) -/

/-- Group number of an instruction. -/
def grpNo (f : H3) : Nat := f.imm.toNat % 64

/-- A group's meeting as an object. -/
def grpObj (s : State) (g : Nat) : Obj := .group s.c.part g

/-- Whether a context waits in an `mld.red` of a group, or, with `joins`, in an `mgrp.join` of it. -/
def grpWaits (s : State) (part g : Nat) (joins : Bool) : Bool :=
  (s.ctxs ++ s.saved.map Saved.ctx).any fun x =>
    x.part == part && x.wait.any fun w =>
      w.obj == some (.group part g) && (match w.op with | .reduce _ _ _ _ => true | _ => joins)

/-- The device of a group's home. -/
def grpHomeDev (r : List Byte) : Nat := grpMember r (grpHome r)

/-- The low n bits. -/
def lowBits (n : Nat) : Word := wd (2 ^ n - 1)

/-- Set up a group's meeting at its home (R363): as `mt.init` would. -/
def initGroup (s : State) (part g : Nat) (r : List Byte) : State :=
  let new := freshMeet (.group part g) part 0 (lowBits (grpNmem r)) (grpGrace r) 4 (grpDigest r)
  match meetOf s new.obj with
  | some old => setMeet (abortMeet s old wsNOVERDICT) new
  | none => { s with meets := s.meets ++ [new] }

/-- Free a group's meeting at its home (R398). -/
def dropGroupMeet (s : State) (part g : Nat) : State :=
  match meetOf s (.group part g) with
  | none => s
  | some m => { (abortMeet s m wsNOVERDICT) with meets := s.meets.filter fun x => x.obj != .group part g }

/-- Define a group from a record: the result of R363 and the state. A definition that names another home frees the
meeting that the former one set up here (R398; log 11). -/
def defineGroup (s : State) (g : Nat) (r : List Byte) : Nat × State :=
  let part := s.c.part
  let home := grpHomeDev r == s.dev
  if !grpOk r (boundOf s 4) then (1 * 256, s) else
  match (List.range (grpNmem r)).find? fun i => grpMember r i == s.dev with
  | none => (2 * 256, s)
  | some me =>
    if grpWaits s part g false then (3 * 256, s)
    else if home && (meetOf s (.group part g)).isNone && !entryFree s part 0 then (4 * 256, s)
    else
      let x : Grp := { part := part, g := g, record := r, me := me, reds := [] }
      let s := { s with grps := s.grps.filter (fun y => !(y.part == part && y.g == g)) ++ [x]
                        vecIns := s.vecIns.filter fun y => !(y.part == part && y.g == g) }
      (me, if home then initGroup s part g r else dropGroupMeet s part g)

/-- `mgrp.def`. -/
def execMgrpDef (f : H3) (s : State) : Res :=
  let a := s.reg f.a.toNat
  if a.toNat % 64 ≠ 0 then .next (trapScalar s 0x04 a)
  else endLines (loadLines s s.agent a.toNat 4) a fun r s =>
    let p := defineGroup s (grpNo f) r
    (p.2.setReg f.d.toNat (wd p.1)).adv

/-- `mgrp.drop`. -/
def execMgrpDrop (f : H3) (s : State) : Res :=
  let g := grpNo f
  let part := s.c.part
  match grpOf s part g with
  | none => writeReg s f.d.toNat 1
  | some _ =>
    if grpWaits s part g true then writeReg s f.d.toNat 3
    else
      let s := { s with grps := s.grps.filter (fun y => !(y.part == part && y.g == g))
                        vecIns := s.vecIns.filter fun y => !(y.part == part && y.g == g) }
      writeReg (dropGroupMeet s part g) f.d.toNat 0

/-- The place of a group's home. -/
def grpRec (x : Grp) : Rec := { dev := grpHomeDev x.record, pa := 0, die := 0 }

/-- `mgrp.join`. -/
def execMgrpJoin (f : H3) (s : State) : Res :=
  let g := grpNo f
  match grpOf s s.c.part g with
  | none => .next (numberTrap s g)
  | some x =>
    if fabricCut s 4 then .next (endCut s f.d.toNat 0)
    else .next (askHome s (grpRec x) 4 (grpObj s g) (.mtJoin x.me (grpDigest x.record)) (.plain f.d.toNat 0) s.now
      (s.now + lossTicks))

/-- Widen an element of type `ty` exactly to FP32; a NaN becomes the canonical one (R364, R366). -/
def widenFp32 (ty x : Nat) : BitVec 32 := BitVec.ofNat 32 (fConv (tyFmt ty) fp32 0 x).1

/-- Registers of the source of `mld.red` (R317, R364). -/
def redSrcRegs (s : State) (ty : Nat) : Nat := groupRegs s.c.grp (tyWidth ty) 32

/-- Check 1 of R364. -/
def redShapeOk (s : State) (f : H3) : Bool :=
  let n := redSrcRegs s f.ty.toNat
  !s.c.vill && s.c.ew == 32 && groupOk s.c.grp f.d.toNat && groupOk n f.a.toNat &&
    !overlaps f.d.toNat s.c.grp f.a.toNat n

/-- The contribution of the running context. -/
def redVec (s : State) (f : H3) (n : Nat) : List (BitVec 32) :=
  (List.range n).map fun e => widenFp32 f.ty.toNat (s.elem (tyWidth f.ty.toNat) f.a.toNat e)

/-- `mld.red`. -/
def execMldRed (f : H3) (s : State) : Res :=
  let g := grpNo f
  let dl := s.num f.dl
  if !redShapeOk s f then .next (illegal s) else
  match (grpOf s s.c.part g).filter fun x => grpLen x.record == s.c.vlen && grpTy x.record == f.ty.toNat with
  | none => .next (numberTrap s g)
  | some x =>
    if beyondHorizon s dl then .next (horizonTrap s dl)
    else if fabricCut s 4 then .next (endCut s f.b.toNat f.c.toNat)
    else releasing s 4 fun s =>
      let a : Arrival := { ctx := s.c.id, stamp := s.now, vec := redVec s f s.c.vlen }
      let s := setGrp s s.c.part g fun y => { y with reds := addArrival y.reds a }
      .next (askHome s (grpRec x) 4 (grpObj s g) (.mtArrive x.me dl true (grpDigest x.record))
        (.reduce f.d.toNat f.b.toNat f.c.toNat g) dl (s.now + lossTicks))

/-! ## `mst` (R400, R401) -/

/-- Elements that one flit of KIND 7 carries here, 16 bytes each: address and data (log 20). -/
def mstPerFlit : Nat := 32

/-- The flits of one member's copy: the width in LGW, FN = 1 in the last. -/
def mstFlits (w : Nat) : Nat → List (Nat × Nat) → List Flit
  | 0, _ => []
  | n + 1, l =>
    let now := l.take mstPerFlit
    let rest := l.drop mstPerFlit
    let f := { blankFlit with
      kind := 7, op := 1, lgw := BitVec.ofNat 4 (Nat.log2 w), fn := if rest.isEmpty then 1 else 0,
      len := BitVec.ofNat 10 (16 * now.length), payload := now.flatMap fun x => leBytes 8 x.1 ++ leBytes 8 x.2 }
    if rest.isEmpty then [f] else f :: mstFlits w n rest

/-- Send the flits of one request: all have one TAG, and each is kept until the answer, since it may be answered busy (R390). -/
def sendFlits (s : State) (ctx part dev : Nat) (l : List Flit) : State × Nat :=
  let tag := s.nextTag
  (l.foldl (fun s f => (sendRequest { s with nextTag := tag } ctx part dev f).1) { s with nextTag := (tag + 1) % 2 ^ 32 }, tag)

/-- The members that `mst` writes to: all but the caller. -/
def mstMembers (x : Grp) : List Nat := (List.range (grpNmem x.record)).filter fun i => i != x.me

/-- Send a multicast store to every other member and hold the context for the answers. -/
def mstSend (s : State) (x : Grp) (w : Nat) (l : List (Nat × Nat)) : State :=
  let r := (mstMembers x).foldl (fun (a : State × List Nat) i =>
    let p := sendFlits a.1 a.1.c.id a.1.c.part (grpMember x.record i) (mstFlits w (l.length + 1) l)
    (p.1, a.2 ++ [p.2])) (s, [])
  let h : Hold := { stamp := s.now, aux := (mstMembers x).map wd, many := r.2.map fun t => (t, none) }
  { r.1 with c := { r.1.c with hold := some h } }

/-- The failure mask once every member has answered or timed out; none while an answer is missing. -/
def mstMask (h : Hold) : Option Word :=
  if h.many.any fun x => x.2.isNone then none
  else some ((h.aux.zip h.many).foldl (fun a x =>
    if x.2.2.any fun r => r.st == 0 then a else a ||| (1#64 <<< x.1.toNat)) 0)

/-- Checks of `mst` at issue (R400): cause and `tval`. -/
def mstFault (s : State) (f : H3) : Option (Nat × Word) :=
  let a := s.reg f.a.toNat
  if !elementwiseOk s f.ty.toNat [f.b.toNat] then some (0x01, headTval s)
  else if (grpOf s s.c.part (grpNo f)).isNone then some (0x08, wd (grpNo f))
  else if a.toNat % (tyWidth f.ty.toNat / 8) ≠ 0 then some (0x04, a)
  else if nbits a.toNat 56 8 ≠ 0 || nbits a.toNat 48 8 = 0xFE then some (0x08, a)
  else none

/-- `mst`. -/
def execMst (f : H3) (s : State) : Res :=
  let w := tyWidth f.ty.toNat / 8
  match s.c.hold with
  | some h =>
    match mstMask h with
    | none => .next s
    | some m => writeReg s f.d.toNat m
  | none =>
    match mstFault s f, grpOf s s.c.part (grpNo f) with
    | some t, _ => .next (trapAt s t.1 t.2)
    | none, none => .next s
    | none, some x =>
      let es := s.c.actives f.mask 0 s.c.vlen
      let l := es.map fun e => ((s.num f.a + e * w) % 2 ^ 64, s.elem (8 * w) f.b.toNat e)
      if l.isEmpty || (mstMembers x).isEmpty then writeReg s f.d.toNat 0 else .next (mstSend s x w l)

/-! ## Wavelengths (R370 to R373) -/

/-- Share and allotment of a partition at a destination (R371). -/
def shareOf (s : State) (p d : Nat) : Nat := (s.part p).share[d]?.getD 0
def allotOf (s : State) (p d : Nat) : Nat := (s.part p).allot[d]?.getD 0

/-- The guaranteed count of a destination (R371). -/
def guaranteed (s : State) (d : Nat) : Nat :=
  8 + (s.link d).tr + (List.range 64).foldl (fun n p => n + allotOf s p d) 0

/-- The ceiling of a taker (R373). -/
def ceilingOf (s : State) (d : Nat) : Nat :=
  if (s.link d).rtt = 0 then 144 else min 144 (294912 / ((s.link d).rtt * 25))

/-- The count that a request is reduced to (R373); wavelengths reserved for checkpoints never move (R395). -/
def reducedCount (s : State) (part k g t : Nat) : Nat :=
  let own := shareOf s part g - (if part = 0 then (s.link g).kept else 0)
  min (min k own) (min ((s.link g).w - 8) (ceilingOf s t - (s.link t).w))

/-- Move k wavelengths of a lease's partition from destination g to t (R374). The shares of a later tenant of its number
stay (R371, R392). -/
def moveShare (s : State) (x : Lease) (k g t : Nat) : State :=
  let s := s.setLink g fun l => { l with w := l.w - k }
  let s := s.setLink t fun l => { l with w := l.w + k }
  if x.inc ≠ (s.part x.part).inc then s else
  s.setPart x.part fun p =>
    { p with share := (p.share.setIfInBounds g (shareOf s x.part g - k)).setIfInBounds t (shareOf s x.part t + k) }

/-! ## The lease unit (R374 to R378, R402) -/

/-- The lease of a partition with an id. -/
def leaseOf (s : State) (part id : Nat) : Option Lease := s.leases.find? fun l => l.part == part && l.id == id

/-- The lease of the running context's partition with an id: none of a former tenant (R404). -/
def myLease (s : State) (id : Nat) : Option Lease :=
  (leaseOf s s.c.part id).filter fun l => l.inc == (s.part s.c.part).inc

/-- Change a lease. -/
def setLease (s : State) (part id : Nat) (f : Lease → Lease) : State :=
  { s with leases := updFirst (fun l => l.part == part && l.id == id) f s.leases }

/-- Whether what waits for the unit is no request of a partition. -/
def notAskOf (p : Nat) : LeaseMsg → Bool
  | .ask r => r.part != p
  | .ending _ _ _ _ => true

/-- Whether the unit is busy: an earlier lease negotiates or reverts (R378). -/
def unitBusy (s : State) : Bool := s.leases.any fun l => l.state == 1 || l.state == 3

/-- The first reason of 5, 4, 3, 2 that ends a request at once (R402). -/
def leaseReason (s : State) (r : LeaseReq) : Option Nat :=
  if (s.leases.filter fun l => l.part == r.part && l.state == 2).length ≥ 16 then some 5
  else if r.term ≤ r.stamp + 32 then some 4
  else if !(s.link r.giver).up || !(s.link r.taker).up then some 3
  else if reducedCount s r.part r.k r.giver r.taker = 0 then some 2
  else none

/-- The lowest id that no negotiating, standing or reverting lease of a partition has (R402). -/
def freeLeaseId (s : State) (part : Nat) : Nat :=
  ((List.range 16).find? fun i => !(s.leases.any fun l => l.part == part && l.id == i && l.state != 4)).getD 0

/-- Close channels toward a destination to new flits (R374): what has been sent there is to be acknowledged. -/
def closeToward (s : State) (d : Nat) (l : Lease) : Lease := { l with drained := false, upTo := (s.link d).sentN }

/-- Whether every flit sent on a link up to a count has been acknowledged; a link that is down drains no more. -/
def drainedUpTo (s : State) (d n : Nat) : Bool := !(s.link d).up || decide (n ≤ (s.link d).sentN - (s.link d).retry.length)

/-- End a waiting `bwl` with its word. One whose context is saved, or restored and not yet in its line, takes it as an answer
that has come (R77, R446). -/
def endBwl (s : State) (who : Nat × Nat) (stamp : Nat) (x : Word) : State :=
  if (s.ctx? who.1).any fun c => !c.entering then
    s.asCtx who.1 fun s => ({ s with c := { s.c with wait := none } }.setReg who.2 x).adv
  else { s with answers := s.answers ++
    [{ ctx := who.1, stamp := stamp, arrive := s.now, code := wsMET, r1 := x, r2 := 0, trap := none }] }

/-- The word of R402. Without a grant the id is not valid, and a free value stands in its place (log 45). -/
def bwlWord (s : State) (got id reason k : Nat) : Word :=
  wd (got % 256 + (if got = 0 then s.freeVal.toNat else id) % 16 * 2 ^ 8 + reason * 2 ^ 16 + k % 256 * 2 ^ 24)

/-- The unit takes one request: it ends at once, or a lease begins to negotiate (R373, R374). Only a granted lease takes
its id, so an ended one's record stays behind it meanwhile (R402, R404). -/
def takeLeaseReq (s : State) (r : LeaseReq) : State :=
  match leaseReason s r with
  | some n => endBwl (s.useFree 1) (r.ctx, r.d) r.stamp (bwlWord s 0 0 n 0)
  | none =>
    let id := freeLeaseId s r.part
    let l : Lease := {
      part := r.part, id := id, state := 1, end_ := 0, taker := r.taker, giver := r.giver,
      k := reducedCount s r.part r.k r.giver r.taker, kGot := 0, term := r.term, start := r.stamp, drained := false,
      inc := (s.part r.part).inc, ctx := some (r.ctx, r.d), endAt := (0, 0) }
    { s with leases := closeToward s r.giver l :: s.leases }

/-- The tick and the cycle: two endings at one such moment are one (R376). -/
def clockNow (s : State) : Nat × Nat := (s.now, s.cycle)

/-- Begin the reversion of a lease that stands (R376): the taker's channels are closed and drained. -/
def revertLease (s : State) (part id code : Nat) (at_ : Nat × Nat) : State :=
  setLease s part id fun l => closeToward s l.taker { l with state := 3, end_ := code, endAt := at_ }

/-- The row of R376's table that an END code of R404 names: `prt.stop` stands before a link that goes down. -/
def endRow (code : Nat) : Nat := if code = 7 then 5 else if code = 5 then 6 else if code = 6 then 7 else code

/-- Whether an ending replaces the one that a lease has (R376): it came in the same cycle and is first in the table. -/
def endsFirst (l : Lease) (code : Nat) (at_ : Nat × Nat) : Bool :=
  l.end_ == 0 || (l.endAt == at_ && decide (endRow code < endRow l.end_))

/-- The unit takes an ending: a standing lease reverts, a negotiating one reverts after its grant. -/
def takeEnding (s : State) (part id code : Nat) (at_ : Nat × Nat) : State :=
  match leaseOf s part id with
  | none => s
  | some l =>
    match l.state with
    | 2 => revertLease s part id code at_
    | 4 => s
    | _ => if endsFirst l code at_ then setLease s part id fun l => { l with end_ := code, endAt := at_ } else s

/-- An ending that takes its effect as it comes: a reclaim, a stop, a link that goes down (R376, R377). -/
def endLease (s : State) (part id code : Nat) : State := takeEnding s part id code (clockNow s)

/-- Let the unit take what has reached it, in order (R378): a request waits while a lease negotiates or reverts. -/
def pumpLeases (s : State) : Nat → State
  | 0 => s
  | n + 1 =>
    match s.leaseQ with
    | [] => s
    | .ask r :: rest => if unitBusy s then s else pumpLeases (takeLeaseReq { s with leaseQ := rest } r) n
    | .ending part id code t :: rest => pumpLeases (takeEnding { s with leaseQ := rest } part id code t) n

/-- Let the unit take what it can. -/
def leaseUnit (s : State) : State := pumpLeases s s.leaseQ.length

/-- An ending reaches the unit (R378). -/
def askEnding (s : State) (l : Lease) (code : Nat) : State :=
  leaseUnit { s with leaseQ := s.leaseQ ++ [.ending l.part l.id code (clockNow s)] }

/-- Whether an ending that comes now changes a lease: it stands, or another ending came in this cycle and stands lower in the
table. -/
def endingDue (s : State) (l : Lease) (code : Nat) : Bool :=
  (l.state == 2 || (l.state == 3 && endsFirst l code (clockNow s))) && !(s.leaseQ.any fun m => match m with
    | .ending p i c _ => p == l.part && i == l.id && c == code
    | .ask _ => false)

/-- `bwl`. -/
def execBwl (f : H3) (s : State) : Res :=
  let term := s.num f.b
  if beyondHorizon s term then .next (horizonTrap s term) else
  let r : LeaseReq := {
    ctx := s.c.id, d := f.d.toNat, part := s.c.part, k := s.num f.a, term := term,
    taker := f.imm.toNat % 16, giver := f.imm.toNat / 16 % 16, stamp := s.now }
  .next (leaseUnit { (waitFor s (.result f.d.toNat) none s.dev s.now none) with leaseQ := s.leaseQ ++ [.ask r] })

/-- Whether a return of a lease has been accepted already: it has reached the lease, or waits for the unit. -/
def returned (s : State) (l : Lease) : Bool :=
  l.end_ == 2 || s.leaseQ.any fun m => match m with
    | .ending p i code _ => p == l.part && i == l.id && code == 2
    | .ask _ => false

/-- `bwr`. -/
def execBwr (f : H3) (s : State) : Res :=
  let id := f.imm.toNat % 16
  match myLease s id with
  | none => writeReg s f.d.toNat 1
  | some l =>
    if l.state = 4 then writeReg s f.d.toNat 1
    else if returned s l || (l.state = 3 && l.endAt != clockNow s) then writeReg s f.d.toNat 2
    else writeReg (askEnding s l 2) f.d.toNat 0

/-- The word of `bwq`. -/
def leaseWord (l : Lease) : Word :=
  wd (l.state + l.end_ * 2 ^ 4 + l.taker * 2 ^ 8 + l.giver * 2 ^ 12 + l.kGot % 256 * 2 ^ 16)

/-- `bwq`. -/
def execBwq (f : H3) (s : State) : Res :=
  writeReg s f.d.toNat (((myLease s (f.imm.toNat % 16)).map leaseWord).getD 0)

/-- The word of `bwq.d`. -/
def destWord (s : State) (part d : Nat) : Word :=
  let n := fun (p : Lease → Bool) => (s.leases.filter fun l => l.part == part && l.state == 2 && p l).length
  wd ((s.link d).w % 256 + shareOf s part d % 256 * 2 ^ 8 + guaranteed s d % 256 * 2 ^ 16 + ceilingOf s d % 256 * 2 ^ 24 +
    (s.link d).up.toNat * 2 ^ 32 + n (fun l => l.taker == d) % 16 * 2 ^ 33 + n (fun l => l.giver == d) % 16 * 2 ^ 37)

/-- `bwq.d`. -/
def execBwqD (f : H3) (s : State) : Res := writeReg s f.d.toNat (destWord s s.c.part (f.imm.toNat % 16))

/-- Lease control for the peer of link d, in the control class: 0 release notice, 1 request, 2 grant, 3 notice of a
reversion, 4 channels that go back to their giver, with a count in OPD (R374 to R376, log 25). -/
def leaseOut (s : State) (d what k : Nat) : State :=
  sendControl s d { blankFlit with kind := 4, op := BitVec.ofNat 8 what, opd := BitVec.ofNat 192 k }

/-- The destination whose channels a lease moves away from: the giver while it negotiates, the taker while it reverts. -/
def Lease.closed (l : Lease) : Nat := if l.state = 1 then l.giver else l.taker

/-- Whether a lease waits for its closed channels, and every flit on them has been acknowledged (R374). -/
def drainDue (s : State) (l : Lease) : Bool :=
  (l.state == 1 || l.state == 3) && !l.drained && drainedUpTo s l.closed l.upTo

/-- LEASE_DRAIN_COMPLETE: the flits on the closed channels are acknowledged; the peers hear of it, and the device retunes
(R374 step 2, R376). The peer of a taker whose link is down hears nothing. -/
def execLeaseDrainComplete (part id : Nat) (s : State) : Res :=
  match leaseOf s part id with
  | none => .next s
  | some l =>
    .next (if !drainDue s l then s else
      let s := setLease s part id fun l => { l with drained := true, drainAt := s.now }
      if l.state = 1 then leaseOut (leaseOut s l.giver 0 l.k) l.taker 1 l.k
      else if (s.link l.taker).up then leaseOut s l.taker 3 l.kGot else s)

/-- Whether this device is itself retuning a link: a lease of its own is between its drain and its grant, or between
the drain and the end of its reversion (R375). -/
def retuningLink (s : State) (d : Nat) : Bool :=
  s.leases.any fun l => (l.state == 1 || l.state == 3) && l.drained && (l.taker == d || l.giver == d)

/-- The grant of this device to a peer (R375). -/
def peerGrant (s : State) (d k : Nat) : Nat :=
  let l := s.link d
  if retuningLink s d then 0 else min k (min (144 - (l.inbound + l.resvRx)) l.cap)

/-- LEASE_REQUEST_AT_PEER: this device is the taker's peer. -/
def execLeaseRequestAtPeer (d k : Nat) (s : State) : Res :=
  let n := peerGrant s d k
  .next (leaseOut (s.setLink d fun l => { l with inbound := l.inbound + n }) d 2 n)

/-- LEASE_RELEASE_NOTICE: this device is the giver's peer and keeps the released receive channels reserved. -/
def execLeaseReleaseNotice (d k : Nat) (s : State) : Res :=
  .next (s.setLink d fun l => { l with inbound := l.inbound - min k l.inbound, resvRx := l.resvRx + min k l.inbound })

/-- A granted lease takes its id: the record of an earlier one goes (R402, R404). -/
def dropOld (s : State) (part id : Nat) : State :=
  { s with leases := s.leases.filter fun l => !(l.part == part && l.id == id && l.state == 4) }

/-- Send what waits for the two links of a lease: their wavelengths have changed. -/
def pumpEnds (s : State) (l : Lease) : State := pump (pump s l.giver 512) l.taker 512

/-- The peer of a giver hears that k of its reserved channels are used again (R374, R375). -/
def giveBack (s : State) (l : Lease) (k : Nat) : State := if k = 0 then s else leaseOut s l.giver 4 k

/-- The grant of k′ wavelengths ends a negotiation (R374 step 4, R376, R402); a grant of 0 leaves no record. A lease that has an
ending by then stands for no flit: its channels are closed before any is sent on them (R405). -/
def grantLease (s : State) (l : Lease) (got : Nat) : State :=
  let late := decide (l.term < s.now)
  let code := if l.end_ ≠ 0 then l.end_ else if late then 6 else 0
  let at_ := if l.end_ ≠ 0 then l.endAt else clockNow s
  let s := moveShare s l got l.giver l.taker
  let s :=
    if got = 0 then { s with leases := s.leases.erase l }
    else
      let s := dropOld (setLease s l.part l.id fun l => { l with kGot := got, ctx := none, state := 2 }) l.part l.id
      if code = 0 then s else revertLease s l.part l.id code at_
  let s := pumpEnds (if l.drained then giveBack s l (l.k - got) else s) l
  let reason := if got = 0 then 6 else if got < l.k then 1 else 0
  match l.ctx with
  | some w => endBwl (s.useFree 1) w l.start (bwlWord s got l.id reason l.k)
  | none => s

/-- LEASE_GRANT. No answer within 2^16 ticks of the stamp is a grant of 0. -/
def execLeaseGrant (part id k : Nat) (s : State) : Res :=
  match leaseOf s part id with
  | none => .next s
  | some l =>
    let out := decide (l.start + lossTicks ≤ s.now)
    .next (if l.state = 1 && (l.drained || out) then leaseUnit (grantLease s l (if out then 0 else min k l.k)) else s)

/-- LEASE_TERM. -/
def execLeaseTerm (part id : Nat) (s : State) : Res :=
  match leaseOf s part id with
  | none => .next s
  | some l => .next (if decide (l.term ≤ s.now) && endingDue s l 1 then askEnding s l 1 else s)

/-- LEASE_REVOCATION. -/
def execLeaseRevocation (part id : Nat) (s : State) : Res :=
  match leaseOf s part id with
  | none => .next s
  | some l => .next (askEnding s l 3)

/-- LEASE_REVERSION_COMPLETE: the taker's channels are drained and retuned, and W and a are restored. -/
def execLeaseReversionComplete (part id : Nat) (s : State) : Res :=
  match leaseOf s part id with
  | none => .next s
  | some l =>
    .next (if l.state = 3 && l.drained then
      leaseUnit (pumpEnds (giveBack (moveShare (setLease s part id fun l => { l with state := 4 }) l l.kGot l.taker l.giver)
        l l.kGot) l)
    else s)

/-- Whether a reversion has had the 16 ticks that tuning takes at most (R374). -/
def retuneOver (s : State) (l : Lease) : Bool := l.state == 3 && l.drained && decide (l.drainAt + 16 ≤ s.now)

/-- Whether a destination is starved (R377). -/
def starvedNow (s : State) (d : Nat) : Bool :=
  ((s.link d).clocks.any fun q => decide (q.since + 4096 ≤ s.now)) && decide ((s.link d).w < guaranteed s d)

/-- A lease that a starved destination reclaims. -/
def reclaims (s : State) (d : Nat) (l : Lease) : Bool :=
  l.giver == d && (l.state == 2 || (l.state == 3 && endsFirst l 4 (clockNow s)))

/-- STARVATION_RECLAIM (R377). -/
def execStarvationReclaim (d : Nat) (s : State) : Res :=
  .next (if starvedNow s d then (s.leases.filter (reclaims s d)).foldl (fun s l => endLease s l.part l.id 4) s else s)

end Sys2Proof.Machine
end

