-- ==== Sys2Proof/Machine/HomeEvents.lean ====
section
/-! DEFINITION. What reaches the homes of this device and what their clocks do: arrivals, requests, closes, lapses and
timeouts (R11 to R19, R53, R57, R61 to R67, R154, R161 to R168). -/
namespace Sys2Proof.Machine

/-! ## Requests that reach a home -/

/-- Take a request that has reached its home. -/
def takeMsg (s : State) (m : Msg) : Option State :=
  if s.msgs.contains m && decide (m.arrive ≤ s.now) then some { s with msgs := s.msgs.erase m } else none

/-- The stream of a request of another device. -/
def msgStream (s : State) (m : Msg) : OStream := streamAt s m.who.dev m.who.part m.who.hdr.sinc

/-- What a stream knows of a request: it has come before, with the same OSEQ. -/
def msgSeen (s : State) (m : Msg) : Option MsgSeen := (msgStream s m).met.find? fun y => y.oseq == m.who.hdr.oseq

/-- Keep a request in its stream, while its OSEQ is among the last 4,096. -/
def noteMsg (s : State) (m : Msg) (busy : Bool) : State :=
  let x := msgStream s m
  let n := BitVec.ofNat 16 m.who.hdr.oseq
  let top := if seqBefore x.next n then n else x.next
  let near := x.met.filter fun y => y.oseq != m.who.hdr.oseq && decide ((top - BitVec.ofNat 16 y.oseq).toNat ≤ 4096)
  let x : OStream := { x with met := near ++ [{ oseq := m.who.hdr.oseq, msg := m, busy := busy }] }
  setStream s (x.skip (x.met.length + x.seen.length))

/-- Whether another device's request is answered busy: its partition is checkpointed (R478), or an earlier request of its
context to that home was (R52, R390). -/
def msgBusy (s : State) (m : Msg) : Bool :=
  m.who.dev != s.dev && ((s.part m.who.part).ckPhase != 0 ||
    (msgStream s m).met.any fun y => y.busy && sameWay m y.msg && seqBefore (BitVec.ofNat 16 y.oseq) (BitVec.ofNat 16 m.who.hdr.oseq))

/-- Answer another device's request busy, after a number of ticks that the spec leaves open (R233). -/
def busyMsg (s : State) (m : Msg) : State :=
  let f := meetingFlit s 2 m.who.dev m.who.part m.who.hdr
  let retry := s.freeVal.toNat % 65
  sendFlit ((noteMsg { s with msgs := s.msgs.erase m } m true).useFree 1) m.who.part
    { f with op := 1, retry := BitVec.ofNat 16 retry }

/-- Whether another device's request names a partition that is not LIVE here in that incarnation (R392). Partition 0 is
never assigned, and its homes are always live (log 4). -/
def msgGone (s : State) (m : Msg) : Bool :=
  m.who.dev != s.dev && m.who.part != 0 &&
    (!partLive s m.who.part || m.who.hdr.dinc == 0 || m.who.hdr.dinc != (s.part m.who.part).inc.toNat)

/-- Another device's request that reaches this device joins the requests of this cycle (R59). One that has come before is
performed once: its home says again what it has said (R389). -/
def admitMsg (s : State) (m : Msg) : State :=
  if m.who.dev = s.dev || s.msgs.any (fun x => x.who == m.who && x.obj == m.obj && x.req == m.req) then s else
  match (msgSeen s m).filter fun y => !y.busy with
  | some y => y.said.foldl (fun s o => sendFlit { s with out := s.out ++ [o], free := s.free + 1 } m.who.part
      (meetingFlit s 2 m.who.dev m.who.part m.who.hdr)) s
  | none =>
    if msgBusy s m then busyMsg s m
    else
      let s := noteMsg s m false
      if msgGone s m then answer s (boundOf s 4) m.who wsGONE ones ones
      else { s with msgs := s.msgs ++ [{ m with arrive := s.now }] }

/-- A step that a request makes at its home. A request of another device that is not yet among those in flight only
joins them; one that is neither changes nothing. -/
def atHome (s : State) (m : Msg) (k : State → Option State) : Res :=
  match takeMsg s m with
  | some t => .next (if msgBusy s m then busyMsg s m else (k t).getD t)
  | none => .next (admitMsg s m)

/-- The bound of a lock's scope for a party (R156). -/
def lockBound (s : State) (m : Msg) : Nat := boundOf s (partyScope s m.who m.die)

/-- MEETING_INIT_AT_HOME. -/
def execMeetingInitAtHome (m : Msg) (s : State) : Res :=
  atHome s m fun s => match m.obj, m.req with
    | .meet _, .mtInit memb grace scope => some (homeInit s m m.die memb grace scope)
    | _, _ => none

/-- Whether an object is a meeting, a group's meeting or a barrier. -/
def isMeeting : Obj → Bool
  | .meet _ => true
  | .group _ _ => true
  | .barrier _ _ => true
  | _ => false

/-- MEETING_ARRIVAL_AT_HOME: an arrival, or the collecting wait of `mt.wait`. -/
def execMeetingArrivalAtHome (m : Msg) (s : State) : Res :=
  atHome s m fun s =>
    if !(isMeeting m.obj) then none else
    match m.req with
    | .mtArrive party u sync dg => some (homeArrive s m.obj m.who m.die party u sync dg)
    | .mtWait party u => some (homeWait s m.obj m.who m.die party u)
    | _ => none

/-- MEETING_JOIN_AT_HOME. -/
def execMeetingJoinAtHome (m : Msg) (s : State) : Res :=
  atHome s m fun s =>
    if !(isMeeting m.obj) then none else
    match m.req with
    | .mtJoin party dg => some (homeJoin s m.obj m.who m.die party dg)
    | _ => none

/-- LOCK_ACQUIRE_AT_HOME. -/
def execLockAcquireAtHome (m : Msg) (s : State) : Res :=
  atHome s m fun s => match m.obj, m.req with
    | .lock pa, .lkAcquire hdl u => some (homeAcquire s pa m.die m.who hdl u (lockBound s m))
    | _, _ => none

/-- LOCK_RELEASE_AT_HOME. -/
def execLockReleaseAtHome (m : Msg) (s : State) : Res :=
  atHome s m fun s => match m.obj, m.req with
    | .lock pa, .lkRelease => some (homeRelease s pa m.who (lockBound s m))
    | _, _ => none

/-- LOCK_MEND_AT_HOME. -/
def execLockMendAtHome (m : Msg) (s : State) : Res :=
  atHome s m fun s => match m.obj, m.req with
    | .lock pa, .lkMend => some (homeMend s pa m.who (lockBound s m))
    | _, _ => none

/-- BUFFER_CLAIM_AT_HOME. -/
def execBufferClaimAtHome (m : Msg) (s : State) : Res :=
  atHome s m fun s => match m.obj, m.req with
    | .buf part n, .cbClaim cnt u fill => some (homeClaim s part n m.who cnt u fill)
    | _, _ => none

/-- BUFFER_FILL_AT_HOME: no answer to an engine's fill reaches a context. -/
def execBufferFillAtHome (m : Msg) (s : State) : Res :=
  atHome s m fun s => match m.obj, m.req with
    | .buf part n, .cbFill slot copy => some (homeFill s part n m.who slot copy)
    | _, _ => none

/-- BUFFER_RECV_AT_HOME. -/
def execBufferRecvAtHome (m : Msg) (s : State) : Res :=
  atHome s m fun s => match m.obj, m.req with
    | .buf part n, .cbRecv cnt u routed => some (homeRecv s part n m.who cnt u routed)
    | _, _ => none

/-- What another device's party is told of a buffer that it binds, as the message of `askBind` carries it: the result of
R160 and the BASE, then HOST, the scope, LGSZ, the die, NP and CAP. -/
def bindWords (b : Option Buf) (code : Nat) : Word × Word :=
  match b with
  | none => (wd code, 0)
  | some b => (wd (code + b.base * 2 ^ 8), wd (b.host.toNat + b.scope * 2 + b.lgsz * 16 + b.die * 2 ^ 10 + b.np.toNat * 2 ^ 11 + b.cap * 2 ^ 16))

/-- The bound of the answer about an object or its binding: the fabric's for another device's party, else that of the
object's scope, or of the caller's place while the object has none (R137). -/
def queryBound (s : State) (m : Msg) (scope : Option Nat) : Nat :=
  boundOf s (if m.who.dev ≠ s.dev then 4 else scope.getD (partyScope s m.who m.die))

/-- The scope of the object that a request names (R137): of a record to be bound that the record gives, when it is good. -/
def queryScope (s : State) (o : Obj) (what arg : Nat) : Option Nat :=
  match o with
  | .buf part n =>
    if what = 0 && arg ≠ 0 then (if bufRecordBad (peek s (arg - 1) 64) then none else some (fieldAt (peek s (arg - 1) 64) 11 1 % 8))
    else (bufOf s part n).map Buf.scope
  | .chain part n =>
    if arg ≠ 0 then (if chainRecordBad (peek s (arg - 1) 64) then none else some (fieldAt (peek s (arg - 1) 64) 8 1))
    else (chainOf s part n).map Chain.scope
  | _ => none

/-- Whether the asker of a binding is partition-level code, which makes c255 the event buffer (R458). -/
def askerTrusted (s : State) (m : Msg) : Bool :=
  m.who.dev == s.dev && (s.ctx? m.who.id).any fun c => decide (1 ≤ c.priv.toNat)

/-- A `cb.def`, `chain.def`, `cb.st`, `rt.open.rx` or `rt.close.rx` at the home of its object (R137, R160, R416). A party
of this device takes the result alone, one of another device what its own binding needs as well. -/
def homeQuery (s : State) (m : Msg) (what arg : Nat) : Option State :=
  let bd := queryBound s m (queryScope s m.obj what arg)
  if !partLive s m.who.part then some (answer s bd m.who wsGONE ones ones) else
  match m.obj, what with
  | .buf part n, 2 =>
    some (match bufOf s part n with
      | some b => answer s bd m.who wsMET (bufStatus (rereadHpr s b)) 0
      | none => unboundAnswer s m.who n)
  | .buf part n, 3 =>
    some (match bufOf s part n with
      | some b => let r := bindExpert s b arg; answer r.2 bd m.who wsMET (wd r.1) 0
      | none => unboundAnswer s m.who n)
  | .buf part n, 4 =>
    some (match bufOf s part n with
      | some b => let r := unbindExpert s b; answer r.2 bd m.who wsMET (wd r.1) 0
      | none => unboundAnswer s m.who n)
  | .buf part n, 0 =>
    let old := (bufOf s part n).map (rereadHpr s)
    let held := old.any bufHeld
    let busy := old.any bufBusy
    let words := fun s code => if m.who.dev = s.dev then (wd code, 0) else bindWords (bufOf s part n) code
    let done := fun s code => answer s bd m.who wsMET (words s code).1 (words s code).2
    if held then some (done s 2)
    else if arg = 0 then some (if busy then done s 2 else done (unbindBuf s part n) 0)
    else
      let bs := peek s (arg - 1) 64
      if bufRecordBad bs then some (done s 1)
      else if busy then some (done s 2)
      else
        let s := unbindBuf s part n
        let b := bufBinding s n { dev := s.dev, pa := arg - 1, die := m.die } bs
        let events := decide (n = 255) && askerTrusted s m
        some (done (refreshNp { s with bufs := s.bufs ++ [{ b with part := part, events := events }] }) 0)
  | .chain part n, 1 =>
    let busy := (chainOf s part n).any fun c => !c.waits.isEmpty
    let scope := fun s => if m.who.dev = s.dev then 0 else ((chainOf s part n).map fun c => wd (c.scope * 2 + c.die * 2 ^ 10)).getD 0
    let done := fun s code => answer s bd m.who wsMET (wd code) (scope s)
    if arg = 0 then some (if busy then done s 2 else done (unbindChain s part n) 0)
    else
      let bs := peek s (arg - 1) 64
      if chainRecordBad bs then some (done s 1)
      else if busy then some (done s 2)
      else
        let s := unbindChain s part n
        let c := chainBinding s n { dev := s.dev, pa := arg - 1, die := m.die } bs
        some (done { s with chains := s.chains ++ [{ c with part := part }] } 0)
  | _, _ => none

/-- BUFFER_FREE_AT_HOME, and a request about a binding. -/
def execBufferFreeAtHome (m : Msg) (s : State) : Res :=
  atHome s m fun s => match m.obj, m.req with
    | .buf part n, .cbFree slot => some (homeFree s part n m.who slot)
    | _, .query what arg => homeQuery s m what arg
    | _, _ => none

/-- CHAIN_PUB_AT_HOME, and the high-water read of a chained `vsetl` or `vnext`. -/
def execChainPubAtHome (m : Msg) (s : State) : Res :=
  atHome s m fun s => match m.obj, m.req with
    | .chain part n, .chPub h => some (homePub s part n m.who h)
    | .chain part n, .chRead full es u => some (homeChRead s part n m.who full es u)
    | _, _ => none

/-! ## The clocks of the homes -/

/-- MEETING_CLOSE_DEADLINE: the home's tick has reached DL + GRACE. -/
def execMeetingCloseDeadline (o : Obj) (s : State) : Res :=
  match meetOf s o with
  | some m => .next (if m.dlv && decide (m.dl + m.grace ≤ s.now) && !closeHeld s o then closeMeet s m else s)
  | none => .next s

/-- Whether the last cycle of a tick runs. -/
def lastCycle (s : State) : Bool := decide (cyclesOfTick s ≤ s.cyc + 1)

/-- Whether a tick's time for give-ups has come: the tick is past, or its last cycle runs in the last of its periods, which
no correction holds once more (R44). What a home makes in the same tick so comes first (R59, R154). -/
def tickOver (s : State) (t : Nat) : Bool := decide (t < s.now) || (t == s.now && lastCycle s && decide (0 ≤ s.tickAdj))

/-- Whether a waiter's time to be given up has come (R154). -/
def giveUpDue (s : State) (m : Meet) (w : MtWaiter) : Bool := !w.gave && tickOver s (w.u + m.grace)

/-- MEETING_WAIT_GIVE_UP. -/
def execMeetingWaitGiveUp (o : Obj) (w : Who) (s : State) : Res :=
  match meetOf s o with
  | some m => .next (if m.waits.any fun x => x.who == w && giveUpDue s m x then homeGiveUp s o w else s)
  | none => .next s

/-- LOCK_HOLD_LAPSE. -/
def execLockHoldLapse (pa : Nat) (s : State) : Res := .next (homeLapse s pa)

/-- LOCK_ACQUIRE_TIMEOUT. -/
def execLockAcquireTimeout (pa : Nat) (w : Who) (s : State) : Res :=
  match lockOf s pa with
  | some l => .next (if l.queue.any fun x => x.who == w && tickOver s (x.u + x.b) then homeAcqTimeout s pa w else s)
  | none => .next s

/-- SLOT_HOLE_CONVERSION. -/
def execSlotHoleConversion (part buf slot : Nat) (s : State) : Res := .next (homeHole s part buf slot)

/-- Whether the time of a waiting claim or receive is over (R161, R163). -/
def cbDue (s : State) (b : Buf) (w : CbWaiter) : Bool := tickOver s (w.u + boundOf s b.scope)

/-- CLAIM_TIMEOUT. -/
def execClaimTimeout (part buf : Nat) (w : Who) (s : State) : Res :=
  match bufOf s part buf with
  | some b => .next (if b.claims.any fun x => x.who == w && cbDue s b x then homeClaimTimeout s part buf w else s)
  | none => .next s

/-- RECV_TIMEOUT. -/
def execRecvTimeout (part buf : Nat) (w : Who) (s : State) : Res :=
  match bufOf s part buf with
  | some b => .next (if b.recvs.any fun x => x.who == w && cbDue s b x then homeRecvTimeout s part buf w else s)
  | none => .next s

/-- CHAIN_READ_TIMEOUT. -/
def execChainReadTimeout (part ch : Nat) (w : Who) (s : State) : Res :=
  match chainOf s part ch with
  | some c => .next (if c.waits.any fun x => x.who == w && tickOver s (x.u + boundOf s c.scope) then homeChTimeout s part ch w else s)
  | none => .next s

end Sys2Proof.Machine
end

