-- ==== Sys2Proof/Machine/Verdicts.lean ====
section
/-! DEFINITION. How waits end (R13, R14, R47 to R50, R68, R137, R367), the order of vector issue (R26) and the lending of
a beat (R25). -/
namespace Sys2Proof.Machine

/-! ## The end of a wait -/

/-- The end of a `cb.def` or `chain.def` whose record is on another device: the local binding follows the home's
(R160). `r1` and `r2` are the words of `bindWords`. -/
def endBind (s : State) (d n home : Nat) (chain : Bool) (pa : Option Nat) (r1 r2 : Word) : State :=
  let part := s.c.part
  let res := r1.toNat % 256
  let g := fun lo w => nbits r2.toNat lo w
  let s :=
    if res ≠ 0 then s
    else match chain, pa with
    | true, none => { s with chains := s.chains.filter fun c => !(c.part == part && c.n == n) }
    | true, some pa =>
      { s with chains := s.chains.filter (fun c => !(c.part == part && c.n == n)) ++
          [{ part := part, n := n, pa := pa, home := home, die := g 10 1, h := 0, scope := g 1 3, waits := [] }] }
    | false, none => unbindBuf s part n
    | false, some pa =>
      let s := unbindBuf s part n
      let b : Buf := {
        part := part, n := n, pa := pa, home := home, die := g 10 1, base := r1.toNat / 256, cap := g 16 16, lgsz := g 4 6,
        host := g 0 1 == 1, np := g 11 1 == 1, scope := g 1 3, rsv := 0, fre := 0, con := 0, hpr := 0, rpos := 0, fpos := 0,
        cpos := 0, slots := [], claims := [], recvs := [], expert := none
        events := decide (n = 255) && decide (1 ≤ s.c.priv.toNat) }
      refreshNp { s with bufs := s.bufs ++ [b] }
  endPlain s d 0 wsMET (wd res) 0

/-- The home and the scope of a binding of the running context's partition as this device knows it (R160). -/
def bindingRec (s : State) (n : Nat) (chain : Bool) : Option (Rec × Nat) :=
  if chain then (chainOf s s.c.part n).map fun b => (b.homeRec, b.reach s)
  else (bufOf s s.c.part n).map fun b => (b.homeRec, b.reach s)

/-- A home has answered for a binding that moves to the record `r` (R160): a refusal takes back what the other home has done,
and the instruction then ends with it; `w1` and `w2` are what the new home has answered. -/
def endMove (s : State) (r : Rec) (step : Rebind) (d n : Nat) (chain : Bool) (code : Nat) (r1 r2 w1 w2 : Word) : State :=
  let ok := code == wsMET && r1.toNat % 256 == 0
  let res := if code = wsMET then wd (r1.toNat % 256) else r1
  let go := { s with c := { s.c with wait := none } }
  let op := fun step a b => WaitOp.rebind step d n chain r.dev r.pa r.die a b
  match step, bindingRec s n chain with
  | .atNew, some o => if ok then askMove go o.1 o.2 n chain none (op .atOld r1 r2) else endPlain s d 0 code res 0
  | .atNew, none => if code = wsMET then endBind s d n r.dev chain (some r.pa) r1 r2 else endPlain s d 0 code res 0
  | .atOld, _ =>
    if ok then endBind s d n r.dev chain (some r.pa) w1 w2
    else askMove go r 4 n chain none (.undo d code res)
  | .oldFirst, _ => if ok then askMove go r 3 n chain (some r.pa) (op .atHere 0 0) else endPlain s d 0 code res 0
  | .atHere, some o =>
    if ok || o.1.dev == s.dev then endPlain s d 0 code res 0
    else askMove go o.1 o.2 n chain (some o.1.pa) (.undo d code res)
  | .atHere, none => endPlain s d 0 code res 0

/-- Whether an object is a lock. -/
def isLock : Obj → Bool
  | .lock _ => true
  | _ => false

/-- The end of the running context's wait with a code and two results (R14, R50, R146, R161, R359, R367). An
`lk.acq` without a table entry changes nothing (R56). -/
def endWait (s : State) (w : Wait) (code : Nat) (r1 r2 : Word) : State :=
  match w.op with
  | .plain d1 d2 =>
    if code = wsOVERFLOW && w.obj.any isLock then endPlain s 0 0 code 0 0 else endPlain s d1 d2 code r1 r2
  | .grant d next len chn => endGrant s d next len chn code r1
  | .copy d dst src buf fill => endCopyClaim s d dst src buf fill code r1
  | .reduce _ d1 d2 _ => endPlain s d1 d2 code r1 r2
  | .rebind step d n chain dev pa die w1 w2 => endMove s { dev := dev, pa := pa, die := die } step d n chain code r1 r2 w1 w2
  | .undo d code r1 => endPlain s d 0 code r1 0
  | .bind d n chain pa => if code = wsMET then endBind s d n w.dev chain pa r1 r2 else endPlain s d 0 code r1 0
  | .tick => s
  | .pause => s
  | .gang _ _ _ => s
  | .result d => (({ s with c := { s.c with wait := none } }).setReg d r1).adv

/-- Whether an answer gives an `mld.red` the verdict of a generation that it is in: not the answer of a home that gave
up on it (R367). -/
def isVerdict (r : Ans) : Bool := (r.code == wsMET || (r.code == wsABSENT && r.r1 != ones)) && r.trap.isNone

/-- What a verdict says to a reducer. -/
def redVOf (r : Ans) : RedV := { gen := r.gen, code := r.code, absent := r.r1, joined := r.r2, pres := r.pres }

/-- Whether a wait is that of an `mld.red`. -/
def isReduce (w : Wait) : Bool :=
  match w.op with
  | .reduce _ _ _ _ => true
  | _ => false

/-- Whether a wait is that of a `bwl`, which its lease unit ends (R402). -/
def isGrantWait (w : Wait) : Bool :=
  match w.op with
  | .result _ => w.obj.isNone
  | _ => false

/-- An answer ends the running context's wait; an `mld.red` whose verdict has come waits on for the result. -/
def takeAnswer (s : State) (w : Wait) (r : Ans) : State :=
  match r.trap with
  | some t => trapAt { s with c := { s.c with wait := none } } t.1 t.2
  | none =>
    if isReduce w && isVerdict r then { s with c := { s.c with wait := some { w with limit := none } } }
    else endWait s w r.code r.r1 r.r2

/-- What an answer does to the device's reducer. -/
def reducerAnswer (s : State) (r : Ans) : State :=
  if isVerdict r then redVerdict s r.ctx r.stamp (redVOf r)
  else if r.code = wsABSENT then s
  else redForget s r.ctx r.stamp

/-- Release the reply reservation of a meeting-class request (R391): its answer, or with `acks` its acknowledgement (R68), has
come. -/
def closeAsk (s : State) (p : Msg → Bool) : State := { s with resvs := s.resvs.filter fun r => !(r.msg.any p) }

/-- An answer reaches its context, its saved image (R446), or only the reducer. A restored context first enters its line. -/
def deliverAnswer (s : State) (r : Ans) : State :=
  if engineId < r.ctx then eventAnswer s (r.ctx - eventId 0) r else
  let mine := fun (w : Wait) => w.stamp == r.stamp && (w.obj.isSome || isGrantWait w)
  if (s.ctx? r.ctx).any (fun c => c.entering && c.wait.any mine) then { s with answers := s.answers ++ [r] } else
  let s := match (s.ctx? r.ctx).bind fun c => c.wait.filter mine with
    | some w => s.asCtx r.ctx fun s => takeAnswer s w r
    | none => { s with saved := s.saved.map fun x =>
        if x.ctx.id = r.ctx && x.ctx.wait.any mine then { x with kept := some r } else x }
  reducerAnswer s r

/-- Whether the party of an answer waits for another device's home. -/
def awaitsFar (s : State) (r : Ans) : Bool :=
  ((s.ctxs ++ s.saved.map Saved.ctx).any fun c => c.id == r.ctx && c.wait.any fun w => w.stamp == r.stamp && w.dev != s.dev) ||
  ((redGroup s r.ctx r.stamp).any fun x => grpHomeDev x.record != s.dev) ||
  (decide (engineId < r.ctx) && (s.part (r.ctx - eventId 0)).evAsk == some r.stamp)

/-- VERDICT_RECEIVED: an answer of a home of this device that is due, or of another device's. -/
def execVerdictReceived (r : Ans) (s : State) : Res :=
  if s.answers.contains r && decide (r.arrive ≤ s.now) then
    .next (deliverAnswer { s with answers := s.answers.erase r } r)
  else
    let s' := closeAsk s fun m => m.who.id == r.ctx && m.who.stamp == r.stamp && m.who.hdr.tag == r.tag
    .next (if awaitsFar s r then deliverAnswer s' r else s')

/-- Whether a request is a meeting's arrival or collecting wait, which its home acknowledges (R68). -/
def isAcked (m : Msg) : Bool :=
  match m.req with
  | .mtArrive _ _ _ _ => true
  | .mtWait _ _ => true
  | _ => false

/-- HOME_ACK_RECEIVED: the acknowledgement of another device's home (R68), for a context or its saved image. -/
def execHomeAckReceived (ctx dl grace : Nat) (s : State) : Res :=
  .next (State.withParty (closeAsk s fun m => m.who.id == ctx && isAcked m) ctx fun c => { c with wait := c.wait.map fun w =>
    if w.dev ≠ s.dev && w.limit.isSome && (w.obj.any isMeeting) then
      { w with limit := some ((if isReduce w then dl else min (max w.u w.stamp) dl) + grace + lossTicks) }
    else w })

/-- Whether a wait has lost its home (R68). -/
def lossDue (s : State) (w : Wait) : Bool := w.limit.any fun l => decide (l ≤ s.now)

/-- The end of the running context's wait when its home is lost. -/
def endLost (s : State) (w : Wait) : State :=
  let id := s.c.id
  let s := endWait s w wsNOVERDICT ones ones
  if isReduce w then redForget s id w.stamp else s

/-- HOME_LOSS_TIMEOUT. -/
def execHomeLossTimeout (ctx : Nat) (s : State) : Res :=
  match (s.ctx? ctx).bind Ctx.wait with
  | some w => .next (if lossDue s w then s.asCtx ctx fun s => endLost s w else s)
  | none => .next s

/-- Whether a context's `waitt` has reached its tick (R13). A restored context first enters its line (R77). -/
def waittDue (s : State) (c : Ctx) : Bool := !c.entering && c.wait.any fun w => w.op == .tick && decide (w.u ≤ s.now)

/-- WAITT_COMPLETION. -/
def execWaittCompletion (ctx : Nat) (s : State) : Res :=
  match s.ctx? ctx with
  | some c =>
    .next (if waittDue s c then
      s.asCtx ctx fun s => endWaitt s 0
    else s)
  | none => .next s

/-! ## Vector issue (R26) and beats (R25) -/

/-- The major of the head that a context stands at. -/
def Ctx.major (c : Ctx) : Option Nat := c.line.map fun l => (bitsAt (lineHalf l.bytes (headIdx c.pc.toNat)) 8 6).toNat

/-- Whether a hold waits for no answer. -/
def holdReady (h : Hold) : Bool := (h.tag.isNone || h.ans.isSome) && h.many.all fun x => x.2.isSome

/-- The limit of a context that its slice's end stops: what has started goes on to its end (R446). -/
def sliceStop : Nat := 2 ^ 23

/-- Whether a context may issue: while it is being stopped (R445, R446), or while its partition stops or gathers a checkpoint
(R427, R478), only an instruction under way, with this hold, goes on; at a slice's end so do those that have progress
entries. -/
def mayGo (s : State) (c : Ctx) (h : Option Hold) : Bool :=
  let p := s.part c.part
  if p.stop.isSome then h.isSome
  else if c.stopping.isSome then h.isSome || (c.stopping == some sliceStop && !c.prog.isEmpty && !c.tst.getLsbD 2)
  else if p.ckPhase = 0 then true
  else p.ckPhase == 1 && h.isSome

/-- Whether the head of a context's queue may issue: what has been issued before a stop of its partition runs to completion
(R427). -/
def headMay (s : State) (c : Ctx) (h : Option Hold) : Bool := (s.part c.part).stop.isSome || mayGo s c h

/-- Whether an entry is a scalar store that waits behind vector instructions (R440). -/
def VqEntry.isStore (e : VqEntry) (c : Ctx) : Bool := !(e.at_ c).op.any vecOp

/-- How many vector instructions a context's queue holds (R21). -/
def Ctx.queued (c : Ctx) : Nat := (c.vq.filter fun e => !e.isStore c).length

/-- Whether an instruction latches, reads or folds what the seat's array holds (R290, R292, R298). -/
def onArray (o : Nat × Nat) : Bool := o.1 == 0x25 || o.1 == 0x26 || o == (0x29, 1)

/-- Whether a context is part-way in an `mmla`, whose tile is being reloaded (R293). -/
def Ctx.midMmla (c : Ctx) : Bool :=
  (c.hold.isSome && c.op.any fun o => o.1 == 0x26) ||
  c.vq.head?.any fun e => e.hold.isSome && (e.at_ c).op.any fun o => o.1 == 0x26

/-- Whether another context of a context's seat is part-way in an `mmla`: what uses the array waits for it (R290, R292,
R298). -/
def arrayBusy (s : State) (c : Ctx) : Bool :=
  s.ctxs.any fun x => x.id != c.id && x.core == c.core && x.pos == c.pos && x.midMmla

/-- Whether the array keeps an instruction of a context from starting. -/
def arrayKeeps (s : State) (c : Ctx) : Bool := c.op.any onArray && arrayBusy s c

/-- Whether the head of a context's queue has its operands and its unit. -/
def headReady (s : State) (c : Ctx) : Bool :=
  c.vq.head?.any fun e =>
    !e.isStore c && e.delay == 0 && e.hold.all holdReady && headMay s c e.hold && !arrayKeeps s (e.at_ c)

/-- Whether the head of a context's queue is a store, every vector instruction before which is over (R440). -/
def storeReady (s : State) (c : Ctx) : Bool :=
  c.vq.head?.any fun e => e.isStore c && e.hold.all holdReady && headMay s c e.hold

/-- Whether a vector instruction of a context may issue: the head of its queue, or one that finds the queue empty. -/
def vectorReady (s : State) (c : Ctx) : Bool :=
  headReady s c || (c.vq.isEmpty && c.wait.isNone && c.hold.isNone && c.op.any vecOp && !arrayKeeps s c && mayGo s c none)

/-- Whether x goes before y (R26). -/
def issuesBefore (x y : Ctx) : Bool :=
  decide (y.prio < x.prio) || (x.prio == y.prio && (decide (x.born < y.born) || (x.born == y.born && decide (x.slot < y.slot))))

/-- The context that a seat chooses among those that satisfy `p`. -/
def seatChoice (s : State) (core pos : Nat) (p : Ctx → Bool) : Option Ctx :=
  (s.ctxs.filter fun c => c.core == core && c.pos == pos && p c).foldl (fun b c =>
    match b with
    | none => some c
    | some b => if issuesBefore c b then some c else some b) none

/-- Whether the cycle is one of a seat's own beats, or one lent to it (R25). -/
def ownsBeat (s : State) (t : Seat) : Bool :=
  let b := s.cycle % 4
  (decide (t.pos ≤ b) && decide (b < t.pos + t.size)) || t.lent.contains b

/-- The lane side of a slot: false where no lane partition is in force (R27). -/
def Seat.laneSide (t : Seat) (slot : Nat) : Bool := t.lanePart && t.side slot

/-- Whether a lane side of a seat has still its issue of this cycle (R26). -/
def sideFree (s : State) (t : Seat) (side : Bool) : Bool := !s.issued.contains (t.core, t.pos, side)

/-- A context's lane side has had its issue of this cycle. -/
def markIssued (s : State) (t : Seat) (slot : Nat) : State := { s with issued := (t.core, t.pos, t.laneSide slot) :: s.issued }

/-- The contexts whose queue heads a seat issues at a beat: one of each lane side that is in force (R26, R27). DESIGN CHOICE
(log 60): of two that issue in one cycle, side 0's is performed first, and comes first to the array. -/
def beatChoices (s : State) (core pos : Nat) : List Ctx :=
  match s.seat? core pos with
  | none => []
  | some t => [false, true].filterMap fun side =>
      if sideFree s t side then seatChoice s core pos fun c => headReady s c && t.laneSide c.slot == side else none

/-- A beat passes for the heads of a seat's queues. -/
def ageHeads (s : State) (core pos : Nat) : State :=
  let age := fun (c : Ctx) => if c.core == core && c.pos == pos then
      { c with vq := match c.vq with
          | e :: t => { e with delay := e.delay - 1 } :: t
          | [] => [] }
    else c
  { s with c := age s.c, others := s.others.map age }

/-- A beat of a seat: the heads it chooses issue next. -/
def seatBeat (s : State) (core pos : Nat) : State :=
  match s.seat? core pos with
  | none => s
  | some t =>
    let l := beatChoices s core pos
    ageHeads (l.foldl (fun s c => markIssued s t c.slot) { s with issue := s.issue ++ l.map Ctx.id }) core pos

/-- Whether the running context's vector instruction, which finds its queue empty, issues in this cycle: at a beat of its seat
that its side has not used, unless another context goes before it (R25, R26). -/
def mayPass (s : State) : Bool :=
  let t := s.mySeat
  ownsBeat s t && sideFree s t (t.laneSide s.c.slot) && !arrayKeeps s s.c &&
    !(s.others.any fun c => c.core == s.c.core && c.pos == s.c.pos && t.laneSide c.slot == t.laneSide s.c.slot &&
      vectorReady s c && issuesBefore c s.c)

/-- What a residue mismatch may name (R453): a unit from 1 to 3 and a lane cluster. -/
def suspectOk (e : Nat × Nat) : Bool :=
  decide (e.2 < 2 ^ 16) && decide (1 ≤ e.2 % 256) && decide (e.2 % 256 ≤ 3)

/-- VECTOR_ISSUE: a beat of a seat, which may find a residue mismatch twice in the vector instruction that it has chosen for
this cycle, or chooses now (R25, R26, R453). -/
def execVectorIssue (core pos : Nat) (err : Option (Nat × Nat)) (s : State) : Res :=
  match s.seat? core pos with
  | none => .next s
  | some t =>
    let mark := fun (s : State) (c : Ctx) => match err.filter suspectOk with
      | some e => s.withCtx c.id fun c => { c with perr := some e }
      | none => s
    match (s.issue.filterMap s.ctx?).find? fun c => c.core == core && c.pos == pos && headReady s c with
    | some c => .next (mark s c)
    | none =>
      if !ownsBeat s t then .next s else
      match seatChoice s core pos fun c => vectorReady s c && sideFree s t (t.laneSide c.slot) with
      | some c => .next (seatBeat (mark s c) core pos)
      | none => .next (seatBeat s core pos)

/-- Whether a seat spans a position. -/
def Seat.spans (t : Seat) (core pos : Nat) : Bool := t.core == core && decide (t.pos ≤ pos) && decide (pos < t.pos + t.size)

/-- BEAT_LEND: the beat of an unowned position goes to one seat of the core whose partition opted out of strict timing. -/
def execBeatLend (core pos toPos : Nat) (s : State) : Res :=
  let free := !(s.seats.any fun t => t.spans core pos || (t.core == core && t.lent.contains pos)) &&
    !(s.rots.any fun r => r.core == core && r.pos == pos)
  let ok := (s.seat? core toPos).any fun t => (s.part t.part).loose
  .next (if free && ok && decide (pos < 4) then s.setSeat core toPos fun t => { t with lent := t.lent ++ [pos] } else s)

end Sys2Proof.Machine
end

