-- ==== Sys2Proof/Machine/Saves.lean ====
section
/-! DEFINITION. The saved image of a context, its saving and its restoring (R302, R444 to R452). -/
namespace Sys2Proof.Machine

/-! ## Save areas (R464) -/

/-- Slots of a seat entry. -/
def SeatRec.slots (r : SeatRec) : Nat := 2 ^ r.lgk

/-- Number of a slot over the valid seats in record order. -/
def slotIndex (core pos slot : Nat) : List SeatRec → Nat
  | [] => slot
  | r :: t => if r.core = core ∧ r.pos = pos then slot else r.slots + slotIndex core pos slot t

/-- Slots of all seats of a partition. -/
def allSlots (p : Part) : Nat := (p.seatRecs.map SeatRec.slots).sum

/-- Address of a slot's save area. -/
def saveAddr (p : Part) (core pos slot : Nat) : Nat := p.save + slotIndex core pos slot p.seatRecs * (p.savesz * 65536)

/-! ## The image (R449, R450) -/

/-- A list of bytes with zeros to a multiple of 64. -/
def padLine (bs : List Byte) : List Byte := padTo (ceilDiv bs.length 64 * 64) bs

/-- Numbers of the set bits of a word below n. -/
def bitList (x n : Nat) : List Nat := (List.range n).filter fun i => x.testBit i

/-- Rows saved per vector register (R450). -/
def savedRows (c : Ctx) (dlen lanes : Nat) : Nat := min dlen (ceilDiv (c.vlen * c.ew) (32 * lanes))

/-- Area 3: streams, formats, descriptors, and 128 bytes for the latch record and the unfold configuration, whose layout
the spec does not give. -/
def streamArea (c : Ctx) (open_ : List Word) : List Byte :=
  (c.q.toList.flatMap fun q =>
    leBytes 8 q.base.toNat ++ leBytes 8 q.stride.toNat ++ leBytes 8 (q.pos.toNat + q.valid.toNat * 2 ^ 63)) ++
  (c.f.toList.flatMap fun x => leBytes 8 x.toNat) ++ (c.d.toList.flatMap fun x => padTo 128 x) ++ ofWords open_

/-- Area 2. -/
def scalarArea (c : Ctx) : List Byte :=
  ((List.range 31).flatMap fun i => leBytes 8 (c.reg (i + 1)).toNat) ++
  ([c.avl, c.ws, c.fps, c.cause, c.epc, c.tval, c.tst].flatMap fun x => leBytes 8 x.toNat) ++ List.replicate 16 0

/-- Areas 4 to 6. -/
def registerAreas (c : Ctx) (rows dlen lanes : Nat) : List Byte :=
  ((bitList c.mDirty.toNat 8).flatMap fun i => padTo (ceilDiv c.vlen 512 * 64) (leBytes (ceilDiv c.vlen 8) (c.mask i % 2 ^ c.vlen))) ++
  ((bitList c.vDirty.toNat 32).flatMap fun r => (List.range rows).flatMap fun m => (List.range lanes).flatMap fun l =>
    getCells c.v (vKey r l (4 * m)) 4) ++
  ((bitList c.aDirty.toNat 32).flatMap fun r => (List.range dlen).flatMap fun m => (List.range lanes).flatMap fun n =>
    leBytes 8 (getCell 0 (aKey r m n) c.a).toNat)

/-- Area 1, for an image of n lines. -/
def headerArea (c : Ctx) (rows dlen lanes n : Nat) (waitc : Bool) : List Byte :=
  leBytes 8 c.vl.toNat ++ leBytes 8 c.vcfg.toNat ++ leBytes 8 c.es.toNat ++ leBytes 8 c.esk.toNat ++ leBytes 8 c.pc.toNat ++
  leBytes 8 (c.aDirty.toNat * 2 ^ 32 + c.vDirty.toNat) ++ leBytes 1 c.mDirty.toNat ++ leBytes 1 (min 8 c.prog.length) ++
  leBytes 1 rows ++ leBytes 1 dlen ++ leBytes 2 lanes ++ leBytes 1 (waitc.toNat * 4 + min 3 c.prio) ++
  leBytes 1 c.gang.length ++ leBytes 4 n ++ leBytes 4 c.sat.toNat ++
  padTo 64 ((c.prog.take 8).flatMap fun e => leBytes 8 (e.ord * 2 ^ 56 + e.idx)) ++
  padTo 64 (c.gang.flatMap fun g => leBytes 1 (g.1 * 4 + g.2))

/-- The image of a context. -/
def imageOf (c : Ctx) (dlen lanes : Nat) (waitc : Bool) (open_ : List Word) : List Byte :=
  let rows := savedRows c dlen lanes
  let rest := scalarArea c ++ streamArea c open_ ++ registerAreas c rows dlen lanes
  headerArea c rows dlen lanes (3 + ceilDiv rest.length 64) waitc ++ padLine rest

/-- Write n lines of bytes to physical memory, past the caches (R450). -/
def pokeLines (s : State) (pa : Nat) (bs : List Byte) : Nat → State
  | 0 => s
  | n + 1 => pokeLines (pastCaches s pa (bs.take 64)) (pa + 64) (bs.drop 64) n

/-- Read physical memory, 64 bytes at a time. -/
def peekLines (s : State) (pa : Nat) : Nat → List Byte
  | 0 => []
  | n + 1 => peek s pa 64 ++ peekLines s (pa + 64) n

/-! ## Saving (R445, R446) -/

/-- A wait that the home keeps the answer of (R446). A `waitt`, a pause and a `vgang` are issued again. -/
def keepsWait (w : Wait) : Bool :=
  match w.op with
  | .tick => false
  | .pause => false
  | .gang _ _ _ => false
  | _ => true

/-- Whether an instruction that is part-way stands where its context can be stopped: it has done nothing yet, or it is a vector
instruction that has finished an element group (R177, R310, R445). -/
def Hold.atEnd (h : Hold) (limit : Option Nat) : Bool :=
  h.tag.isNone && h.ans.isNone && h.many.isEmpty && h.elem == 0 && h.aux.isEmpty &&
    h.todo.all fun l => limit.any fun n => l.all fun e => decide (n ≤ e)

/-- What a context is part-way in: the head of its queue, or its next instruction. -/
def Ctx.partWay (c : Ctx) : Option Hold := if c.vq.isEmpty then c.hold else c.vq.head?.bind VqEntry.hold

/-- Whether a context can be stopped now. -/
def stoppable (s : State) (c : Ctx) : Bool :=
  c.hold.all (fun h => h.atEnd c.stopping) && c.partWay.all (fun h => h.atEnd c.stopping) &&
    !(s.sides.any fun x => x.going == some c.id)

/-- Whether a context can be stopped with no progress entry, as a slice's end stops it (R446): it stands in its handler, or it
waits, or what had started has finished. -/
def stoppableWhole (s : State) (c : Ctx) : Bool :=
  stoppable s c && (c.prog.isEmpty || c.tst.getLsbD 2 || c.wait.isSome)

/-- The first element that a context that is being pre-empted does not come to: the end of the element group that its
instruction is in (R445). -/
def Ctx.groupEnd (c : Ctx) : Nat :=
  match c.partWay.bind Hold.todo with
  | some l => (l.foldl min (l.headD 0) / 256 + 1) * 256
  | none => 2 ^ 22

/-- Begin to stop a context, with its limit. -/
def beginStopping (s : State) (id : Nat) (limit : Ctx → Nat) : State :=
  s.withCtx id fun c => if c.stopping.isSome then c else { c with stopping := some (limit c) }

/-- A vector memory instruction that stands at the end of an element group leaves a progress entry (R445). -/
def Ctx.foldHold (c : Ctx) : Ctx :=
  match c.hold.bind fun h => h.todo.map fun l => (h, l) with
  | some (h, e :: l) =>
    let p : Prog := { ord := 0, idx := (e :: l).foldl min e, pos := h.pos, backs := h.backs }
    { c with es := c.es0, esk := if c.resuming then 0 else c.esk, resume := if c.resuming then none else c.resume
             prog := p :: c.prog.filter fun e => e.ord != 0 }
  | _ => c

/-- The number of free words in an image. -/
def openWords : Nat := 16

/-- Whether a context's request to a home of this device has still to reach it (R446). -/
def isUnderway (c : Ctx) (m : Msg) : Bool := c.wait.any fun w => m.who.id == c.id && m.who.stamp == w.stamp && keepsWait w

/-- A wait whose request has not reached its home is given up with it: its instruction is issued again (R446). A request to
another device has left. -/
def unsend (s : State) : State :=
  if s.msgs.any (isUnderway s.c) then
    let t := { s with msgs := s.msgs.filter fun m => !isUnderway s.c m, c := { s.c with wait := none } }
    if s.c.wait.any isReduce then redForget t s.c.id ((s.c.wait.map Wait.stamp).getD 0) else t
  else s

/-- Save a resident context into its slot's save area, as the running one is saved: it rolls back to the oldest entry of its
queue (R441, R445), its entries fold, its image is
written, its attached seats are released and it leaves its slot. `seat` binds the image to one seat. -/
def saveHere (s : State) (seat : Bool) : State :=
  let core := s.c.core
  let pos := s.c.pos
  let id := s.c.id
  let s := unsend { s with c := s.c.rollback.foldHold }
  let s := match s.seat? core pos with
    | some t => foldSeat s core pos (s.c.ownsSpill t)
    | none => s
  let c := s.c
  let w := c.wait.filter keepsWait
  let dlen := s.dlen
  let lanes := s.lanes
  let open_ := (List.range openWords).map fun i => Config.freeWord (s.free + i)
  let addr := saveAddr (s.part c.part) core pos c.slot
  let img := imageOf c dlen lanes w.isSome open_
  let s := (pokeLines (s.useFree openWords) addr img (img.length / 64)).meter c.part 9 img.length
  let kept : Ctx := { c with wait := w, hold := none, line := none, waittDone := false, stopping := none }
  let x : Saved := {
    part := c.part, addr := addr, seat := if seat then some (core, pos) else none, ctx := kept, len := img.length,
    dlen := dlen, lanes := lanes, rrows := savedRows c dlen lanes, kept := none, since := s.now }
  let s := detachSeats s id
  { s with c := { s.c with alive := false, wait := none, hold := none, firing := none, gang := [] }, saved := s.saved ++ [x] }

/-- Save the context `id`. -/
def saveCtx (s : State) (id : Nat) (seat : Bool) : State :=
  if (s.ctx? id).isNone then s
  else if s.c.alive && s.c.id == id then saveHere s seat
  else
    let me := s.c.id
    let alive := s.c.alive
    let s := saveHere (s.focus id) seat
    if alive then s.focus me else s

/-- PREEMPTION (R445): by the scheduler, a retirement or the device manager. It waits for the `eret` of a context in its
handler (R459), and for the end of the element group that a vector instruction is in; its scalar issue stops meanwhile. -/
def execPreemption (ctx : Nat) (s : State) : Res :=
  match s.ctx? ctx with
  | none => .next s
  | some c =>
    if (s.part c.part).savesz = 0 then .next s
    else if c.tst.getLsbD 2 then .next { s with later := s.later ++ [.preemption ctx] }
    else if !stoppable s c then
      .next (beginStopping { s with later := s.later ++ [.preemption ctx] } ctx Ctx.groupEnd)
    else .next ((saveCtx s ctx false).postEvent c.part 1 c.place (saveAddr (s.part c.part) c.core c.pos c.slot))

/-! ## The scheduler's own pre-emption (R444) -/

/-- The context that an overdue stage displaces: of lower base priority, on an allowed core, not spanning, not in its
handler, and fired latest. -/
def displaced (s : State) (part : Nat) (t : Stage) : Option Ctx :=
  (s.ctxs.filter fun c => c.part == part && t.aff.getLsbD c.core && decide (c.prio < t.prio) && c.gang.isEmpty &&
    !c.tst.getLsbD 2).foldl (fun b c =>
      match b with
      | none => some c
      | some b => if b.born < c.born then some c else some b) none

/-- The first overdue stage of a partition that no allowed slot is free for, with what it displaces. -/
def overdueVictim (s : State) (part : Nat) : Option Ctx :=
  ((s.graphs.filter fun g => g.part == part).flatMap fun g => g.stages.filter fun t =>
    stageDue s g t && decide (4096 ≤ stageWait s t) && (roomiest s part ((List.range 64).filter fun c => t.aff.getLsbD c)).isNone
  ).findSome? (displaced s part)

/-- Let a partition's scheduler pre-empt, at most once in 1,024 ticks. -/
def schedPreempt (s : State) (part : Nat) : State :=
  let p := s.part part
  if !schedules s part || p.savesz = 0 || (p.preTick.any fun t => decide (s.now < t + 1024)) then s else
  match overdueVictim s part with
  | none => s
  | some c => { (s.setPart part fun p => { p with preTick := some s.now }) with inputs := s.inputs ++ [.preemption c.id] }

/-! ## Restoring (R451, R452) -/

/-- Field of n bytes at byte i. -/
def imgN (img : List Byte) (i n : Nat) : Nat := fieldAt img i n
def imgW (img : List Byte) (i : Nat) : Word := wd (imgN img i 8)

/-- Read mask registers from their area: registers and the bytes after it. -/
def readMasks (vl : Nat) (c : Ctx) (bs : List Byte) : List Nat → Ctx × List Byte
  | [] => (c, bs)
  | i :: t =>
    let n := ceilDiv vl 512 * 64
    readMasks vl { c with m := c.m.setIfInBounds i (leNat (bs.take (ceilDiv vl 8)) % 2 ^ vl) } (bs.drop n) t

/-- The four bytes of a lane's row as they read after a restore: elements at or beyond `vl` read zero (R450). -/
def keptBytes (w vl lanes l m : Nat) (bs : List Byte) : List Byte :=
  (List.range 4).map fun j => if (4 * m + j) / (w / 8) * lanes + l < vl then bs[j]?.getD 0 else 0

/-- Read the bytes of vector registers: 4 of each lane and row. -/
def readVectors (rows lanes : Nat) (c : Ctx) (bs : List Byte) (rs : List Nat) : Ctx × List Byte :=
  rs.foldl (fun (a : Ctx × List Byte) r =>
    (List.range rows).foldl (fun a m => (List.range lanes).foldl (fun (a : Ctx × List Byte) l =>
      ({ a.1 with v := setCells a.1.v (vKey r l (4 * m)) (keptBytes c.ew c.vlen lanes l m a.2) }, a.2.drop 4)) a) a) (c, bs)

/-- Read accumulator registers: 8 bytes for each element. -/
def readAccs (dlen lanes : Nat) (c : Ctx) (bs : List Byte) (rs : List Nat) : Ctx × List Byte :=
  rs.foldl (fun (a : Ctx × List Byte) r =>
    (List.range dlen).foldl (fun a m => (List.range lanes).foldl (fun (a : Ctx × List Byte) n =>
      ({ a.1 with a := setCell 0 (aKey r m n) (BitVec.ofNat 36 (leNat (a.2.take 8))) a.1.a }, a.2.drop 8)) a) a) (c, bs)

/-- A stream register of area 3. -/
def readStream (a : List Byte) (i : Nat) : Stream :=
  { base := imgW a (24 * i), stride := imgW a (24 * i + 8), pos := BitVec.ofNat 48 (imgN a (24 * i + 16) 6),
    valid := (imgW a (24 * i + 16)).getLsbD 63, stale := false }

/-- The context that an image holds; `k` supplies what the image does not hold. The partition can write its save area: reserved
bits of a register read zero all the same (R2). -/
def readImage (img : List Byte) (k : Ctx) : Ctx :=
  let a2 := img.drop 192
  let a3 := img.drop 512
  let vl := imgN img 0 8 % 2 ^ 22
  let dirty := imgN img 40 8
  let rows := imgN img 50 1
  let dlen := imgN img 51 1
  let lanes := imgN img 52 2
  let b := imgN img 54 1
  let c : Ctx := { k with
    vl := vlWord (imgW img 0).msb (nbits (imgN img 0 8) 56 6) vl
    vcfg := vcfgWritten 0 (imgW img 8) ||| (imgW img 8 &&& (1#64 <<< 63)), es := imgW img 16, esk := eskWritten (imgW img 24), pc := BitVec.ofNat 56 (imgN img 32 7)
    vDirty := BitVec.ofNat 32 dirty, aDirty := BitVec.ofNat 32 (dirty / 2 ^ 32), mDirty := BitVec.ofNat 8 (imgN img 48 1)
    sat := BitVec.ofNat 32 (imgN img 60 4), prio := b % 4, wait := if nbit b 2 then k.wait else none
    prog := (List.range (imgN img 49 1 % 16)).map fun i => 
      { ord := imgN img (64 + 8 * i + 7) 1, idx := imgN img (64 + 8 * i) 3 % 2 ^ 22, pos := (k.prog[i]?).bind Prog.pos }
    gang := gangSeats (wd (imgN img 128 8)) (imgN img 55 1 % 8)
    s := Vector.ofFn fun i : Fin 32 => if i.val = 0 then 0 else imgW a2 (8 * (i.val - 1))
    avl := imgW a2 248, ws := wd (imgN a2 256 1 % 8), fps := fpsWritten (imgW a2 264), cause := wd (imgN a2 272 1)
    epc := wd (imgN a2 280 7), tval := imgW a2 288, tst := tstWritten 0 (imgW a2 296)
    q := Vector.ofFn fun i : Fin 16 => readStream a3 i.val
    f := Vector.ofFn fun i : Fin 16 => fmtLoaded (imgW a3 (384 + 8 * i.val))
    d := Vector.ofFn fun i : Fin 16 => (a3.drop (512 + 128 * i.val)).take 128
    v := [], a := [], m := Vector.replicate 8 0 }
  let r := readMasks vl c (img.drop 3200) (bitList c.mDirty.toNat 8)
  let r := readVectors rows lanes r.1 r.2 (bitList c.vDirty.toNat 32)
  (readAccs dlen lanes r.1 r.2 (bitList c.aDirty.toNat 32)).1

/-- Whether an image reads back with poison (R452). -/
def imagePoisoned (s : State) (pa n : Nat) : Bool := (List.range n).any fun i => poisoned s (physKey s (pa + 64 * i)) 64

/-- Place a restored context with its attached seats. -/
def placeCtx (s : State) (c : Ctx) (core pos slot : Nat) : State :=
  let c := { c with core := core, pos := pos, slot := slot, alive := true, line := none, hold := none }
  let s := c.gang.foldl (fun s g => s.setSeat g.1 g.2 fun t => { t with gangOf := some c.id }) s
  s.addCtx c

/-- Restore a saved context in a slot; the answer that its home kept reaches it once it has entered its line (R446). -/
def restoreSaved (s : State) (x : Saved) (core pos slot : Nat) : State :=
  let c := if x.len = 0 then x.ctx else readImage (peekLines s x.addr (x.len / 64)) x.ctx
  let s := placeCtx (s.meter x.part 8 x.len) c core pos slot
  { s with answers := s.answers ++ x.kept.toList.map fun r => { r with arrive := s.now } }

/-- A context whose image is bad is lost (R439, R452); `rolled` when a rollback follows. -/
def loseSaved (s : State) (x : Saved) (rolled : Bool) : State :=
  let s := closeFiring s x.part x.ctx.firing
  (cancelCopies s x.ctx.id).postEvent x.part 5 x.ctx.place (1 + rolled.toNat * 256)

/-! ## Time-shared seats (R447) -/

/-- The rotation of a seat. -/
def rotOf (s : State) (core pos : Nat) : Option Rot := s.rots.find? fun r => r.core == core && r.pos == pos

/-- No tenant holds the seat. -/
def noHolder : Nat := 64

/-- The seat entry of a partition for a seat. -/
def recFor (s : State) (p core pos : Nat) : Option SeatRec := (s.part p).seatRecs.find? fun r => r.core == core && r.pos == pos

/-- Bytes of a seat's shares. -/
def shareBytes (size : Nat) : Nat := size * 0x120000

/-- Where a tenant's shares of a time-shared seat lie in its save area: after the images, those of the time-shared seats one
after the other in record order (the order is the model's, log 21). -/
def shareAddr (p : Part) (core pos : Nat) : Nat :=
  let before := p.seatRecs.takeWhile fun r => !(r.core == core && r.pos == pos)
  p.save + allSlots p * (p.savesz * 65536) + ((before.filter SeatRec.turned).map fun r => shareBytes r.size).sum

/-- The shares of a seat: first key, length, and offset in the copy. -/
def shareRanges (core pos size : Nat) : List (Nat × Nat × Nat) :=
  [(keyCore core (pos * 0xC0000), size * 0xC0000, 0), (keyBank core (pos * 0x40000), size * 0x40000, size * 0xC0000)] ++
  (List.range 256).map fun l => (keyLane core l (pos * 512), size * 512, size * 0x100000 + l * (size * 512))

/-- Write zeros to n keys. -/
def clearKeys (m : List Host.Cell) (k n : Nat) : List Host.Cell := m.filter fun c => !(decide (k ≤ c.1) && decide (c.1 < k + n))

/-- Write zeros to a seat's shares. -/
def clearShares (s : State) (core pos size : Nat) : State :=
  { s with mem := (shareRanges core pos size).foldl (fun m r => clearKeys m r.1 r.2.1) s.mem,
           poison := s.poison.filter fun u => !((shareRanges core pos size).any fun r => decide (r.1 / 64 ≤ u) && decide (u < (r.1 + r.2.1) / 64)) }

/-- Copy a seat's shares to physical memory; no meter counts it (R447). -/
def sharesOut (s : State) (core pos size pa : Nat) : State :=
  (shareRanges core pos size).foldl (fun s r =>
    (List.range (r.2.1 / 64)).foldl (fun s i => pastCaches s (pa + r.2.2 + 64 * i) (getCells s.mem (r.1 + 64 * i) 64)) s) s

/-- Copy a seat's shares back. -/
def sharesIn (s : State) (core pos size pa : Nat) : State :=
  (shareRanges core pos size).foldl (fun s r =>
    (List.range (r.2.1 / 64)).foldl (fun s i => { s with mem := setCells s.mem (r.1 + 64 * i) (peek s (pa + r.2.2 + 64 * i) 64) }) s) s

/-- Whether a tenant has something to do on a seat: a saved context bound to it, or a ready stage or spawned task that its
core allows. -/
def tenantReady (s : State) (p core pos : Nat) : Bool :=
  partLive s p && (recFor s p core pos).isSome &&
  ((s.saved.any fun x => x.part == p && x.seat.all fun y => y == (core, pos)) ||
   (s.graphs.any fun g => g.part == p && g.stages.any fun t => t.aff.getLsbD core && stageDue s g t) ||
   (s.part p).spawnQ.any fun x => (spawnCores x.scope x.core).contains core)

/-- The tenants of a rotation in the order in which they follow the holder, the holder last. -/
def turnsAfter (r : Rot) : List (Nat × Nat) :=
  let i := r.turns.findIdx fun t => t.1 == r.holder
  r.turns.drop (i + 1) ++ r.turns.take (i + 1)

/-- A partition leaves a rotation (R427, R447): the turn goes on to the tenant after it. -/
def Rot.leave (r : Rot) (p : Nat) : Rot :=
  if r.holder = p then { r with turns := (turnsAfter r).filter fun t => t.1 != p, holder := noHolder }
  else { r with turns := r.turns.filter fun t => t.1 != p }

/-- When the holder's slice ends, or now where no tenant holds the seat: the switch moments follow from the rotation alone. -/
def sliceEnds (s : State) (r : Rot) : Nat :=
  match r.turns.find? fun t => t.1 == r.holder with
  | some t => r.since + t.2
  | none => s.now

/-- Give a time-shared seat to a tenant from a switch moment on; at a slice end its shares are copied `back` (step 4). -/
def giveSeat (s : State) (core pos p moment : Nat) (back : Bool) : State :=
  match recFor s p core pos with
  | none => s
  | some r =>
    let s := { assignSeat s core pos r.size r.lgk p with
      rots := s.rots.map fun x => if x.core = core ∧ x.pos = pos then { x with holder := p, since := moment } else x }
    if back then sharesIn s core pos r.size (shareAddr (s.part p) core pos) else s

/-- Give a time-shared seat to the next tenant that has something to do. -/
def nextTenant (s : State) (r : Rot) : State :=
  match (turnsAfter r).find? fun t => tenantReady s t.1 r.core r.pos with
  | some t => giveSeat s r.core r.pos t.1 (sliceEnds s r) true
  | none => { s with rots := s.rots.map fun x => if x.core = r.core ∧ x.pos = r.pos then { x with since := sliceEnds s r } else x }

/-- Take a seat from its holder (steps 1 to 3). -/
def takeSeat (s : State) (core pos : Nat) : State :=
  match s.seat? core pos with
  | none => s
  | some t =>
    let here := (s.ctxs.filter fun c => c.core == core && c.pos == pos).map Ctx.id
    let s := here.foldl (fun s i => saveCtx s i true) s
    let s := sharesOut (emptyWays s core pos t.size true) core pos t.size (shareAddr (s.part t.part) core pos)
    let s := clearShares s core pos t.size
    { s with seats := s.seats.filter fun t => !(t.core == core && t.pos == pos) }

/-- Whether a holder's slice is over. -/
def sliceOver (s : State) (r : Rot) : Bool := decide (sliceEnds s r ≤ s.now)

/-- SLICE_END. Contexts part-way in an instruction finish it first, and none of the seat starts another (R446). -/
def execSliceEnd (core pos : Nat) (s : State) : Res :=
  match rotOf s core pos with
  | none => .next s
  | some r =>
    if !sliceOver s r then .next s
    else
      let on := s.ctxs.filter fun c => c.core == core && c.pos == pos
      if on.all (stoppableWhole s) then .next (nextTenant (takeSeat s core pos) r)
      else
        let s := on.foldl (fun s c => beginStopping s c.id fun _ => sliceStop) s
        .next { s with later := s.later ++ [.sliceEnd core pos] }

/-- ROTATION_SET, a management message of partition 0: refused unless the seat is unowned and every partition that it
lists is ASSIGNED. A seat whose rotation has a tenant that is LIVE is not unowned while no tenant has something to do. -/
def execRotationSet (core pos : Nat) (turns : List (Nat × Nat)) (s : State) : Res :=
  let inUse := (rotOf s core pos).any fun r => r.turns.any fun t => (s.part t.1).st == .live
  let ok := !inUse && !(s.seats.any fun t => t.spans core pos) && decide (2 ≤ turns.length) && decide (turns.length ≤ 4) &&
    decide (turns.map Prod.fst).Nodup && turns.all fun t =>
      decide (t.1 < 64) && (s.part t.1).st == .assigned && decide (2 ^ 10 ≤ t.2) && decide (t.2 ≤ 2 ^ 24)
  let r : Rot := { core := core, pos := pos, turns := turns, holder := noHolder, since := s.now }
  .next (if ok then { s with rots := s.rots.filter (fun x => !(x.core == core && x.pos == pos)) ++ [r] } else s)

/-! ## Retirement (R32, R454) -/

/-- Detach the seats of a cluster from a spanning context (R32): its vector instructions do nothing from then on, one that is
part-way included. DESIGN CHOICE (log 54): `vl` is 0 with its chain fields. -/
def detachCluster (s : State) (cl : Nat) (c : Ctx) : State :=
  if c.gang.any fun g => g.1 / 4 == cl then
    let none_ := fun (h : Hold) => { h with todo := h.todo.map fun _ => [] }
    let s := s.withCtx c.id fun c => { c with
      gang := c.gang.filter (fun g => g.1 / 4 != cl), vl := 0, hold := c.hold.map none_
      vq := c.vq.map fun e => { e with vl := 0, hold := e.hold.map none_ } }
    s.postEvent c.part 2 c.place s.ncl.toNat
  else s

/-- A context saved for a seat of the cores that leave restores elsewhere. -/
def unseat (there : Nat → Bool) (x : Saved) : Saved :=
  match x.seat with
  | some y => if there y.1 then { x with seat := none } else x
  | none => x

/-- CLUSTER_RETIREMENT. It waits until every context on the cluster's seats can be stopped. Rotations of the seats end with
them, and what was saved for one of them restores elsewhere (R451). -/
def execClusterRetirement (cl : Nat) (s : State) : Res :=
  let on := s.ctxs.filter fun c => c.core / 4 == cl && decide (c.core < 64)
  if 16 ≤ cl then .next s
  else if !on.all (fun c => stoppable s c && !c.tst.getLsbD 2) then
    let s := (on.filter fun c => !c.tst.getLsbD 2).foldl (fun s c => beginStopping s c.id Ctx.groupEnd) s
    .next { s with later := s.later ++ [.clusterRetirement cl] }
  else
    let s := on.foldl (fun s c =>
      if (s.part c.part).savesz = 0 then s
      else (saveCtx s c.id false).postEvent c.part 1 c.place (saveAddr (s.part c.part) c.core c.pos c.slot)) s
    let n := s.ncl.toNat
    let ncl : Word := wd ((n / 256 + 1) % 256 * 256 + (n % 32 - 1))
    let s := { s with ncl := ncl }
    let s := s.ctxs.foldl (fun s c => detachCluster s cl c) s
    let leaves := fun (t : Seat) => t.core / 4 == cl && decide (t.core < 64)
    let s := (s.seats.filter leaves).foldl (fun s t => emptyWays s t.core t.pos t.size true) s
    let there := fun (core : Nat) => core / 4 == cl && decide (core < 64)
    let s := { s with
      seats := s.seats.filter fun t => !leaves t, rots := s.rots.filter fun r => !there r.core
      saved := s.saved.map (unseat there) }
    .next (s.ctxs.foldl (fun s c => s.postEvent c.part 2 c.place ncl.toNat) s)

end Sys2Proof.Machine
end

