-- ==== Sys2Proof/Machine/Partition.lean ====
section
/-! DEFINITION. The life of a partition slot (R425 to R436, R460 to R465): majors 0x33 and 0x34, the scrub and the
function-level reset. -/
namespace Sys2Proof.Machine

/-! ## Partition numbers -/

/-- An instruction of device level (R91). -/
def atDevice (s : State) (k : Res) : Res := if s.c.priv = 2 then k else .next (privTrap s)

/-- Whether bits [63:6] of a partition number are set (R426, R460). -/
def pastTable (x : Word) : Bool := decide (64 ≤ x.toNat)

/-- A number that the forms of R426 refuse: partition 0, or past the table. -/
def outOfTable (x : Word) : Bool := x == 0 || pastTable x

/-- Number of a state (R433). -/
def PState.code : PState → Nat
  | .free => 0 | .assigned => 1 | .live => 2 | .stopped => 3 | .scrub => 4

/-- The function-level resets of the state word: those of a stop that runs, or of the time since the last one (R433, R435). -/
def resetCount (p : Part) : Nat := (p.stop.map Stop.flr).getD p.flrc

/-- The state word (R433). -/
def partWord (p : Part) : Word :=
  wd (p.st.code + p.kz.toNat * 8 + min 255 (resetCount p) * 2 ^ 8 + p.inc.toNat * 2 ^ 16 + p.scrt % 2 ^ 32 * 2 ^ 32)

/-- `prt.st`. -/
def execPrtSt (f : H3) (s : State) : Res := atDevice s <|
  let a := s.reg f.a.toNat
  writeReg s f.d.toNat (if outOfTable a then ones else partWord (s.part a.toNat))

/-- `prt.asg` (R425, R434). -/
def assignPart (s : State) (p : Nat) (owner : Word) : State :=
  let s := { s with leases := s.leases.filter fun l => l.part != p || l.state == 1 || l.state == 3
                    oseqs := s.oseqs.filter fun x => x.1.2 != p }
  let s := s.setPart p fun x =>
    { x with st := .assigned, owner := owner, inc := if x.inc + 1 = 0 then 1 else x.inc + 1, flrc := 0, scrt := 0,
             evs := [], evSeq := 0, evLost := 0, evAsk := none, ntf := 0, ronc := 0 }
  snapshot s p 3

/-- `prt.asg`. -/
def execPrtAsg (f : H3) (s : State) : Res := atDevice s <|
  let a := s.reg f.a.toNat
  if outOfTable a then writeReg s f.d.toNat 1
  else match (s.part a.toNat).st with
    | .free => writeReg (assignPart s a.toNat (s.reg f.b.toNat)) f.d.toNat 0
    | .stopped => writeReg s f.d.toNat 2
    | .scrub => writeReg s f.d.toNat 2
    | .assigned => writeReg s f.d.toNat 3
    | .live => writeReg s f.d.toNat 3

/-! ## The key (R429, R461) -/

/-- `key.z`. -/
def execKeyZ (f : H2) (s : State) : Res := atDevice s <|
  let a := s.reg f.a.toNat
  if outOfTable a then writeReg s f.d.toNat 1
  else if (s.part a.toNat).st == .assigned || (s.part a.toNat).st == .live then writeReg s f.d.toNat 2
  else writeReg (s.setPart a.toNat fun x => { x with key := 0, kz := true }) f.d.toNat 0

/-- The result of `key.ld` for a key image. -/
def keyResult (s : State) (a : Word) (img : List Byte) : Nat :=
  if (s.part a.toNat).st ≠ .assigned then 2
  else if img.take 32 = (img.drop 32).take 32 then 3 else 0

/-- `key.ld` (R461). Its numbers are out of range as those of R426 are (log 49). -/
def execKeyLd (f : H2) (s : State) : Res := atDevice s <|
  let a := s.reg f.a.toNat
  let b := s.reg f.b.toNat
  if outOfTable a then writeReg s f.d.toNat 1
  else if b.toNat % 64 ≠ 0 then .next (trapScalar s 0x04 b)
  else endLines (loadLines s s.agent b.toNat 1) b fun img s =>
    let r := keyResult s a img
    let s := if r = 0 then s.setPart a.toNat fun x => { x with key := BitVec.ofNat 512 (leNat img), kz := false } else s
    (s.setReg f.d.toNat (wd r)).adv

/-! ## The scrub (R430 to R432) -/

/-- The chip-scratchpad units of a partition in die and offset order: die and unit. -/
def cspUnits (p : Part) : List (Nat × Nat) :=
  ((List.range 1024).filter fun i => p.csp.testBit i).map fun i => (i / 512, i % 512)

/-- The granules of a partition in increasing address. -/
def granulesOf (p : Part) : List Nat :=
  let rs := p.ranges.mergeSort fun x y => decide (x.1 ≤ y.1)
  rs.flatMap fun r => (List.range r.2).map fun i => r.1 + i

/-- Scrub size in 4 KiB units. -/
def scrubSize (p : Part) : Nat := 16 * (cspUnits p).length + 512 * (granulesOf p).length

/-- Start the scrub in the next tick. -/
def startScrub (s : State) (p : Nat) : State :=
  s.setPart p fun x => { x with st := .scrub, scrt := scrubSize x, scrStart := s.now + 1, scrDone := 0 }

/-- `scb.go`. -/
def execScbGo (f : H2) (s : State) : Res := atDevice s <|
  let a := s.reg f.a.toNat
  if outOfTable a then writeReg s f.d.toNat 1
  else if (s.part a.toNat).st = .scrub then writeReg s f.d.toNat 3
  else if (s.part a.toNat).st ≠ .stopped || !(s.part a.toNat).kz then writeReg s f.d.toNat 2
  else .next (((startScrub s a.toNat).setReg f.d.toNat 0).setReg f.b.toNat (wd (s.now + 1))).adv

/-- Bytes scrubbed as the first cycle of a tick knows them (R432). -/
def scrubBytes (p : Part) (now : Nat) : Nat :=
  4096 * (if p.st = .scrub then min p.scrDone (now - p.scrStart) else p.scrDone)

/-- `scb.st`. -/
def execScbSt (f : H2) (s : State) : Res := atDevice s <|
  let a := s.reg f.a.toNat
  writeReg s f.d.toNat (if outOfTable a then ones else wd (scrubBytes (s.part a.toNat) s.now))

/-- Where block i of a scrub lies: a storage key, and its HBM address if it is a granule's. -/
def scrubPlace (s : State) (p : Part) (i : Nat) : Option (Nat × Option Nat) :=
  let us := cspUnits p
  if i < 16 * us.length then (us[i / 16]?).map fun u => (keyChip u.1 (u.2 * 65536 + i % 16 * 4096), none)
  else
    let j := i - 16 * us.length
    ((granulesOf p)[j / 512]?).map fun g =>
      let pa := g * 2 ^ 21 + j % 512 * 4096
      (hbmKey s pa, some pa)

/-- Write one block of zeros, past the caches; another skew's storage of the frame is gone. -/
def clearBlock (s : State) (key : Nat) (pa : Option Nat) : State :=
  let s := match pa with
    | some pa => { bypass s pa 4096 with mem := (List.range 4).foldl (fun m k => clearKeys m (skewKey pa k) 4096) s.mem }
    | none => s
  let s := { s with mem := clearKeys s.mem key 4096,
                    poison := s.poison.filter fun u => !(decide (key / 64 ≤ u) && decide (u < key / 64 + 64)) }
  match pa with
  | some pa => (List.range 16).foldl (fun s i => markMigr s (pa + 256 * i)) (markCkpt s pa)
  | none => s

/-- Whether a partition's scrub may write its next block now. -/
def scrubDue (s : State) (p : Nat) : Bool :=
  let x := s.part p
  x.st == .scrub && decide (x.scrDone < x.scrt) && decide (x.scrStart + x.scrDone ≤ s.now)

/-- Whether it can be written: its page is in no SWITCH. -/
def scrubReady (s : State) (p : Nat) : Bool :=
  scrubDue s p && match scrubPlace s (s.part p) (s.part p).scrDone with
    | some (_, pa) => !pa.any (switching s)
    | none => false

/-- SCRUB_BLOCK. A block whose page is in SWITCH waits for the end of the migration (R431). -/
def execScrubBlock (part : Nat) (s : State) : Res :=
  if !scrubDue s part then .next s else
  match scrubPlace s (s.part part) (s.part part).scrDone with
  | none => .next s
  | some (key, pa) =>
    if pa.any (switching s) then .next s
    else .next ((clearBlock s key pa).setPart part fun x => { x with scrDone := x.scrDone + 1 })

/-- Give the slices of a partition back (R186, log 14). -/
def freeSlices (s : State) (p : Nat) : State :=
  let s := emptySlices s (ownsSlice s p)
  { s with smap := s.smap.map fun e => if (e.extractLsb' 0 6).toNat = p then 0x80 else e }

/-- The end of a scrub: the granules and grants leave the partition (R431). -/
def endScrub (s : State) (p : Nat) : State :=
  let x := s.part p
  if x.st = .scrub && x.scrDone = x.scrt && x.scrStart + x.scrt ≤ s.now then
    (freeSlices { s with tlb := s.tlb.filter fun t => t.2.1 != p } p).setPart p fun x =>
      { x with st := .free, ranges := [], csp := 0, seatRecs := [], hostb := 0, hostl := 0, root := 0, save := 0, savesz := 0 }
  else s

/-! ## The stop (R427, R428, R465) -/

/-- Whether a context has issued a vector instruction that has still to run to its end (R427). -/
def midVector (c : Ctx) : Bool :=
  !c.vq.isEmpty || (c.hold.any fun h => h.tag.isSome || h.todo.isSome || h.elem != 0 || !h.aux.isEmpty || !h.many.isEmpty) &&
    c.major.any fun m => decide (0x14 ≤ m) && decide (m ≤ 0x2A)

/-- Discard the contexts of a partition that satisfy a condition, without a save; their requests are forgotten. -/
def discardCtxs (s : State) (p : Nat) (q : Ctx → Bool) : State :=
  let gone := fun (c : Ctx) => c.part == p && q c
  let ids := (s.ctxs.filter gone).map Ctx.id
  { s with
    c := if gone s.c then { s.c with alive := false, wait := none, hold := none, firing := none, gang := [] } else s.c
    others := s.others.filter fun c => !gone c
    seats := s.seats.map fun t => if t.gangOf.any ids.contains then { t with gangOf := none } else t
    resvs := s.resvs.filter fun r => !ids.contains r.ctx
    msgs := s.msgs.filter fun m => !ids.contains m.who.id
    answers := s.answers.filter fun a => !ids.contains a.ctx
    leaseQ := s.leaseQ.filter (notAskOf p) }

/-- Answer GONE to a party on another device. -/
def goneFar (s : State) (b : Nat) (r2 : Word) (w : Who) : State :=
  if w.dev = s.dev then s else answer s b w wsGONE ones r2

/-- Free the Headgate objects of a partition: parties of other devices are answered GONE (R56). -/
def freeHomes (s : State) (p : Nat) : State :=
  let s := (s.meets.filter fun m => m.part == p).foldl (fun s m =>
    m.waits.foldl (fun s w => goneFar s (boundOf s m.scope) ones w.who) s) s
  let s := (s.locks.filter fun l => l.part == p).foldl (fun s l => l.queue.foldl (fun s w => goneFar s w.b 0 w.who) s) s
  let s := (s.bufs.filter fun b => b.part == p).foldl (fun s b =>
    (b.claims ++ b.recvs).foldl (fun s w => goneFar s (boundOf s b.scope) ones w.who) s) s
  let s := (s.chains.filter fun c => c.part == p).foldl (fun s c =>
    c.waits.foldl (fun s w => goneFar s (boundOf s c.scope) ones w.who) s) s
  { s with
    meets := s.meets.filter fun m => m.part != p, locks := s.locks.filter fun l => l.part != p
    bufs := s.bufs.filter fun b => b.part != p, chains := s.chains.filter fun c => c.part != p }

/-- Whether a queued flit is a partition's own and no answer (R392). -/
def ownFlit (s : State) (p : Nat) (f : Flit) : Bool :=
  f.sdev.toNat == s.dev && f.spart.toNat == p && f.kind != 2

/-- Drop what a partition has not yet sent, and what it waits for (R392). -/
def dropTraffic (s : State) (p : Nat) : State :=
  let keep := fun (q : Nat × Flit) => !(q.1 == p && ownFlit s p q.2)
  { s with
    links := s.links.map fun l => reclock s.now { l with queue := l.queue.filter keep, escQ := l.escQ.filter keep }
    unrouted := s.unrouted.filter keep, vecIns := s.vecIns.filter fun x => x.part != p
    resvs := s.resvs.filter fun r => r.flit.spart.toNat != p || r.host.isSome }

/-- Revert the leases of a partition (R376). -/
def endLeases (s : State) (p : Nat) : State :=
  (s.leases.filter fun l => l.part == p).foldl (fun s l => endLease s p l.id 7) { s with leaseQ := s.leaseQ.filter (notAskOf p) }

/-- Write the shares of a partition's seats with zeros and give the seats back; it leaves every rotation (R427, R447). -/
def freeSeats (s : State) (p : Nat) : State :=
  let s := (s.seats.filter fun t => t.part == p).foldl (fun s t => clearShares s t.core t.pos t.size) s
  { s with
    seats := s.seats.filter fun t => t.part != p
    rots := (s.rots.map fun r => r.leave p).filter fun r => !r.turns.isEmpty }

/-- Step 2 of R427: the partition's graphs, spawn queue, queue slots and copies, its routing sides and homes. -/
def clearEngines (s : State) (p : Nat) : State :=
  let s := (cancelWhere s fun x => x.part == p).setPart p fun x => { x with pending := 0, spawnQ := [] }
  let s := dropQueues s fun q => q.part == p
  let s := { s with graphs := s.graphs.filter fun g => g.part != p, sides := s.sides.filter fun x => x.part != p }
  freeHomes s p

/-- Remove what the Sluice, the windows and the caches hold for a partition; dirty data is discarded (R427). -/
def freeEngines (s : State) (p : Nat) : State :=
  let s := dropCaches (discard s fun x => x.tile.part == p) p
  { s with
    binds := s.binds.filter fun b => b.part != p, wins := s.wins.filter fun w => w.part != p
    grps := s.grps.filter fun g => g.part != p, saved := s.saved.filter fun x => x.part != p
    ckpts := s.ckpts.filter fun x => x.part != p || x.done }

/-- The states of a TEE device interface (R485): 0 CONFIG_UNLOCKED, 1 CONFIG_LOCKED, 2 RUN, 3 ERROR. -/
def tdispStop (x : Nat) : Nat := if x = 1 ∨ x = 2 then 3 else x

/-- Steps 3 to 6 of R427 and the end of a stop; after a kill the key and the scrub follow (R465). -/
def finishStop (s : State) (p : Nat) : State :=
  match (s.part p).stop with
  | none => s
  | some st =>
    let s := discardCtxs s p fun _ => true
    let s := freeSeats (freeEngines s p) p
    let s := s.setPart p fun x =>
      { x with st := .stopped, stop := none, flrc := st.flr, tdisp := tdispStop x.tdisp }
    let s := { s with out := s.out ++ [.incarnation p (s.part p).inc.toNat false] }
    let s := snapshot s p (if st.kill then 4 else 2)
    if st.kill then (startScrub (s.setPart p fun x => { x with key := 0, kz := true }) p).postEvent 0 8 0 p else s

/-- Begin a stop: no context issues any more, and only vector instructions issued before go on. With a kill none does, and what
they have not yet had performed never is (R465). -/
def beginStop (s : State) (p : Nat) (kill byReset : Bool) : State :=
  let s := s.setPart p fun x => { x with stop := some { stamp := s.now, kill := kill, byReset := byReset, flr := byReset.toNat } }
  let s := discardCtxs s p fun c => kill || !midVector c
  if kill then dropTraffic s p else s

/-- A kill reaches a running stop (R465). -/
def turnToKill (s : State) (p : Nat) : State :=
  dropTraffic (discardCtxs (s.setPart p fun x => { x with stop := x.stop.map fun t => { t with kill := true } }) p fun _ => true) p

/-- The stop's progress in a cycle: contexts whose vector instructions have ended go, all of them after 2^14 cycles. From the
stop moment on nothing more of the partition is sent and the leases revert, and the stop ends once no context is left, none of
the leases reverts and what came before the stop moment has been performed. A lease that still negotiates reverts after its
grant (R376). -/
def progressStop (s : State) (p : Nat) : State :=
  match (s.part p).stop with
  | none => s
  | some st =>
    let s := discardCtxs s p fun c => !midVector c || decide (st.stamp + 1260 ≤ s.now)
    if s.now ≤ st.stamp then s else
    let s := if st.cleared then s
      else (clearEngines s p).setPart p fun x => { x with
        stop := x.stop.map fun t => { t with cleared := true }, ckPhase := 0, ckLast := if x.ckPhase = 0 then x.ckLast else 2 }
    let s := dropTraffic (endLeases s p) p
    if !(s.ctxs.any fun c => c.part == p) && !(s.leases.any fun l => l.part == p && l.state == 3) && dueDone s p then
      finishStop s p
    else s

/-- Hold the running context until a stop ends. -/
def holdStop (s : State) : State := holdAt s 1 []

/-- `prt.stop`. -/
def execPrtStop (f : H3) (s : State) : Res := atDevice s <|
  let a := s.reg f.a.toNat
  let p := a.toNat
  let x := s.part p
  if outOfTable a then writeReg s f.d.toNat 1
  else if s.c.hold.isSome then (if x.stop.isSome then .next s else writeReg s f.d.toNat 0)
  else if x.st ≠ .assigned && x.st ≠ .live then writeReg s f.d.toNat 2
  else if x.stop.isSome then .next (holdStop s)
  else .next (holdStop (beginStop s p false false))

/-- The end of a `prt.kill`: 0 and the scrub's first tick. -/
def endKill (s : State) (f : H3) (p : Nat) : Res :=
  .next ((s.setReg f.d.toNat 0).setReg f.b.toNat (wd (s.part p).scrStart)).adv

/-- The key and scrub steps of a kill of a STOPPED partition. -/
def killStopped (s : State) (p : Nat) : State :=
  let s := snapshot (s.setPart p fun x => { x with key := 0, kz := true }) p 4
  (startScrub s p).postEvent 0 8 0 p

/-- `prt.kill`. -/
def execPrtKill (f : H3) (s : State) : Res := atDevice s <|
  let a := s.reg f.a.toNat
  let p := a.toNat
  let x := s.part p
  if pastTable a then .next ((s.setReg f.d.toNat ones).setReg f.b.toNat ones).adv
  else if a = 0 then writeReg s f.d.toNat 1
  else if s.c.hold.isSome then (if x.stop.isSome then .next s else endKill s f p)
  else match x.st with
    | .free => writeReg s f.d.toNat 2
    | .scrub => writeReg s f.d.toNat 2
    | .stopped => endKill (killStopped s p) f p
    | .assigned => .next (holdStop (if x.stop.isSome then turnToKill s p else beginStop s p true false))
    | .live => .next (holdStop (if x.stop.isSome then turnToKill s p else beginStop s p true false))

/-- Whether a scrub ends with this cycle: what reaches the table in it comes after, and finds FREE (R435). -/
def scrubEnds (s : State) (x : Part) : Bool := decide (x.scrDone = x.scrt) && tickOver s (x.scrStart + x.scrt - 1)

/-- A function-level reset of partition p's virtual function (R435, R487). -/
def resetFunction (s : State) (p : Nat) : State :=
  let s := s.setPart p fun x => { x with tdisp := 0, ntf := 0, ronc := 0 }
  let x := s.part p
  let count := s.setPart p fun x => { x with flrc := min 255 (x.flrc + 1) }
  match x.st, x.stop with
  | .free, _ => s
  | .stopped, _ => count
  | .scrub, _ => if scrubEnds s x then s else count
  | _, some _ => s.setPart p fun x => { x with stop := x.stop.map fun t => { t with flr := min 255 (t.flr + 1) } }
  | _, none => (beginStop s p false true).postEvent 0 6 0 p

/-- FUNCTION_LEVEL_RESET. -/
def execFunctionLevelReset (vf : Nat) (s : State) : Res :=
  .next (match vfPart vf with
    | some p => resetFunction s p
    | none => s)

/-! ## `prt.new` (R463, R464) -/

/-- A valid SEAT entry, as bytes 0 and 1 give it. -/
def seatRecOf (b0 b1 : Nat) : SeatRec :=
  { core := b0 % 64, pos := b1 % 4, size := 2 ^ (b1 / 4 % 4), lgk := b1 / 16 % 8 }

/-- Whether a seat entry agrees with R23: its size, its place and its slots. -/
def seatRecOk (b1 : Nat) : Bool :=
  let r := seatRecOf 0 b1
  decide (b1 / 4 % 4 ≠ 3) && decide (r.pos % r.size = 0) && decide (r.lgk ≤ 4) && decide (r.slots ≤ 4 * r.size)

/-- Whether two seat entries share a position. -/
def seatsMeet (a b : SeatRec) : Bool :=
  a.core == b.core && decide (a.pos < b.pos + b.size) && decide (b.pos < a.pos + a.size)

/-- Whether two ranges of granules share one. -/
def granulesMeet (a b : Nat × Nat) : Bool := decide (a.1 < b.1 + b.2) && decide (b.1 < a.1 + a.2)

/-- Valid SEAT entries of a record in order. -/
def recSeats (r : List Byte) : List SeatRec :=
  ((List.range 32).filter fun i => nbit (fieldAt r (224 + 4 * i) 1) 7).map fun i =>
    seatRecOf (fieldAt r (224 + 4 * i) 1) (fieldAt r (225 + 4 * i) 1)

/-- Used RANGE entries of a record in order: first granule and count. -/
def recRanges (r : List Byte) : List (Nat × Nat) :=
  ((List.range 32).map fun i => fieldAt r (352 + 8 * i) 8).filterMap fun x =>
    if nbits x 32 18 = 0 then none else some (x % 2 ^ 18, nbits x 32 18)

/-- Whether an element of a list meets a later one. -/
def anyPair {α : Type} (p : α → α → Bool) : List α → Bool
  | [] => false
  | x :: t => t.any (p x) || anyPair p t

/-- Whether every reserved field of a record is zero (R463). -/
def recReserved (r : List Byte) : Bool :=
  fieldAt r 5 3 == 0 && nbits (fieldAt r 14 2) 4 12 == 0 && decide (fieldAt r 23 1 < 4) &&
  decide (fieldAt r 24 8 < 2 ^ 51) && decide (fieldAt r 32 8 < 2 ^ 51) && fieldAt r 55 9 == 0 && fieldAt r 608 416 == 0 &&
  ((List.range 32).all fun i =>
    !nbit (fieldAt r (224 + 4 * i) 1) 6 && !nbit (fieldAt r (225 + 4 * i) 1) 7 && fieldAt r (226 + 4 * i) 2 == 0) &&
  (List.range 32).all fun i => nbits (fieldAt r (352 + 8 * i) 8) 50 14 == 0 && nbits (fieldAt r (352 + 8 * i) 8) 18 14 == 0

/-- Whether bytes [a, a+n) lie in ranges of granules: at most k ranges are crossed. -/
def coveredBy (rs : List (Nat × Nat)) (a n : Nat) : Nat → Bool
  | 0 => false
  | k + 1 =>
    if n = 0 then true else
    match rs.find? fun r => decide (r.1 * 2 ^ 21 ≤ a) && decide (a < (r.1 + r.2) * 2 ^ 21) with
    | none => false
    | some r => let m := min n ((r.1 + r.2) * 2 ^ 21 - a); coveredBy rs (a + m) (n - m) k

/-- Whether bytes lie in a record's granules. -/
def inGranules (rs : List (Nat × Nat)) (a n : Nat) : Bool := coveredBy rs a n 34

/-- The physical address of ENTRY by the tables of the record's root, which device-level code has written. -/
def entryPlace (s : State) (root entry : Nat) : Option Nat :=
  if nbits entry 48 8 = 0xFE then none else
  match walkFrom s s.agent .fetch entry root [4, 3, 2, 1, 0] with
  | .fault _ => none
  | .leaf e _ _ => if eRMT e then none else some (eFrame e * 4096 + entry % 2 ^ pageBits (eSize e))

/-- Fields of a record. -/
def recRoot (r : List Byte) : Nat := fieldAt r 0 5
def recSave (r : List Byte) : Nat := fieldAt r 8 8
def recSavesz (r : List Byte) : Nat := fieldAt r 16 4
def recEntry (r : List Byte) : Nat := fieldAt r 48 7
def recHost (r : List Byte) : Nat × Nat := (fieldAt r 24 8, fieldAt r 32 8)
def recCsp (r : List Byte) : Nat := fieldAt r 96 128
def recSlice (r : List Byte) (i : Nat) : Bool := (fieldAt r 64 32).testBit i

/-- Whether a record is well formed (result 3 of R464). -/
def recWellFormed (s : State) (r : List Byte) : Bool :=
  let rs := recRanges r
  recReserved r && !(recSeats r).isEmpty &&
  ((List.range 32).all fun i => !nbit (fieldAt r (224 + 4 * i) 1) 7 || seatRecOk (fieldAt r (225 + 4 * i) 1)) &&
  !anyPair seatsMeet (recSeats r) && !anyPair granulesMeet rs && rs.all (fun x => decide (x.1 + x.2 ≤ 2 ^ 18)) &&
  inGranules rs (recRoot r * 4096) 4096 && decide (recSave r % 65536 = 0) && inGranules rs (recSave r) 1 &&
  (entryPlace s (recRoot r) (recEntry r)).any fun pa => inGranules rs pa 1

/-- Whether a seat of a rotation lists a partition (R447). -/
def sharesSeat (s : State) (p core pos : Nat) : Bool :=
  (rotOf s core pos).any fun x => x.turns.any fun t => t.1 == p

/-- Whether another partition holds a position of a seat entry. -/
def seatHeld (s : State) (p : Nat) (r : SeatRec) : Bool :=
  (s.seats.any fun t => seatsMeet r { core := t.core, pos := t.pos, size := t.size, lgk := 0 } &&
    !(t.core == r.core && t.pos == r.pos && sharesSeat s p r.core r.pos)) ||
  s.rots.any fun x => x.core == r.core && decide (r.pos ≤ x.pos) && decide (x.pos < r.pos + r.size) &&
    !(x.pos == r.pos && sharesSeat s p r.core r.pos)

/-- Whether something that a record asks for is another partition's (result 4 of R464). -/
def recHeld (s : State) (p : Nat) (r : List Byte) : Bool :=
  let others := ((List.range 64).filter fun q => q != p).map s.part
  (recSeats r).any (seatHeld s p) ||
  ((List.range 256).any fun i =>
    recSlice r i && ((s.smap[i]?.getD 0).extractLsb' 0 6).toNat != 0 && ((s.smap[i]?.getD 0).extractLsb' 0 6).toNat != p) ||
  others.any fun q =>
    q.csp &&& recCsp r != 0 || (q.ranges.any fun x => (recRanges r).any (granulesMeet x)) ||
    (decide (q.hostb < q.hostl) && decide ((recHost r).1 < (recHost r).2) && decide (q.hostb < (recHost r).2) &&
      decide ((recHost r).1 < q.hostl))

/-- Bytes that the save areas of a record need: the images, and the shares of time-shared seats (log 21). -/
def saveNeed (s : State) (p : Nat) (r : List Byte) : Nat :=
  ((recSeats r).map SeatRec.slots).sum * (recSavesz r * 65536) +
    (((recSeats r).filter fun x => sharesSeat s p x.core x.pos).map fun x => shareBytes x.size).sum

/-- Whether the save area is too small (result 5 of R464). -/
def saveShort (s : State) (p : Nat) (r : List Byte) : Bool :=
  decide (recSavesz r * 65536 < 3200 + 416 * 256 * min 8 (recSeats r).length * 32) ||
    !inGranules (recRanges r) (recSave r) (saveNeed s p r)

/-- The result of `prt.new`. -/
def newResult (s : State) (a : Word) (r : List Byte) : Nat :=
  let p := a.toNat
  if a = 0 then 1
  else if (s.part p).st ≠ .assigned || (s.part p).stop.isSome then 2
  else if !recWellFormed s r then 3
  else if recHeld s p r then 4
  else if saveShort s p r then 5
  else if (s.part p).kz then 6 else 0

/-- The partition that a record starts. -/
def partOfRecord (r : List Byte) (x : Part) : Part :=
  { x with
    st := .live, root := recRoot r, save := recSave r, savesz := recSavesz r
    hga := if fieldAt r 20 2 = 0 then 128 else fieldAt r 20 2, npq := if fieldAt r 22 1 = 0 then 8 else fieldAt r 22 1
    cke := nbit (fieldAt r 23 1) 1, loose := nbit (fieldAt r 23 1) 0, hostb := (recHost r).1, hostl := (recHost r).2
    ckpt := fieldAt r 40 6, ckdev := fieldAt r 46 2, entry := recEntry r, ranges := recRanges r, csp := recCsp r
    seatRecs := recSeats r, tvec := 0, whz := 0x100000, wpt := Vector.replicate 4 0, watch := [], spawnQ := []
    spawnCount := 0, preTick := none, pending := 0, share := x.allot, ckPhase := 0, ckHas := false, ckLast := 0, ckN := 0
    ckBlocks := 0, ckAll := true, ckList := [] }

/-- Give a partition the seats of its record that are not time-shared. -/
def giveSeats (s : State) (p : Nat) : List SeatRec → State
  | [] => s
  | r :: t =>
    giveSeats (if sharesSeat s p r.core r.pos then s else assignSeat s r.core r.pos r.size r.lgk p) p t

/-- The first context of a partition: on slot 0 of its first seat, at partition level, with `s1` = its number. On a
time-shared seat that another tenant holds it waits for its turn. -/
def firstContext (s : State) (p : Nat) (r : SeatRec) : State :=
  let c := (Ctx.start s.nextId r.core r.pos 0 p 1 (BitVec.ofNat 56 (s.part p).entry)).setReg 1 (wd p)
  let c := { c with born := s.now }
  let s := { s with nextId := s.nextId + 1 }
  let s := if sharesSeat s p r.core r.pos && (rotOf s r.core r.pos).any fun x => x.holder == noHolder then
    giveSeat s r.core r.pos p s.now false else s
  if (s.seat? r.core r.pos).any fun t => t.part == p then s.addCtx c
  else { s with saved := s.saved ++ [{
    part := p, addr := 0, seat := some (r.core, r.pos), ctx := c, len := 0, dlen := 8 * r.size / r.slots, lanes := 256,
    rrows := 0, kept := none, since := s.now }] }

/-- Start a partition from its record (R464). -/
def startPart (s : State) (p : Nat) (r : List Byte) : State :=
  let s := s.setPart p fun x =>
    let x := partOfRecord r x
    { x with seatRecs := x.seatRecs.map fun y => { y with turned := sharesSeat s p y.core y.pos } }
  let s := emptySlices s fun i => recSlice r i && !ownsSlice s p i
  let s := { s with
    smap := Vector.ofFn fun i : Fin 256 => if recSlice r i.val then BitVec.ofNat 16 (0x80 + p) else s.smap[i]
    ckpts := s.ckpts.filter fun x => x.part != p }
  let s := giveSeats { s with out := s.out ++ [.incarnation p (s.part p).inc.toNat true] } p (recSeats r)
  match recSeats r with
  | x :: _ => firstContext s p x
  | [] => s

/-- `prt.new`. -/
def execPrtNew (f : H3) (s : State) : Res := atDevice s <|
  let a := s.reg f.a.toNat
  let b := s.reg f.b.toNat
  if pastTable a then writeReg s f.d.toNat ones
  else if b.toNat % 1024 ≠ 0 then .next (trapScalar s 0x04 b)
  else endLines (loadLines s s.agent b.toNat 16) b fun r s =>
    let n := newResult s a r
    ((if n = 0 then startPart s a.toNat r else s).setReg f.d.toNat (wd n)).adv

end Sys2Proof.Machine
end

