-- ==== Sys2Proof/Machine/Checkpoint.lean ====
section
/-! DEFINITION. Checkpoints and rollback of a partition (R477 to R483): major 0x35; uncontained errors (R481) and the
restoring of saved contexts (R451, R452). -/
namespace Sys2Proof.Machine

/-! ## What a checkpoint holds (R478, R479) -/

/-- The HBM address that a storage key holds, none for the storage of a retired block (R233). -/
def cellPa (s : State) (k : Nat) : Option Nat :=
  match s.redir.find? fun r => r.2 == k / 65536 with
  | some r => some (r.1 * 65536 + k % 65536)
  | none => if s.redir.any fun r => r.1 == k / 65536 then none else some k

/-- The seats of a partition that are not time-shared: a time-shared seat's shares lie in the save area. -/
def ownSeats (s : State) (p : Nat) : List Seat :=
  s.seats.filter fun t => t.part == p && (rotOf s t.core t.pos).isNone

/-- The keys of a partition's local shares and chip-scratchpad units: first key and length. -/
def localRanges (s : State) (p : Nat) : List (Nat × Nat) :=
  ((ownSeats s p).flatMap fun t => (shareRanges t.core t.pos t.size).map fun r => (r.1, r.2.1)) ++
  (cspUnits (s.part p)).map fun u => (keyChip u.1 (u.2 * 65536), 65536)

/-- Whether a storage key is a partition's local memory, or device memory of its granules. -/
def localOf (s : State) (p k : Nat) : Bool := (localRanges s p).any fun r => decide (r.1 ≤ k) && decide (k < r.1 + r.2)
def granuleOf (s : State) (p k : Nat) : Bool :=
  isHbm k && (cellPa s k).any fun pa => (s.part p).ranges.any fun r => decide (r.1 ≤ pa / 2 ^ 21) && decide (pa / 2 ^ 21 < r.1 + r.2)

/-- The bytes of a partition, device memory by its address. -/
def partCells (s : State) (p : Nat) : List Host.Cell :=
  (s.mem.filter fun c => granuleOf s p c.1 || localOf s p c.1).map fun c =>
    (if isHbm c.1 then (cellPa s c.1).getD c.1 else c.1, c.2)

/-- The 64 KiB blocks of a partition by partition offset, in the order of its record's ranges (R463). -/
def blocksOf (x : Part) : List Nat :=
  (x.ranges.flatMap fun r => (List.range r.2).map fun i => r.1 + i).flatMap fun g => (List.range 32).map fun i => 32 * g + i

/-- Whether a block's checkpoint-dirty bit is set (R477). -/
def dirtyBlock (x : Part) (b : Nat) : Bool := x.ckList.contains b != x.ckAll

/-- The number of blocks of a partition whose checkpoint-dirty bit is set. -/
def dirtyBlocks (x : Part) : Nat := (blocksOf x).countP (dirtyBlock x)

/-- Copy the shares of a partition's time-shared seats into its save area. -/
def turnsOut (s : State) (p : Nat) : State :=
  (s.seats.filter fun t => t.part == p && (rotOf s t.core t.pos).isSome).foldl (fun s t =>
    sharesOut s t.core t.pos t.size (shareAddr (s.part p) t.core t.pos)) s

/-- Copy them back. -/
def turnsIn (s : State) (p : Nat) : State :=
  (s.seats.filter fun t => t.part == p && (rotOf s t.core t.pos).isSome).foldl (fun s t =>
    sharesIn s t.core t.pos t.size (shareAddr (s.part p) t.core t.pos)) s

/-- The checkpoint of a partition as it stands, not yet committed. -/
def takeCkpt (s : State) (p : Nat) : Ckpt :=
  { part := p, n := (s.part p).ckN + 1, done := false, mem := partCells s p, spawnQ := (s.part p).spawnQ
    meets := s.meets.filter fun m => m.part == p, locks := s.locks.filter fun l => l.part == p
    bufs := s.bufs.filter fun b => b.part == p, chains := s.chains.filter fun c => c.part == p
    graphs := s.graphs.filter fun g => g.part == p, binds := s.binds.filter fun b => b.part == p
    sides := s.sides.filter fun x => x.part == p, saved := s.saved.filter fun x => x.part == p }

/-! ## The phases (R478) -/

/-- Whether HOLD has done its work: contexts can be saved, started copies and sends have ended, and no request is on its
way to a home. -/
def heldStill (s : State) (p : Nat) : Bool :=
  (s.ctxs.all fun c => c.part != p || stoppable s c) &&
  !(s.copies.any fun x => x.part == p && x.slot.isSome && x.fault.isNone) &&
  !(s.sides.any fun x => x.part == p && x.going.isSome) && !(s.msgs.any fun m => m.who.part == p)

/-- The end of HOLD: every context is saved, and dirty tile-cache lines are written back. -/
def endHold (s : State) (p : Nat) : State :=
  let s := ((s.ctxs.filter fun c => c.part == p).map fun c => (c.id, (rotOf s c.core c.pos).isSome)).foldl
    (fun s x => saveCtx s x.1 x.2) s
  let s := turnsOut (writeBack s fun x => x.tile.part == p) p
  s.setPart p fun x => { x with ckPhase := 2, ckStart := s.now }

/-- The state block as bytes; its encoding is open (log 23). -/
def stateBlock (s : State) : List Byte := (Config.stateBlock s.free).take (960 * 1024)

/-- Bytes that a checkpoint writes to the safe tier. -/
def ckptBytes (s : State) (p blocks : Nat) : Nat :=
  64 + 65536 * blocks + ((localRanges s p).map Prod.snd).sum + (stateBlock s).length

/-- The local shares and units one after the other from an offset on. -/
def localWrites (s : State) (off : Nat) : List (Nat × Nat) → List (Nat × List Byte)
  | [] => []
  | r :: t => (off, getCells s.mem r.1 r.2) :: localWrites s (off + r.2) t

/-- What COPY writes, by the offset from CKPT, in order (R478, R479): the state block, the local shares and chip units from 1 MiB
on, and each dirty block at 2^30 and its partition offset. -/
def copyWrites (s : State) (p : Nat) : List (Nat × List Byte) :=
  let bs := blocksOf (s.part p)
  (65536, stateBlock s) :: localWrites s (2 ^ 20) (localRanges s p) ++
    ((List.range bs.length).filterMap fun i => (bs[i]?.filter (dirtyBlock (s.part p))).map fun b =>
      (2 ^ 30 + 65536 * i, peek s (65536 * b) 65536))

/-- The commit record of a checkpoint that has copied n blocks (R479). -/
def commitRecord (s : State) (p : Nat) (x : Ckpt) (n : Nat) : List Byte :=
  padTo 64 (leBytes 8 x.n ++ leBytes 8 s.now ++ leBytes 2 s.dev ++ leBytes 1 p ++ leBytes 1 (s.part p).inc.toNat ++
    leBytes 4 s.bootCount.toNat ++ leBytes 8 n)

/-- COPY, and the commit record. -/
def endCopy (s : State) (p : Nat) : State :=
  let x := takeCkpt s p
  let n := dirtyBlocks (s.part p)
  let w := copyWrites s p
  let s := (s.meter p 31 (ckptBytes s p n)).useFree 1
  let at_ := (s.part p).ckpt
  let put := fun (w : Nat × List Byte) => Out.commit (s.part p).ckdev (at_ + w.1) w.2
  let s := { s with ckpts := s.ckpts ++ [x], out := s.out ++ w.map put ++ [put (0, commitRecord s p x n)] }
  s.setPart p fun x => { x with ckPhase := 3, ckStart := s.now, ckBlocks := n }

/-- Abandon a running checkpoint: the bits are kept. -/
def abandonCkpt (s : State) (p : Nat) : State :=
  ({ s with ckpts := s.ckpts.filter fun x => x.part != p || x.done }).setPart p fun x => { x with ckPhase := 0, ckLast := 2 }

/-- Commit the checkpoint that waits for it. -/
def commitCkpt (s : State) (p : Nat) : State :=
  let s := { s with ckpts := (s.ckpts.filter fun (x : Ckpt) => x.part != p || !x.done).map fun (x : Ckpt) =>
    if x.part = p then { x with done := true } else x }
  s.setPart p fun x =>
    { x with ckPhase := 0, ckHas := true, ckLast := 1, ckN := x.ckN + 1, ckAll := false, ckList := [] }

/-- CHECKPOINT_COMMIT_ACK, or an error of the appliance. -/
def execCheckpointCommitAck (part : Nat) (ok : Bool) (s : State) : Res :=
  let ph := (s.part part).ckPhase
  .next (if ok then (if ph = 3 then commitCkpt s part else s)
    else if ph = 2 ∨ ph = 3 then abandonCkpt s part else s)

/-- CHECKPOINT_TIMEOUT. -/
def execCheckpointTimeout (part : Nat) (s : State) : Res :=
  let x := s.part part
  .next (if (x.ckPhase = 2 ∨ x.ckPhase = 3) ∧ x.ckStart + 2 ^ 16 ≤ s.now then abandonCkpt s part else s)

/-! ## Rollback (R480) -/

/-- The last committed checkpoint of a partition. -/
def ckptOf (s : State) (p : Nat) : Option Ckpt := s.ckpts.find? fun x => x.part == p && x.done

/-- Give the slots of a receive that held some back to its buffer: it is issued again. -/
def untake (b : Buf) : Buf :=
  match b.recvs.find? fun w => decide (0 < w.got) with
  | none => { b with claims := [], recvs := [] }
  | some w =>
    { b with
      claims := [], recvs := [], cpos := w.first, con := b.con - BitVec.ofNat 32 w.got
      slots := (List.range w.got).foldl (fun l i => l.set ((w.first + i) % b.cap) .filled) b.slots }

/-- Read memory back. -/
def restoreCells (s : State) (p : Nat) (cells : List Host.Cell) : State :=
  let s := { s with mem := s.mem.filter fun c => !(granuleOf s p c.1 || localOf s p c.1) }
  cells.foldl (fun s c =>
    if isHbm c.1 || localOf s p c.1 then { s with mem := setCell unwritten (if isHbm c.1 then hbmKey s c.1 else c.1) c.2 s.mem } else s) s

/-- Put the state block back; the waits of its contexts are issued again. -/
def restoreBlock (s : State) (p : Nat) (x : Ckpt) : State :=
  let bufs := x.bufs.map untake
  let s := { s with
    meets := s.meets ++ x.meets.map fun m => { m with waits := [] }
    locks := s.locks ++ x.locks.map fun l => { l with queue := [] }
    bufs := s.bufs ++ bufs, chains := s.chains ++ x.chains.map fun c => { c with waits := [] }
    graphs := s.graphs ++ x.graphs, binds := s.binds ++ x.binds, sides := s.sides ++ x.sides
    saved := s.saved ++ x.saved.map fun y => { y with kept := none, ctx := { y.ctx with wait := none } } }
  let s := (bufs.filter fun b => b.home == s.dev).foldl writeBuf s
  s.setPart p fun y => { y with spawnQ := x.spawnQ }

/-- Start a rollback: a running checkpoint is abandoned and every context is discarded. -/
def beginRollback (s : State) (p : Nat) : State :=
  let s := if (s.part p).ckPhase = 0 then s else abandonCkpt s p
  let s := discardCtxs s p fun _ => true
  s.setPart p fun x => { x with ckPhase := 4, ckStart := s.now }

/-- The rollback itself. Windows and groups are no part of a checkpoint and stand; cached lines go. -/
def rollBack (s : State) (p : Nat) (x : Ckpt) : State :=
  let wins := s.wins
  let grps := s.grps
  let n := dirtyBlocks (s.part p)
  let s := freeEngines (clearEngines s p) p
  let s := { s with
    wins := wins, tlb := s.tlb.filter fun t => t.2.1 != p
    grps := grps.map fun (g : Grp) => if g.part = p then { g with reds := [], early := [], last := none } else g
    resvs := s.resvs.filter fun r => r.flit.spart.toNat != p || r.host.isSome
    seats := s.seats.map fun (t : Seat) => if t.part = p then { t with spill := [], bank := none } else t }
  let s := turnsIn (restoreBlock (restoreCells s p x.mem) p x) p
  let s := s.setPart p fun y =>
    { y with ckPhase := 0, ckLast := 3, ckBlocks := n, ckAll := false, ckList := [] }
  s.postEvent p 9 0 x.n

/-- The progress of a checkpoint or rollback in a tick. -/
def progressCkpt (s : State) (p : Nat) : State :=
  if (s.part p).stop.isSome then s else
  match (s.part p).ckPhase with
  | 1 => if heldStill s p then endHold s p else s
  | 2 => endCopy s p
  | 4 => match ckptOf s p with
    | some x => rollBack s p x
    | none => s.setPart p fun y => { y with ckPhase := 0 }
  | _ => s

/-! ## Major 0x35 -/

/-- The shape of the three: all ones past the table, 1 for partition 0. -/
def onPart (s : State) (f : H3) (k : Nat → Part → Res) : Res := atDevice s <|
  let a := s.reg f.a.toNat
  if pastTable a then writeReg s f.d.toNat ones
  else if a = 0 then writeReg s f.d.toNat 1
  else k a.toNat (s.part a.toNat)

/-- `ckp.go`. -/
def execCkpGo (f : H3) (s : State) : Res :=
  onPart s f fun p x =>
    if x.st ≠ .live || !x.cke then writeReg s f.d.toNat 2
    else if x.ckPhase ≠ 0 then writeReg s f.d.toNat 3
    else writeReg (s.setPart p fun x => { x with ckPhase := 1, ckStart := s.now, ckBlocks := 0 }) f.d.toNat 0

/-- The state word of `ckp.st` (R483). -/
def ckptWord (x : Part) : Word :=
  wd (x.ckPhase + x.ckHas.toNat * 8 + x.ckLast * 16 + x.ckN % 2 ^ 24 * 2 ^ 8 + x.ckBlocks % 2 ^ 32 * 2 ^ 32)

/-- `ckp.st`. -/
def execCkpSt (f : H3) (s : State) : Res :=
  onPart s f fun _ x => writeReg s f.d.toNat (ckptWord x)

/-- `ckp.rb`. -/
def execCkpRb (f : H3) (s : State) : Res :=
  onPart s f fun p x =>
    if x.st ≠ .live || !x.ckHas then writeReg s f.d.toNat 2
    else if x.ckPhase = 4 then writeReg s f.d.toNat 3
    else writeReg (beginRollback s p) f.d.toNat 0

/-! ## Errors (R191, R481) and restores (R451, R452) -/

/-- What the hardware's `prt.kill` of a partition does. -/
def hardKill (s : State) (p : Nat) : State :=
  match (s.part p).st with
  | .assigned => if (s.part p).stop.isSome then turnToKill s p else beginStop s p true false
  | .live => if (s.part p).stop.isSome then turnToKill s p else beginStop s p true false
  | .stopped => killStopped s p
  | _ => s

/-- An uncontained error of a partition: it is rolled back where that can be, else killed (R481). -/
def uncontained (s : State) (part : Nat) : State :=
  let x := s.part part
  if part = 0 || decide (64 ≤ part) then s
  else if x.st = .live && x.stop.isNone && x.cke && x.ckHas then (if x.ckPhase = 4 then s else beginRollback s part)
  else hardKill s part

/-- A tag that reads with a parity error: its way is invalidated, and what was dirty in it is lost (R191). -/
def loseWay (s : State) (slice set_ way : Nat) : State :=
  let bad := s.tcl.filter fun l => l.slice == slice && l.set_ == set_ && l.way == way
  let s := discard s fun x => bad.any fun l => l.tile == x.tile
  { s with tcl := s.tcl.filter fun l => !bad.contains l, l1 := s.l1.filter fun y => !(bad.any fun l => l.tile == y.tile) }

/-- UNCONTAINED_ERROR. A tag error strikes the owner of its slice; an uncorrectable error in data is no uncontained error:
the data is poisoned and handled where it is consumed (R191, R455). -/
def execUncontainedError (at_ : ErrAt) (s : State) : Res :=
  match at_ with
  | .inPart part => .next (uncontained s part)
  | .tag slice set_ way =>
    .next (uncontained (loseWay s slice set_ way) ((s.smap[slice]?.getD 0).extractLsb' 0 6).toNat)
  | .data unit => .next { s with poison := unit :: s.poison.filter fun u => u != unit }

/-- CONTEXT_RESTORE: the saved context that stands first takes its place; a bad image loses it, and rolls its partition
back where that can be. -/
def execContextRestore (part : Nat) (bad : Bool) (s : State) : Res :=
  match firstBid (clockStages s) part with
  | some b =>
    match b.who with
    | .saved i =>
      match s.saved[i]? with
      | none => .next s
      | some x =>
        let s := { s with saved := s.saved.eraseIdx i }
        if bad || imagePoisoned s x.addr (x.len / 64) then
          let roll := (s.part part).cke && (s.part part).ckHas
          let s := loseSaved s x roll
          .next (if roll then beginRollback s part else s)
        else .next (restoreSaved s x b.core b.pos b.slot)
    | _ => .next s
  | none => .next s

end Sys2Proof.Machine
end

