-- ==== Sys2Proof/Machine/Scalar.lean ====
section
/-! DEFINITION. Integer and floating-point instructions of the scalar stream, majors 0x01 to 0x06 (R100 to R110). -/
namespace Sys2Proof.Machine

/-! ## Shared forms -/

/-- Major 0x01 (R101): DST := op(A, B). -/
def aluReg (op : Word → Word → Word) (f : H1) (s : State) : Res :=
  writeReg s f.d.toNat (op (s.reg f.a.toNat) (s.reg f.b.toNat))

/-- Major 0x02 (R101): the second operand is IMM16 sign-extended; for a shift IMM16 is 0 to 63. -/
def aluImm (op : Word → Word → Word) (f : H3) (s : State) : Res :=
  writeReg s f.d.toNat (op (s.reg f.a.toNat) (f.imm.signExtend 64))

/-- Major 0x05 (R105): DST := op(A). -/
def bitOp (op : Word → Word) (f : H1) (s : State) : Res := writeReg s f.d.toNat (op (s.reg f.a.toNat))

/-- An integer form of major 0x04 (R104): DST := op(A, B), signed for TYPE 4. -/
def mulDiv (op : Bool → Word → Word → Word) (f : H3) (s : State) : Res :=
  writeReg s f.d.toNat (op (f.ty == 4) (s.reg f.a.toNat) (s.reg f.b.toNat))

/-- An integer form of major 0x06 (R106). -/
def cmpOp (op : Bool → Word → Word → Word) (f : H2) (s : State) : Res :=
  writeReg s f.d.toNat (op (f.ty == 4) (s.reg f.a.toNat) (s.reg f.b.toNat))

/-- The low bits of a register that hold a floating-point operand (R108). -/
def State.fop (s : State) (ty : Nat) (r : BitVec 5) : Nat := (s.reg r.toNat).toNat % 2 ^ tyWidth ty

/-- A floating-point form: write the result with zeros above it, set its flags (R108). -/
def writeFloat (s : State) (d : Nat) (r : Nat × Nat) : Res := writeReg (s.setFlags r.2) d (wd r.1)

/-- A two-operand floating-point form of major 0x04 (R109). -/
def floatOp (op : Fmt → Nat → Nat → Nat → Nat × Nat) (f : H3) (s : State) : Res :=
  let ty := f.ty.toNat
  writeFloat s f.d.toNat (op (tyFmt ty) s.rm (s.fop ty f.a) (s.fop ty f.b))

/-- A floating-point comparison (R106): `test` of the order, and whether any NaN sets NV or only a signalling one. -/
def floatCmp (test : Option Ordering → Bool) (quiet : Bool) (f : H2) (s : State) : Res :=
  let ty := f.ty.toNat
  let x := fDec (tyFmt ty) (s.fop ty f.a)
  let y := fDec (tyFmt ty) (s.fop ty f.b)
  let fl := if quiet then nanFlags [x, y] else if x.isNan || y.isNan then fNV else 0
  writeFloat s f.d.toNat ((test (cmpV x y)).toNat, fl)

/-! ## Operations -/

/-- `add`: the sum modulo 2^64 (R101). -/
def addW (a b : Word) : Word := a + b
/-- `sub`: the difference modulo 2^64 (R101). -/
def subW (a b : Word) : Word := a - b
/-- `and`: a AND b (R101). -/
def andW (a b : Word) : Word := a &&& b
/-- `or`: a OR b (R101). -/
def orW (a b : Word) : Word := a ||| b
/-- `xor`: a XOR b (R101). -/
def xorW (a b : Word) : Word := a ^^^ b
/-- `andn`: a AND NOT b (R101). -/
def andnW (a b : Word) : Word := a &&& ~~~b
/-- `shl`: a shifted left by b mod 64 (R101). -/
def shlW (a b : Word) : Word := a <<< (b.toNat % 64)
/-- `shr`: a shifted right by b mod 64, zeros in (R101). -/
def shrW (a b : Word) : Word := a >>> (b.toNat % 64)
/-- `sra`: a shifted right by b mod 64, copies of bit 63 in (R101). -/
def sraW (a b : Word) : Word := a.sshiftRight (b.toNat % 64)
/-- `rot`: a rotated left by b mod 64 (R101). -/
def rotW (a b : Word) : Word := a.rotateLeft (b.toNat % 64)
/-- `min`: the signed lesser (R101). -/
def minW (a b : Word) : Word := if a.toInt ≤ b.toInt then a else b
/-- `max`: the signed greater (R101). -/
def maxW (a b : Word) : Word := if b.toInt ≤ a.toInt then a else b
/-- `minN64`: the unsigned lesser (R101). -/
def minN64W (a b : Word) : Word := if a.toNat ≤ b.toNat then a else b
/-- `maxN64`: the unsigned greater (R101). -/
def maxN64W (a b : Word) : Word := if b.toNat ≤ a.toNat then a else b

/-- The value of a word by signedness. -/
def wordInt (signed : Bool) (x : Word) : Int := if signed then x.toInt else x.toNat

/-- `mulh` (R104): the high 64 bits of the product. -/
def mulhW (signed : Bool) (a b : Word) : Word := wrap64 (wordInt signed a * wordInt signed b / 2 ^ 64)

/-- `div` (R104): rounded toward zero; all ones for a zero divisor, and −2^63 for −2^63 ÷ −1. -/
def divW (signed : Bool) (a b : Word) : Word :=
  if b = 0 then ones else wrap64 ((wordInt signed a).tdiv (wordInt signed b))

/-- `rem` (R104): the sign of the dividend; the dividend for a zero divisor. -/
def remW (signed : Bool) (a b : Word) : Word :=
  if b = 0 then a else wrap64 ((wordInt signed a).tmod (wordInt signed b))

/-- Count of leading zeros of a word (R105), searched from bit n − 1 down. -/
def clzFrom (x : Word) : Nat → Nat
  | 0 => 0
  | n + 1 => if x.getLsbD n then 0 else clzFrom x n + 1

/-- Count of trailing zeros (R105), with n bits left. -/
def ctzFrom (x : Word) : Nat → Nat
  | 0 => 0
  | n + 1 => if x.getLsbD (63 - n) then 0 else ctzFrom x n + 1

/-- Count of set bits below n (R105). -/
def popcTo (x : Word) : Nat → Nat
  | 0 => 0
  | n + 1 => popcTo x n + (x.getLsbD n).toNat

/-- Low n bits, sign-extended (R105). -/
def sextW (n : Nat) (x : Word) : Word := (x.setWidth n).signExtend 64

/-- Low n bits, zero-extended (R105). -/
def zextW (n : Nat) (x : Word) : Word := (x.setWidth n).setWidth 64

/-- `cmp` (R106). -/
def cmpW (signed : Bool) (a b : Word) : Word :=
  if wordInt signed a < wordInt signed b then ones else if a = b then 0 else 1

/-- A truth value as a word. -/
def boolW (b : Bool) : Word := if b then 1 else 0

/-! ## Major 0x01 -/

/-- Register form of `add` (R101). -/
def execAddReg (f : H1) (s : State) : Res := aluReg addW f s
/-- Register form of `sub` (R101). -/
def execSubReg (f : H1) (s : State) : Res := aluReg subW f s
/-- Register form of `and` (R101). -/
def execAndReg (f : H1) (s : State) : Res := aluReg andW f s
/-- Register form of `or` (R101). -/
def execOrReg (f : H1) (s : State) : Res := aluReg orW f s
/-- Register form of `xor` (R101). -/
def execXorReg (f : H1) (s : State) : Res := aluReg xorW f s
/-- Register form of `andn` (R101). -/
def execAndnReg (f : H1) (s : State) : Res := aluReg andnW f s
/-- Register form of `shl` (R101). -/
def execShlReg (f : H1) (s : State) : Res := aluReg shlW f s
/-- Register form of `shr` (R101). -/
def execShrReg (f : H1) (s : State) : Res := aluReg shrW f s
/-- Register form of `sra` (R101). -/
def execSraReg (f : H1) (s : State) : Res := aluReg sraW f s
/-- Register form of `rot` (R101). -/
def execRotReg (f : H1) (s : State) : Res := aluReg rotW f s
/-- Register form of `min` (R101). -/
def execMinReg (f : H1) (s : State) : Res := aluReg minW f s
/-- Register form of `max` (R101). -/
def execMaxReg (f : H1) (s : State) : Res := aluReg maxW f s
/-- Register form of `minN64` (R101). -/
def execMinN64Reg (f : H1) (s : State) : Res := aluReg minN64W f s
/-- Register form of `maxN64` (R101). -/
def execMaxN64Reg (f : H1) (s : State) : Res := aluReg maxN64W f s

/-! ## Major 0x02 -/

/-- Immediate form of `add` (R101). -/
def execAddImm (f : H3) (s : State) : Res := aluImm addW f s
/-- Immediate form of `sub` (R101). -/
def execSubImm (f : H3) (s : State) : Res := aluImm subW f s
/-- Immediate form of `and` (R101). -/
def execAndImm (f : H3) (s : State) : Res := aluImm andW f s
/-- Immediate form of `or` (R101). -/
def execOrImm (f : H3) (s : State) : Res := aluImm orW f s
/-- Immediate form of `xor` (R101). -/
def execXorImm (f : H3) (s : State) : Res := aluImm xorW f s
/-- Immediate form of `andn` (R101). -/
def execAndnImm (f : H3) (s : State) : Res := aluImm andnW f s
/-- Immediate form of `shl` (R101). -/
def execShlImm (f : H3) (s : State) : Res := aluImm shlW f s
/-- Immediate form of `shr` (R101). -/
def execShrImm (f : H3) (s : State) : Res := aluImm shrW f s
/-- Immediate form of `sra` (R101). -/
def execSraImm (f : H3) (s : State) : Res := aluImm sraW f s
/-- Immediate form of `rot` (R101). -/
def execRotImm (f : H3) (s : State) : Res := aluImm rotW f s
/-- Immediate form of `min` (R101). -/
def execMinImm (f : H3) (s : State) : Res := aluImm minW f s
/-- Immediate form of `max` (R101). -/
def execMaxImm (f : H3) (s : State) : Res := aluImm maxW f s
/-- Immediate form of `minN64` (R101). -/
def execMinN64Imm (f : H3) (s : State) : Res := aluImm minN64W f s
/-- Immediate form of `maxN64` (R101). -/
def execMaxN64Imm (f : H3) (s : State) : Res := aluImm maxN64W f s

/-! ## Major 0x03 (R102) -/

/-- `li`: the sign-extended IMM44. -/
def execLi (f : Wide) (s : State) : Res := writeReg s f.d.toNat (f.imm.signExtend 64)

/-- `lea`: the base of the line that holds the head plus IMM44. -/
def execLea (f : Wide) (s : State) : Res :=
  writeReg s f.d.toNat (wd (lineBase s.c.pc.toNat) + f.imm.signExtend 64)

/-- `lih`: bits [63:44] from IMM44[19:0]; bits [43:0] are kept. -/
def execLih (f : Wide) (s : State) : Res :=
  writeReg s f.d.toNat (f.imm.setWidth 20 ++ (s.reg f.d.toNat).setWidth 44)

/-! ## Major 0x04 (R104, R109, R110) -/

/-- `mul`: the low 64 bits of the product. -/
def execMul (f : H3) (s : State) : Res := mulDiv (fun _ a b => a * b) f s
/-- `mulh`. -/
def execMulh (f : H3) (s : State) : Res := mulDiv mulhW f s
/-- `div`. -/
def execDiv (f : H3) (s : State) : Res := mulDiv divW f s
/-- `rem`. -/
def execRem (f : H3) (s : State) : Res := mulDiv remW f s
/-- `fadd`. -/
def execFadd (f : H3) (s : State) : Res := floatOp fAdd f s
/-- `fsub`. -/
def execFsub (f : H3) (s : State) : Res := floatOp fSub f s
/-- `fmul`. -/
def execFmul (f : H3) (s : State) : Res := floatOp fMul f s
/-- `fdiv`. -/
def execFdiv (f : H3) (s : State) : Res := floatOp fDiv f s

/-- `fma`: a × b + c rounded once. -/
def execFma (f : H3) (s : State) : Res :=
  let ty := f.ty.toNat
  writeFloat s f.d.toNat (fFma (tyFmt ty) s.rm false false (s.fop ty f.a) (s.fop ty f.b) (s.fop ty f.c))

/-- `fcvt` from the type in IMM16[3:0] to TYPE (R110). -/
def execFcvt (f : H3) (s : State) : Res :=
  let src := f.imm.toNat % 16
  writeFloat s f.d.toNat (convTy f.ty.toNat src s.rm (s.fop src f.a))

/-! ## Major 0x05 (R105) -/

/-- `clz`. -/
def execClz (f : H1) (s : State) : Res := bitOp (fun x => wd (clzFrom x 64)) f s
/-- `ctz`. -/
def execCtz (f : H1) (s : State) : Res := bitOp (fun x => wd (ctzFrom x 64)) f s
/-- `popc`. -/
def execPopc (f : H1) (s : State) : Res := bitOp (fun x => wd (popcTo x 64)) f s
/-- `sext.s8`. -/
def execSextS8 (f : H1) (s : State) : Res := bitOp (sextW 8) f s
/-- `sext.s16`. -/
def execSextS16 (f : H1) (s : State) : Res := bitOp (sextW 16) f s
/-- `sext.s32`. -/
def execSextS32 (f : H1) (s : State) : Res := bitOp (sextW 32) f s
/-- `zext.n8`. -/
def execZextN8 (f : H1) (s : State) : Res := bitOp (zextW 8) f s
/-- `zext.n16`. -/
def execZextN16 (f : H1) (s : State) : Res := bitOp (zextW 16) f s
/-- `zext.n32`. -/
def execZextN32 (f : H1) (s : State) : Res := bitOp (zextW 32) f s

/-! ## Major 0x06 (R106) -/

/-- `cmp`. -/
def execCmp (f : H2) (s : State) : Res := cmpOp cmpW f s
/-- `set.eq`. -/
def execSetEq (f : H2) (s : State) : Res := cmpOp (fun _ a b => boolW (a == b)) f s
/-- `set.ne`. -/
def execSetNe (f : H2) (s : State) : Res := cmpOp (fun _ a b => boolW (a != b)) f s
/-- `set.lt`. -/
def execSetLt (f : H2) (s : State) : Res :=
  cmpOp (fun sg a b => boolW (decide (wordInt sg a < wordInt sg b))) f s
/-- `set.ge`. -/
def execSetGe (f : H2) (s : State) : Res :=
  cmpOp (fun sg a b => boolW (decide (wordInt sg b ≤ wordInt sg a))) f s
/-- `fcmp.eq`. -/
def execFcmpEq (f : H2) (s : State) : Res := floatCmp (fun o => o == some .eq) true f s
/-- `fcmp.lt`. -/
def execFcmpLt (f : H2) (s : State) : Res := floatCmp (fun o => o == some .lt) false f s
/-- `fcmp.le`. -/
def execFcmpLe (f : H2) (s : State) : Res := floatCmp (fun o => o == some .lt || o == some .eq) false f s
/-- `fcmp.un`. -/
def execFcmpUn (f : H2) (s : State) : Res := floatCmp (fun o => o == none) true f s

end Sys2Proof.Machine
end

