-- ==== Sys2Proof/Machine/Control.lean ====
section
/-! DEFINITION. Branches, jumps and calls, control registers, trap and return, pause, fences and hints: majors 0x0A to
0x0D and 0x3F (R94, R121 to R135), and the register-write steps. -/
namespace Sys2Proof.Machine

/-! ## Branches, jumps and calls (R121, R122) -/

/-- A branch of major 0x0A. -/
def branch (taken : Word → Word → Bool) (f : H3) (s : State) : Res :=
  if taken (s.reg f.a.toNat) (s.reg f.b.toNat) then .next (transfer s (branchTarget s f.imm) id) else .next s.adv

/-- `b.eq`. -/
def execBEq (f : H3) (s : State) : Res := branch (fun a b => a == b) f s
/-- `b.ne`. -/
def execBNe (f : H3) (s : State) : Res := branch (fun a b => a != b) f s
/-- `b.lt`, signed. -/
def execBLt (f : H3) (s : State) : Res := branch (fun a b => decide (a.toInt < b.toInt)) f s
/-- `b.ge`, signed. -/
def execBGe (f : H3) (s : State) : Res := branch (fun a b => decide (b.toInt ≤ a.toInt)) f s
/-- `b.lt.n64`. -/
def execBLtN64 (f : H3) (s : State) : Res := branch (fun a b => decide (a.toNat < b.toNat)) f s
/-- `b.ge.n64`. -/
def execBGeN64 (f : H3) (s : State) : Res := branch (fun a b => decide (b.toNat ≤ a.toNat)) f s

/-- The address of the next head in flow as a word, the link of a call. -/
def Ctx.link (c : Ctx) : Word := c.nextPc.setWidth 64

/-- `jmp`. -/
def execJmp (f : H3) (s : State) : Res := .next (transfer s (jumpTarget s f) id)

/-- `call`: the link, then the transfer. -/
def execCall (f : H3) (s : State) : Res :=
  .next (transfer s (jumpTarget s f) fun c => c.setReg f.d.toNat s.c.link)

/-- `jr`: the target is read before the link is written. -/
def execJr (f : H3) (s : State) : Res :=
  let t := s.reg f.a.toNat
  if registerTargetOk t then .next (transfer s t.toNat fun c => c.setReg f.d.toNat s.c.link)
  else .next (trapAt s 0x04 t)

/-! ## Control registers (R123 to R130) -/

/-- Read a control register. -/
def readCsr (s : State) (n : Nat) : Word :=
  match n with
  | 0x00 => s.c.vl
  | 0x01 => s.c.vcfg
  | 0x02 => s.mySeat.vcap
  | 0x03 => s.c.avl
  | 0x04 => s.c.es
  | 0x05 => s.c.esk
  | 0x06 => s.c.ws
  | 0x07 => s.c.fps
  | 0x08 => s.mySeat.lprWord
  | 0x09 => s.seatWord
  | 0x0A => s.ncl
  | 0x0B => s.mySeat.spwstWord
  | 0x0C => s.mySeat.spwmode
  | 0x10 => s.tick
  | 0x11 => s.tgb
  | 0x12 => s.myPart.whz
  | 0x20 => s.c.cause
  | 0x21 => s.c.epc
  | 0x22 => s.c.tval
  | 0x23 => s.c.tst
  | 0x24 => s.myPart.tvec
  | 0x28 => s.myPart.wpt[0]
  | 0x29 => s.myPart.wpt[1]
  | 0x2A => s.myPart.wpt[2]
  | 0x2B => s.myPart.wpt[3]
  | _ => 0

/-- A write of a register that has no behaviour beyond its own fields (R123). -/
def writePlain (s : State) (n : Nat) (x : Word) : State :=
  match n with
  | 0x02 => s.setMySeat fun t => { t with vcap := wd (x.toNat % 32) }
  | 0x03 => { s with c := { s.c with avl := x } }
  | 0x04 => { s with c := { s.c with es := x } }
  | 0x05 => { s with c := { s.c with esk := eskWritten x } }
  | 0x06 => { s with c := { s.c with ws := wd (x.toNat % 8) } }
  | 0x20 => { s with c := { s.c with cause := wd (x.toNat % 256) } }
  | 0x21 => { s with c := { s.c with epc := wd (x.toNat % 2 ^ 56) } }
  | 0x22 => { s with c := { s.c with tval := x } }
  | 0x23 => { s with c := { s.c with tst := tstWritten s.c.tst x } }
  | 0x24 => s.setPart s.c.part fun p => { p with tvec := wd (x.toNat % 2 ^ 56) }
  | _ => s

/-- A write of `fps` (R107). -/
def writeFps (s : State) (x : Word) : State := { s with c := { s.c with fps := fpsWritten x } }

/-- A write of `whz` (R48). -/
def writeWhz (s : State) (x : Word) : State := s.setPart s.c.part fun p => { p with whz := whzWritten x }

/-- A write of `lpr` (R28): it waits for the seat to empty. -/
def writeLpr (s : State) (x : Word) : State := s.setMySeat fun t => { t with lprNew := some (lprWritten t.size x) }

/-- Write a control register, each by its own rule. -/
def writeCsr (s : State) (n : Nat) (x : Word) : State :=
  match n with
  | 0x00 => s.writeVl x
  | 0x01 => s.writeVcfg x
  | 0x07 => writeFps s x
  | 0x08 => writeLpr s x
  | 0x0B => writeSpwst s x
  | 0x0C => writeSpwmode s x
  | 0x12 => writeWhz s x
  | 0x28 => writeWpt s s.c.part 0 x
  | 0x29 => writeWpt s s.c.part 1 x
  | 0x2A => writeWpt s s.c.part 2 x
  | 0x2B => writeWpt s s.c.part 3 x
  | _ => writePlain s n x

/-- The level that reading and writing a register needs (R124). -/
def csrReadLevel (n : Nat) : Nat := if 0x20 ≤ n then 1 else 0
def csrWriteLevel (n : Nat) : Nat := if n = 0x06 || n = 0x07 then 0 else 1

/-- `csrr`. -/
def execCsrr (f : H2) (s : State) : Res :=
  let n := f.imm.toNat
  if s.c.priv.toNat < csrReadLevel n then .next (privTrap s) else writeReg s f.d.toNat (readCsr s n)

/-- `csrw`, `csrs` and `csrc`: the register takes `new old a`. -/
def csrChange (new : Word → Word → Word) (f : H2) (s : State) : Res :=
  let n := f.imm.toNat
  if s.c.priv.toNat < csrWriteLevel n then .next (privTrap s)
  else .next (writeCsr s n (new (readCsr s n) (s.reg f.a.toNat))).adv

/-- `csrw`. -/
def execCsrw (f : H2) (s : State) : Res := csrChange (fun _ a => a) f s
/-- `csrs`. -/
def execCsrs (f : H2) (s : State) : Res := csrChange (fun o a => o ||| a) f s
/-- `csrc`. -/
def execCsrc (f : H2) (s : State) : Res := csrChange (fun o a => o &&& ~~~a) f s

/-! ## The register-write steps: what a control-register write does, apart from its instruction -/

/-- REGISTER_WRITE (R123). -/
def execRegisterWrite (reg : BitVec 8) (val : Word) (s : State) : Res := .next (writePlain s reg.toNat val)
/-- VCFG_WRITE (R140). -/
def execVcfgWrite (val : Word) (s : State) : Res := .next (s.writeVcfg val)
/-- VL_WRITE (R139). -/
def execVlWrite (val : Word) (s : State) : Res := .next (s.writeVl val)
/-- FPS_WRITE (R107). -/
def execFpsWrite (val : Word) (s : State) : Res := .next (writeFps s val)
/-- WHZ_WRITE (R48). -/
def execWhzWrite (val : Word) (s : State) : Res := .next (writeWhz s val)
/-- LPR_WRITE (R28). -/
def execLprWrite (val : Word) (s : State) : Res := .next (writeLpr s val)
/-- SPWMODE_WRITE (R298). -/
def execSpwmodeWrite (val : Word) (s : State) : Res := .next (writeSpwmode s val)
/-- SPWST_WRITE (R299). -/
def execSpwstWrite (val : Word) (s : State) : Res := .next (writeSpwst s val)
/-- WPT_WRITE (R457). -/
def execWptWrite (n : Fin 4) (val : Word) (s : State) : Res := .next (writeWpt s s.c.part n.val val)

/-- Whether a pending `lpr` of a seat may take effect (R28): no context is resident there, attached or running. -/
def seatEmpty (s : State) (t : Seat) : Bool :=
  t.gangOf.isNone && !(s.ctxs.any fun x => x.core == t.core && x.pos == t.pos)

/-- LPR_TAKE_EFFECT (R28). -/
def execLprTakeEffect (core pos : Nat) (s : State) : Res :=
  match s.seat? core pos with
  | none => .next s
  | some t =>
    match t.lprNew with
    | none => .next s
    | some x =>
      if seatEmpty s t then .next (s.setSeat core pos fun t => { t with lpr := x, lprNew := none }) else .next s

/-! ## Major 0x0D and the hints -/

/-- `trap #k` (R132): `epc` is the next head in flow. -/
def execTrap (f : H0) (s : State) : Res := .next (trapTo s 0x11 s.c.nextPc (f.arg.setWidth 64))

/-- `eret` (R133). -/
def execEret (_ : H0) (s : State) : Res := .next (returnFromTrap s)

/-- `wfe` (R134): the context pauses. `u` is the number of its partition's next event. -/
def execWfe (_ : H0) (s : State) : Res :=
  .next { s with c := { s.c with
    wait := some { op := .pause, obj := none, dev := s.dev, stamp := s.now, u := s.myPart.evSeq, limit := none } } }

/-- Whether a pause is over: an event of the partition, a queue wake (which changes `u`), or the second tick. A restored
context first enters its line (R77). -/
def pauseOver (s : State) (c : Ctx) (w : Wait) : Bool := !c.entering && (w.u != (s.part c.part).evSeq || decide (w.stamp + 2 ≤ s.now))

/-- WFE_WAKE (R134). -/
def execWfeWake (ctx : Nat) (s : State) : Res :=
  match s.ctx? ctx with
  | none => .next s
  | some c =>
    match c.wait with
    | some w =>
      if w.op = .pause && pauseOver s c w then .next (s.withCtx ctx fun c => { c with wait := none }.adv) else .next s
    | none => .next s

/-- A fence (R135): every access of this model is performed at its instruction, so its order is met (log 7), but for what
`releasing` waits for. -/
def fence (s : State) : Res := .next s.adv

/-- `fence.sv`. -/
def execFenceSv (_ : H0) (s : State) : Res := fence s
/-- `fence.vs`. -/
def execFenceVs (_ : H0) (s : State) : Res := fence s
/-- `fence.rel`. -/
def execFenceRel (f : H0) (s : State) : Res := releasing s f.arg.toNat fence
/-- `fence.acq`: at package scope the stores that the context may have read are performed there (R199, log 56). -/
def execFenceAcq (f : H0) (s : State) : Res := fence (if 3 ≤ f.arg.toNat then settleShoots s fun _ => true else s)
/-- `fence.full`: the context's own stores are seen by its fetches from here on (R78), and its stores to table lines by
its translations (R232). -/
def execFenceFull (f : H0) (s : State) : Res :=
  releasing s f.arg.toNat fun s => fence { s with c := { s.c with unseen := [] } }

/-- `nop` (R94). -/
def execNop (s : State) : Res := .next s.adv
/-- A hint (R94). -/
def execHint (_ : HintWord) (s : State) : Res := .next s.adv

end Sys2Proof.Machine
end

