-- ==== Sys2Proof/Machine/Fn.lean ====
section
/-! DEFINITION. The functions of major 0x19 (R323), each rounded once to nearest even. A transcendental value is worked
out to 256 fraction bits and a last bit that says that it goes on, far more than any rounding boundary of BF16, FP16 or
FP32 needs. -/
namespace Sys2Proof.Machine

/-- Fraction bits of the fixed-point values. -/
def fixP : Nat := 256

/-- ln 2, by its series in powers of one half. -/
def lnTwo : Nat := (List.range fixP).foldl (fun a k => a + 2 ^ fixP / ((k + 1) * 2 ^ (k + 1))) 0

/-- e^r for 0 ≤ r < 1, by its power series: the sum and the last term after n more terms from term k. -/
def expSum (r : Nat) : Nat → Nat → Nat → Nat → Nat
  | 0, _, _, sum => sum
  | n + 1, k, term, sum =>
    let t := term * r / 2 ^ fixP / (k + 1)
    expSum r n (k + 1) t (sum + t)

/-- e^r for 0 ≤ r < 1. -/
def expUnit (r : Nat) : Nat := expSum r 80 0 (2 ^ fixP) (2 ^ fixP)

/-- e^x as v × 2^n with 1 ≤ v < 2, v in fixed point. -/
def expFix (x : Int) : Nat × Int :=
  let n := x / (lnTwo : Int)
  (expUnit (x - n * lnTwo).toNat, n)

/-- The series of atanh z: n more terms from z^k ÷ k. -/
def atanhSum (zz : Nat) : Nat → Nat → Nat → Nat → Nat
  | 0, _, _, sum => sum
  | n + 1, k, pw, sum => atanhSum zz n (k + 2) (pw * zz / 2 ^ fixP) (sum + pw / k)

/-- ln x for 1 ≤ x < 2. -/
def lnFix (x : Nat) : Nat :=
  let z := (x - 2 ^ fixP) * 2 ^ fixP / (x + 2 ^ fixP)
  2 * atanhSum (z * z / 2 ^ fixP) 96 1 z 0

/-- The value m·2^e in fixed point, where it lies below 2^10. -/
def fixOf (m : Nat) (e : Int) : Nat := if 0 ≤ e + fixP then m * 2 ^ (e + fixP).toNat else m / 2 ^ (-(e + fixP)).toNat

/-- Whether m·2^e is at least 2^k. -/
def atLeast (m : Nat) (e : Int) (k : Int) : Bool := m ≠ 0 && decide (k ≤ (m.log2 : Int) + e)

/-- Round a positive value v × 2^n that goes on, v in fixed point. -/
def roundFix (f : Fmt) (neg : Bool) (v : Nat) (n : Int) : Nat × Nat := roundF f 0 neg (2 * v + 1) (n - fixP - 1)

/-- The bits of 1 in a format. -/
def fOne (f : Fmt) : Nat := (2 ^ (f.eb - 1) - 1) * 2 ^ f.fb

/-- 1 ÷ a. -/
def fnRcp (f : Fmt) (a : Nat) : Nat × Nat := fDiv f 0 (fOne f) a

/-- 1 ÷ √a. -/
def fnRsq (f : Fmt) (a : Nat) : Nat × Nat :=
  match fDec f a with
  | .nan s => (fNan f, if s then fNV else 0)
  | .inf n => if n then (fNan f, fNV) else (fZero f false, 0)
  | .fin neg m e =>
    if m = 0 then (fInf f neg, fDZ)
    else if neg then (fNan f, fNV)
    else
      let m' := if e % 2 = 0 then m else 2 * m
      let h := e / 2
      let q := isqrt (2 ^ (2 * fixP) / m')
      roundF f 0 false (2 * q + (if q * q * m' = 2 ^ (2 * fixP) then 0 else 1)) (-h - fixP - 1)

/-- 2^a, the exponent clamped where every result overflows or is lost. -/
def fnExp2 (f : Fmt) (a : Nat) : Nat × Nat :=
  match fDec f a with
  | .nan s => (fNan f, if s then fNV else 0)
  | .inf n => (if n then fZero f false else fInf f false, 0)
  | .fin neg m e =>
    if atLeast m e 9 then roundF f 0 false 1 (if neg then -512 else 512)
    else if decide (0 ≤ e) || decide (m % 2 ^ (-e).toNat = 0) then
      let k : Int := if 0 ≤ e then m * 2 ^ e.toNat else m / 2 ^ (-e).toNat
      roundF f 0 false 1 (if neg then -k else k)
    else
      let x : Int := if neg then -(fixOf m e : Int) else fixOf m e
      let n := x / (2 ^ fixP : Nat)
      let fr := (x - n * (2 ^ fixP : Nat)).toNat
      roundFix f false (expUnit (fr * lnTwo / 2 ^ fixP)) n

/-- e^a. -/
def fnExp (f : Fmt) (a : Nat) : Nat × Nat :=
  match fDec f a with
  | .nan s => (fNan f, if s then fNV else 0)
  | .inf n => (if n then fZero f false else fInf f false, 0)
  | .fin neg m e =>
    if m = 0 then (fOne f, 0)
    else if atLeast m e 9 then roundF f 0 false 1 (if neg then -512 else 512)
    else
      let v := expFix (if neg then -(fixOf m e : Int) else fixOf m e)
      roundFix f false v.1 v.2

/-- log2 a. -/
def fnLog2 (f : Fmt) (a : Nat) : Nat × Nat :=
  match fDec f a with
  | .nan s => (fNan f, if s then fNV else 0)
  | .inf n => if n then (fNan f, fNV) else (fInf f false, 0)
  | .fin neg m e =>
    if m = 0 then (fInf f true, fDZ)
    else if neg then (fNan f, fNV)
    else
      let k : Int := m.log2 + e
      if m = 2 ^ m.log2 then roundF f 0 (decide (k < 0)) k.natAbs 0
      else
        let x := m * 2 ^ (fixP - m.log2)
        let v : Int := k * (2 ^ fixP : Nat) + (lnFix x * 2 ^ fixP / lnTwo : Nat)
        if v < 0 then roundFix f true (v.natAbs - 1) 0 else roundFix f false v.toNat 0

/-- A value just below v × 2^e. -/
def justBelow (v : Nat) (e : Int) : Nat × Int := (v * 2 ^ 300 - 1, e - 300)

/-- tanh a. Below 2^−40 the result lies just below a in magnitude. -/
def fnTanh (f : Fmt) (a : Nat) : Nat × Nat :=
  match fDec f a with
  | .nan s => (fNan f, if s then fNV else 0)
  | .inf n => ((if n then fZero f true else 0) + fOne f, 0)
  | .fin neg m e =>
    if m = 0 then (fZero f neg, 0)
    else if !atLeast m e (-40) then
      let b := justBelow m e
      roundF f 0 neg b.1 b.2
    else if atLeast m e 8 then
      let b := justBelow 1 0
      roundF f 0 neg b.1 b.2
    else
      let x := expFix (2 * (fixOf m e : Int))
      let big := x.1 * 2 ^ x.2.toNat
      let q := divJam (big - 2 ^ fixP) (big + 2 ^ fixP) 0
      roundF f 0 neg (2 * q.1 + 1) (q.2 - 1)

/-- 1 ÷ (1 + e^−a). -/
def fnSig (f : Fmt) (a : Nat) : Nat × Nat :=
  match fDec f a with
  | .nan s => (fNan f, if s then fNV else 0)
  | .inf n => (if n then fZero f false else fOne f, 0)
  | .fin neg m e =>
    if m = 0 then roundF f 0 false 1 (-1)
    else if atLeast m e 8 then
      let b := justBelow 1 0
      if neg then roundF f 0 false 1 (-369) else roundF f 0 false b.1 b.2
    else
      -- for a below 0 the value is 1 ÷ (1 + e^|a|), else e^a ÷ (1 + e^a)
      let x := expFix (fixOf m e)
      let big := x.1 * 2 ^ x.2.toNat
      let q := divJam (if neg then 2 ^ fixP else big) (big + 2 ^ fixP) 0
      roundF f 0 false (2 * q.1 + 1) (q.2 - 1)

/-- A function instruction. -/
def vecFn (op : Fmt → Nat → Nat × Nat) (f : H2) (s : State) : Res := vecFloat1 (fun t _ => op t) f s

/-- `vfrcp`. -/
def execVfrcp (f : H2) (s : State) : Res := vecFn fnRcp f s
/-- `vfrsq`. -/
def execVfrsq (f : H2) (s : State) : Res := vecFn fnRsq f s
/-- `vfexp2`. -/
def execVfexp2 (f : H2) (s : State) : Res := vecFn fnExp2 f s
/-- `vflog2`. -/
def execVflog2 (f : H2) (s : State) : Res := vecFn fnLog2 f s
/-- `vfexp`. -/
def execVfexp (f : H2) (s : State) : Res := vecFn fnExp f s
/-- `vftanh`. -/
def execVftanh (f : H2) (s : State) : Res := vecFn fnTanh f s
/-- `vfsig`. -/
def execVfsig (f : H2) (s : State) : Res := vecFn fnSig f s

end Sys2Proof.Machine
end

