-- ==== Sys2Proof/Machine/Links.lean ====
section
/-! DEFINITION. The links of the fabric (R368 to R388) and the common tick (R44, R45, R394, R490). -/
namespace Sys2Proof.Machine

/-! ## Training (R369 to R371) -/

/-- Wavelengths of a destination that are divided among partitions (R371). -/
def dividedAmong (s : State) (d : Nat) : Nat := 48 - 8 - (s.link d).tr

/-- The allotments of partitions p, p + 1, … when `left` wavelengths remain: the manager's wishes as far as they reach,
and what is left to the last. -/
def allotFrom (d p left : Nat) : Nat → List Nat
  | 0 => []
  | 1 => [left]
  | n + 1 => let a := min left (Config.allotment p d); a :: allotFrom d (p + 1) (left - a) n

/-- Set the allotments and shares of a destination (R371). -/
def allotLink (s : State) (d : Nat) : State :=
  let l := allotFrom d 0 (dividedAmong s d) 64
  (List.range 64).foldl (fun s p => s.setPart p fun x =>
    { x with allot := x.allot.setIfInBounds d (l.getD p 0), share := x.share.setIfInBounds d (l.getD p 0) }) s

/-- DIAM with every link up (R369). -/
def diamOf (s : State) : Nat := s.e1 / 2 + s.e2 / 2 + 2

/-- Put a value into `tgb`.DIAM. -/
def setDiam (s : State) (n : Nat) : State :=
  { s with tgb := (s.tgb &&& ~~~0xFF000000#64) ||| wd (n % 256 * 2 ^ 24) }

/-- Whether a link's two ends agree, and the destination carries anything (R369). -/
def trainOk (s : State) (d peer e1 e2 : Nat) : Bool :=
  decide (d < 10) && peer == peerOf s.dev s.e1 s.e2 d && e1 == s.e1 && e2 == s.e2 &&
    !((d == 6 || d == 7) && s.e1 == 1) && !((d == 8 || d == 9) && s.e2 == 1)

/-- W(d) at training: 48 (R370), with what leases that are granted and not over have moved. -/
def trainedW (s : State) (d : Nat) : Nat :=
  let n := fun (p : Lease → Bool) => (s.leases.filter fun l => (l.state == 2 || l.state == 3) && p l).foldl (fun n l => n + l.kGot) 0
  48 + n (fun l => l.taker == d) - n fun l => l.giver == d

/-- A link comes up: its sequence numbers start anew, both directions are tuned, packets find their ways anew, and a time
flit is due (R370, R381, R388, R394). -/
def linkUp (s : State) (d peer rtt : Nat) : State :=
  let first := (s.link d).rtt == 0
  let s := s.setLink d fun l =>
    { l with peer := peer, up := true, rtt := max 1 rtt, w := trainedW s d, inbound := 48 - l.resvRx, txSeq := 0, rxSeq := 0,
             nakSent := false, lastAck := s.now, replays := 0, lastTx := s.now }
  let s := if first then allotLink s d else s
  newRoutes (pump { s with inputs := s.inputs ++ [.timeFlitExchange] } d 512)

/-- Whether the device is in its bring-up (R491). -/
def bringUp (s : State) : Bool :=
  match s.boot with
  | .booting _ => true
  | _ => false

/-- Whether no link has trained since the reset. -/
def untrained (s : State) : Bool := (List.range 10).all fun d => (s.link d).rtt == 0

/-- What the manager writes before the training: coordinate and extents before the first one of the bring-up (R369), TR before
a link's first (R371), the inbound cap (R375), and the one destination at which it keeps wavelengths (R395). -/
def applySetup (s : State) (d : Nat) (x : LinkSetup) : State :=
  let s := match x.place with
    | some p => if bringUp s && untrained s then { s with dev := p.1 % 2 ^ 16, e1 := max 1 (min 64 p.2.1), e2 := max 1 (min 64 p.2.2) } else s
    | none => s
  let s := if x.keep then { s with links := s.links.map fun l => { l with kept := 0 } } else s
  s.setLink d fun l => { l with
    tr := if l.rtt = 0 then min 40 (x.tr.getD l.tr) else l.tr, cap := x.cap.getD l.cap, kept := if x.keep then 24 else l.kept }

/-- Load the reference's tick, once, during bring-up (R44). -/
def loadTick (s : State) (tick : Option Nat) : State :=
  match tick with
  | some t => if bringUp s && !s.tickSet then { s with tick := BitVec.ofNat 64 t, tickSet := true } else s
  | none => s

/-- LINK_TRAINING: the ends exchange coordinate and extents; at bring-up the tick may be loaded (R44). Of another device's
link the device manager learns that it works. -/
def execLinkTraining (d peer e1 e2 rtt : Nat) (set : LinkSetup) (s : State) : Res :=
  match set.far with
  | some a => .next (newRoutes { s with farDown := s.farDown.filter fun x => x != (a, d) })
  | none =>
    let s := applySetup s d set
    if !trainOk s d peer e1 e2 then .next s else
    .next (setDiam (linkUp (loadTick s set.tick) d peer rtt) (diamOf s))

/-! ## A link goes down (R376, R382, R387) -/

/-- A link goes down: leases whose taker it is end, and its flits take other routes, in the rings that they had come along (R386);
those that were on it go as transit flits, which no counter counts again (R467). -/
def dropLink (s : State) (d : Nat) : State :=
  let l := s.link d
  if !l.up then s else
  let s := s.setLink d fun l => { l with up := false, retry := [], queue := [], escQ := [], replays := 0, clocks := [] }
  let s := (s.leases.filter fun x => x.taker == d && x.state != 4).foldl (fun s x => endLease s x.part x.id 5) s
  let back := fun (q : Nat × Flit) => (q.1, backFrom s d q.2)
  newRoutes { s with unrouted := s.unrouted ++ (l.retry.map (fun f => (transitKey, f)) ++ l.escQ ++ l.queue).map back }

/-- LINK_DOWN: of this device, or of another one as the device manager learns. -/
def execLinkDown (l : LinkAt) (s : State) : Res :=
  match l with
  | .here d => .next (dropLink s d)
  | .far a d => .next (newRoutes { s with farDown := (a, d) :: s.farDown.filter fun x => x != (a, d) })

/-- One more replay of what is not acknowledged, with the present ACK; after sixteen in vain the link goes down (R382). -/
def replayLink (s : State) (d : Nat) : State :=
  if 16 ≤ (s.link d).replays then dropLink s d
  else
    let l := s.link d
    let again := l.retry.map fun f => sealFlit l f.seq false f
    { (s.setLink d fun l => { l with replays := l.replays + 1, lastAck := s.now, lastTx := s.now, retry := again }) with
      out := s.out ++ again.map (Out.flit d) }

/-- Whether a link's oldest flit has waited 64 ticks for a new acknowledgement. -/
def replayDue (s : State) (d : Nat) : Bool :=
  (s.link d).up && !(s.link d).retry.isEmpty && decide ((s.link d).lastAck + 64 ≤ s.now)

/-- REPLAY_TIMEOUT. -/
def execReplayTimeout (d : Nat) (s : State) : Res := .next (if replayDue s d then replayLink s d else s)

/-- Whether a link has sent nothing for 4 ticks (R381). -/
def idleDue (s : State) (d : Nat) : Bool := (s.link d).up && decide ((s.link d).lastTx + 4 ≤ s.now)

/-- IDLE_FLIT: an idle flit carries the ACK. -/
def execIdleFlit (d : Nat) (s : State) : Res := .next (if idleDue s d then sendIdle s d false else s)

/-! ## The escape channel (R388) -/

/-- A queue whose head has waited 512 ticks, and is of no meeting flits and not of the escape channel. -/
def stuckIn (s : State) (l : List QClock) : Option Nat :=
  (l.find? fun c => c.no != escapeNo && c.head.cls != 2 && decide (c.headAt + 512 ≤ s.now)).map QClock.no

/-- The number that stands for the packets without a route where a destination is named. -/
def noLink : Nat := 10

/-- Such a queue of a link, or of the packets without a route. -/
def stuckQueue (s : State) (d : Nat) : Option Nat := stuckIn s (if d = noLink then s.strayClocks else (s.link d).clocks)

/-- Whether a packet is to be moved. -/
def escapeDue (s : State) (d : Nat) : Bool := (stuckQueue s d).isSome

/-- ESCAPE_MOVE. -/
def execEscapeMove (d : Nat) (s : State) : Res :=
  let l := if d = noLink then s.unrouted.filter fun q => !q.2.esc else (s.link d).queue
  .next (match (stuckQueue s d).bind fun no => l.find? fun q => queueNo q == no with
    | none => s
    | some q =>
      escapeFlit (if d = noLink then s.withStrays (s.unrouted.erase q)
        else pump (s.setLink d fun l => { l with queue := l.queue.erase q }) d 0) q.1 q.2)

/-! ## Receiving (R380 to R382) -/

/-- Drop what an acknowledgement covers: the flits up to its SEQ. -/
def ackedRest (ack : BitVec 12) : List Flit → Option (List Flit)
  | [] => none
  | f :: t => if f.seq = ack then some t else ackedRest ack t

/-- Take the ACK of a flit: new acknowledgements make room. -/
def takeAck (s : State) (d : Nat) (f : Flit) : State :=
  let s := match ackedRest f.ack (s.link d).retry with
    | some rest => s.setLink d fun l => { l with retry := rest, lastAck := s.now, replays := 0 }
    | none => s
  pump (if f.nak then replayLink s d else s) d 512

/-- A time flit: the parent answers its child's with its receive and send ticks; an answer gives an offset, and the round
trip as the engine measures it (R373), which the flit does not carry: a free value. T1, T2 and T3 lie in OPD in this order,
OP = 1 in an answer (log 25). -/
def takeTime (s : State) (d : Nat) (f : Flit) : State :=
  let t := fun i => nbits f.opd.toNat (64 * i) 64
  if f.op = 1 then
    let rtt := s.freeVal.toNat % 2 ^ 16
    { s.useFree 1 with inputs := s.inputs ++ [.timeFlitAnswer (t 0) (t 1) { t3 := t 2, d := d, rtt := some rtt }] }
  else sendControl s d { blankFlit with kind := 3, op := 1, opd := BitVec.ofNat 192 (t 0 + s.now * 2 ^ 64 + s.now * 2 ^ 128) }

/-- Lease control of the link's peer: OP 0 release notice, 1 request, 2 grant, 3 end of a lease at its taker's peer, 4 channels that
come back at its giver's; the count in OPD (log 25). A grant that no lease waits for any more is given back. -/
def takeLease (s : State) (d : Nat) (f : Flit) : State :=
  let k := f.opd.toNat % 256
  match f.op.toNat with
  | 0 => { s with inputs := s.inputs ++ [.leaseReleaseNotice d k] }
  | 1 => { s with inputs := s.inputs ++ [.leaseRequestAtPeer d k] }
  | 2 =>
    match s.leases.find? fun l => l.state == 1 && l.taker == d with
    | some l => { s with inputs := s.inputs ++ [.leaseGrant l.part l.id k] }
    | none => if k = 0 then s else leaseOut s d 3 k
  | 3 => s.setLink d fun l => { l with inbound := l.inbound - min k l.inbound }
  | _ => s.setLink d fun l => { l with inbound := l.inbound + min k l.resvRx, resvRx := l.resvRx - min k l.resvRx }

/-- What an accepted flit does here or on its way. What a meeting-class flit asks or answers reaches the home, or its asker,
as a step of its own (R383, log 25), but for a busy answer. -/
def passFlit (s : State) (d : Nat) (f : Flit) : State :=
  if 8 ≤ f.kind.toNat || f.rsv ≠ 0 then s.setLink d fun l => { l with discards := l.discards + 1 }
  else if f.ddev.toNat ≠ s.dev then (if f.esc then escapeFlit s transitKey f else forwardFlit s d f)
  else if f.cls = 2 then
    (if f.kind = 2 && f.op = 1 then { s with inputs := s.inputs ++ [.fabricAnswer f] } else s)
  else match f.kind.toNat with
    | 1 => { s with inputs := s.inputs ++ [.fabricRequest f] }
    | 2 => { s with inputs := s.inputs ++ [.fabricAnswer f] }
    | 3 => takeTime s d f
    | 4 => takeLease s d f
    | 5 => takeVec s f
    | 6 => { s with inputs := s.inputs ++ [.routingItemDelivery f] }
    | 7 => { s with inputs := s.inputs ++ [.fabricRequest f] }
    | _ => s

/-- A flit that is not taken: one NAK goes back for each gap (R382). -/
def sendNak (s : State) (d : Nat) : State :=
  if (s.link d).nakSent then s else sendIdle (s.setLink d fun l => { l with nakSent := true }) d true

/-- FLIT_RECEIVED. An idle flit takes no place in the sequence (log 25). -/
def execFlitReceived (d : Nat) (f : Flit) (s : State) : Res :=
  if !(s.link d).up then .next s
  else if f.crc ≠ flitCrc f then .next (sendNak s d)
  else
    let s := takeAck s d f
    if f.kind = 0 && f.rsv = 0 then .next (s.meter f.dpart.toNat (20 + d) 576)
    else if f.seq ≠ (s.link d).rxSeq then .next (sendNak s d)
    else
      let s := s.setLink d fun l => { l with rxSeq := l.rxSeq + 1, nakSent := false }
      let s := if f.ddev.toNat = s.dev then s.meter f.dpart.toNat (20 + d) 576 else s
      .next (passFlit s d f)

/-! ## The common tick (R44, R45, R394, R490) -/

/-- The sign of an offset: what one correction changes (R44). -/
def oneTick (x : Int) : Int := if 0 < x then 1 else if x < 0 then -1 else 0

/-- Correct the tick by at most one at the next increment (R44); in the last cycle of a tick, whose give-ups may be over, at the
one after it. -/
def State.correct (s : State) (x : Int) : State := if lastCycle s then { s with adjNext := x } else { s with tickAdj := x }

/-- Whether a destination leads to another device: those of a dimension of extent 1 carry nothing (R369). -/
def isLink (s : State) (d : Nat) : Bool := peerOf s.dev s.e1 s.e2 d != s.dev

/-- Whether a link of the domain is down, as far as this device knows: one that has never trained is. -/
def anyDown (s : State) : Bool :=
  !s.farDown.isEmpty || (List.range 10).any fun d => isLink s d && !(s.link d).up

/-- The hops of the route from one device to another (R385 to R387), at most n; none while there is no working route. -/
def routeLen (s : State) (a to_ : Nat) : Nat → Option Nat
  | 0 => none
  | n + 1 =>
    if a = to_ then some 0
    else (routeFrom s a to_).bind fun d => (routeLen s (peerOf a s.e1 s.e2 d) to_ n).map fun k => k + 1

/-- The devices of the domain. -/
def domainDevs (s : State) : List Nat :=
  (List.range 4).flatMap fun m1 => (List.range 4).flatMap fun m2 =>
    (List.range s.e1).flatMap fun t1 => (List.range s.e2).map fun t2 => packDev m1 m2 t1 t2

/-- The longest route over the working links (R53). No route is longer than 512 hops. -/
def longestRoute (s : State) : Nat :=
  (domainDevs s).foldl (fun n a => (domainDevs s).foldl (fun n b => max n ((routeLen s a b 512).getD 0)) n) 0

/-- A time flit leaves for the parent in the escape tree; the root sends none (R394). -/
def sendTime (s : State) : State :=
  match treeUp s with
  | some d => sendControl s d { blankFlit with kind := 3, opd := BitVec.ofNat 192 s.now }
  | none => s

/-- TIME_FLIT_EXCHANGE: a time flit leaves, DIAM is computed again (R53, R369), and one tick of the pulse's offset is
corrected (R490). -/
def execTimeFlitExchange (s : State) : Res :=
  let o := s.ppsOff
  let up := (List.range 10).any fun d => (s.link d).up
  let s := if anyDown s then setDiam s (longestRoute s) else if up then setDiam s (diamOf s) else s
  .next { (if up then sendTime s else s).correct (oneTick o) with ppsOff := o - oneTick o }

/-- The offset of R394. -/
def timeOffset (t1 t2 t3 t4 : Int) : Int := ((t2 - t1) - (t4 - t3)).tdiv 2

/-- The round trip of a link as a time-flit exchange measures it, in nanoseconds (R373). -/
def measureRtt (s : State) (d : Nat) (rtt : Option Nat) : State :=
  match rtt with
  | some r => if (s.link d).up then s.setLink d fun l => { l with rtt := max 1 r } else s
  | none => s

/-- TIME_FLIT_ANSWER. -/
def execTimeFlitAnswer (t1 t2 : Nat) (reply : TimeReply) (s : State) : Res :=
  let o := timeOffset t1 t2 reply.t3 s.now
  let good := decide (o.natAbs ≤ 1)
  let n := if good then min 2 (s.goodTime + 1) else 0
  let tgb := if !good then s.tgb ||| 0x100000000 else if n = 2 then s.tgb &&& ~~~0x100000000#64 else s.tgb
  .next { (measureRtt s reply.d reply.rtt).correct (oneTick o) with goodTime := n, tgb := tgb }

/-- The offset of a pulse from the nearest multiple of 10^8 ticks. -/
def ppsOffset (now : Nat) : Int :=
  let r := now % 100000000
  if r < 50000000 then -(r : Int) else 100000000 - (r : Int)

/-- PPS_PULSE. -/
def execPpsPulse (s : State) : Res :=
  .next { s with pps := s.pps + 1, ppsOff := if s.refPresent then ppsOffset s.now else s.ppsOff }

/-- REFERENCE_LOST and REFERENCE_ACQUIRED. -/
def execReferenceLost (s : State) : Res := .next { s with refPresent := false, ppsOff := 0 }
def execReferenceAcquired (s : State) : Res := .next { s with refPresent := true }

end Sys2Proof.Machine
end

