-- ==== Sys2Proof/Machine/Host.lean ====
section
/-! DEFINITION. What the host, the module and the device manager do to the device: the notify window and memory windows
(R42, R428, R485 to R488), measurements (R472 to R474), life cycle, resets and bring-up (R475, R476, R491, R492), heat
(R494), table invalidations (R230, R231) and migration (R233). -/
namespace Sys2Proof.Machine

/-! ## The host port (R428, R478, R485 to R488, R492) -/

/-- Whether the bring-up is done, so that virtual functions answer (R492). -/
def running (s : State) : Bool := s.boot == .running

/-- Whether a partition's stop moment has passed or it has stopped (R428). -/
def cutOff (s : State) (p : Nat) : Bool :=
  (s.part p).st == .stopped || (s.part p).st == .scrub || stopMoment s p

/-- Whether a host request is refused for a partition's stop: one that came before the stop moment is still performed (R428). -/
def hostCut (s : State) (p : Nat) (i : Instr) : Bool := cutOff s p && !isDue s p i

/-- A notify of partition p (R42, R43, R487): discarded once it stops (R428). -/
def takeNotify (s : State) (p n : Nat) (ro : Bool) : State :=
  let s := s.setPart p fun x => { x with ntf := x.ntf + 1, ronc := if ro then x.ronc + 1 else x.ronc }
  if !partLive s p then s
  else if (bufOf s p n).any Buf.host then notifyQueue s p n else s

/-- Whether an earlier posted write of the host through a function still waits: a notify without relaxed ordering does not
pass it, and neither does a read (R488). -/
def hostPosted (s : State) (vf : Nat) : Bool :=
  s.later.any fun i => match i with
    | .hostMemoryRequest v _ wr _ _ => v == vf && wr
    | _ => false

/-- NOTIFY. -/
def execNotify (vf : Nat) (val : BitVec 32) (ro : Bool) (s : State) : Res :=
  match vfPart vf with
  | none => .next s
  | some p =>
    if !running s || ((s.part p).st == .free && p != 0) then .next s
    else if (s.part p).ckPhase ≠ 0 || (!ro && hostPosted s vf) then .next { s with later := s.later ++ [.notify vf val ro] }
    else .next (takeNotify s p (val.toNat % 256) ro)

/-- Complete a host request: with data, or as Unsupported Request. -/
def complete (s : State) (data : Option (List Byte)) : State := { s with out := s.out ++ [.completion data] }

/-- The notify window of a function, named by addresses from 2^52 on (log 26): the status register of R487, the notify
word, and zeros. -/
def windowAccess (s : State) (p off : Nat) (wr : Bool) (data : List Byte) (len : Nat) : State :=
  if wr then (if off = 0 && len = 4 then takeNotify s p (leNat (data.take 1)) false else s)
  else if off = 8 && len = 8 then
    complete s (some (leBytes 4 (s.part p).ronc.toNat ++ leBytes 4 (s.part p).ntf.toNat))
  else complete s (some (List.replicate len 0))

/-- Whether a host access lies in a partition's granules. -/
def hostReach (s : State) (p addr len : Nat) : Bool := inGranules (s.part p).ranges addr len

/-- Whether an earlier write of the host to a granule that n bytes touch still waits (R234). -/
def hostWaiting (s : State) (addr n : Nat) : Bool :=
  s.later.any fun i => match i with
    | .hostMemoryRequest _ a wr _ k => wr && decide (a / 256 ≤ (addr + n - 1) / 256) && decide (addr / 256 ≤ (a + k - 1) / 256)
    | _ => false

/-- The pieces of a host write: one whose block is in SWITCH, or that must follow such a one, is tried again. -/
def hostWrite (s : State) (vf p : Nat) (data : List Byte) : List (Nat × Nat) → State
  | [] => s
  | (a, n) :: t =>
    let bs := data.take n
    let s := if switching s a || hostWaiting s a n then { s with later := s.later ++ [.hostMemoryRequest vf a true bs n] }
      else watchWrite (pokePhys s a bs) a n (watchWho s.dev p 0 4)
    hostWrite s vf p (data.drop n) t

/-- A host access to a partition's memory through its function. A read waits for earlier writes to its granules (R234) and for
those of its function (R488). -/
def hostAccessMem (s : State) (vf p addr : Nat) (wr : Bool) (data : List Byte) (len : Nat) : State :=
  let ps := pieces addr len (len / 128 + 2)
  let i := Instr.hostMemoryRequest vf addr wr data len
  if hostCut s p i || !hostReach s p addr len then (if wr then s else complete s none) else
  let s := takeDue s p i
  if wr then hostWrite s vf p (padTo len data) ps
  else if hostWaiting s addr len || hostPosted s vf then { s with later := s.later ++ [.hostMemoryRequest vf addr false [] len] }
  else if ps.any fun x => poisoned s (hbmKey s x.1) x.2 then complete s none
  else ps.foldl (fun s x => cacheRead s (engineAgent p) (homePlace s x.1 1) x.2) (complete s (some (ps.flatMap fun x => peek s x.1 x.2)))

/-- HOST_MEMORY_REQUEST. Addresses of host memory are the host's own (log 26). -/
def execHostMemoryRequest (vf addr : Nat) (wr : Bool) (data : List Byte) (len : Nat) (s : State) : Res :=
  if isHost addr && isHost (addr + len - 1) then
    .next (if wr then { s with mem := setCells s.mem addr (padTo len data) } else s)
  else match vfPart vf with
  | none => .next s
  | some p =>
    if !running s then .next s
    else if (s.part p).st == .free && p != 0 then .next (if wr then s else complete s none)
    else if (s.part p).ckPhase ≠ 0 then
      .next { s with later := s.later ++ [.hostMemoryRequest vf addr wr data len] }
    else if 2 ^ 52 ≤ addr && hostPosted s vf then .next { s with later := s.later ++ [.hostMemoryRequest vf addr wr data len] }
    else if 2 ^ 52 ≤ addr then
      let i := Instr.hostMemoryRequest vf addr wr data len
      .next (if hostCut s p i && !wr then complete s none else windowAccess (takeDue s p i) p (addr - 2 ^ 52) wr data len)
    else .next (hostAccessMem s vf p addr wr data len)

/-- TDISP_REQUEST (R485): LOCK from CONFIG_UNLOCKED, START from CONFIG_LOCKED, and STOP to CONFIG_UNLOCKED. -/
def execTdispRequest (vf target : Nat) (s : State) : Res :=
  match vfPart vf with
  | none => .next s
  | some p =>
    let t := (s.part p).tdisp
    let ok := (target == 1 && t == 0) || (target == 2 && t == 1) || target == 0
    .next (if ok then s.setPart p fun x => { x with tdisp := target } else s)

/-! ## Measurements (R472 to R474) -/

/-- The value at an index of R473. The encoding of index 5 is open: the state, and whether debug is open (log 26). -/
def measurement (s : State) (i : Nat) : Option (List Byte) :=
  if i = 1 then some (digestBytes Config.romDigest)
  else if 2 ≤ i ∧ i ≤ 4 then some (digestBytes (s.meas[i - 1]?.getD 0))
  else if i = 5 then some (leBytes 1 s.life ++ leBytes 1 (if s.life = 3 then 1 else 0))
  else if 16 ≤ i ∧ i < 80 then
    let p := s.part (i - 16)
    some (p.record ++ digestBytes p.chainBefore ++ digestBytes p.chain)
  else none

/-- The DMTF value type of an index (R473). -/
def measurementType (i : Nat) : DmtfType :=
  if i = 1 then .immutableRom else if i ≤ 4 then .mutableFirmware else if i = 5 then .hardwareConfiguration else .rawBitStream

/-- Whether a requester may read an index (R474). -/
def mayMeasure (vf : Option Nat) (i : Nat) : Bool :=
  match vf with
  | none => true
  | some v => (decide (1 ≤ i) && decide (i ≤ 5)) || (vfPart v).any fun p => i == 16 + p

/-- The transcript that an answer is signed over: nonce, index and value. -/
def transcript (idx nonce : Nat) (v : Option (List Byte)) : Nat :=
  leNat (leBytes 32 nonce ++ leBytes 1 idx ++ (v.getD []) ++ leBytes 1 v.isSome.toNat)

/-- SPDM_GET_MEASUREMENTS. -/
def execSpdmGetMeasurements (vf : Option Nat) (idx nonce : Nat) (s : State) : Res :=
  let v := if mayMeasure vf idx then measurement s idx else none
  .next { s with out := s.out ++ [.spdm idx v (Config.attestation (transcript idx nonce v)) (v.map fun _ => measurementType idx)] }

/-! ## Resets, wipes and bring-up (R475, R476, R491) -/

/-- The wiped device (R476): only what lies outside it, or is fused or strapped, stands. -/
def wipe (s : State) : State :=
  { State.reset with
    dev := s.dev, e1 := s.e1, e2 := s.e2, refPresent := s.refPresent, bootCount := s.bootCount + 1, life := s.life
    mem := s.mem.filter fun c => isHost c.1
    free := s.free, out := s.out, inputs := s.inputs, lat := s.lat, lag := s.lag, tree := s.tree + 1 }

/-- DEVICE_RESET. -/
def execDeviceReset (s : State) : Res := .next (wipe s)

/-- The moves of R475: 0 manufacturing, 1 provisioned, 2 deployed, 3 returned. -/
def lifeMove (src dst : Nat) : Bool :=
  (src == 0 && dst == 1) || (src == 1 && dst == 2) || (src == 2 && dst == 3) || (src == 3 && dst == 1)

/-- LIFE_CYCLE_CHANGE: a wipe, but the measurement registers and the tick stand (R44, R472). -/
def execLifeCycleChange (signed : Bool) (target : Nat) (s : State) : Res :=
  .next (if signed && lifeMove s.life target then { wipe s with life := target, meas := s.meas, tick := s.tick, tickSet := s.tickSet, metered := s.metered, boot := s.boot } else s)

/-- Measure the next stage (R472). -/
def measureStage (s : State) (n : Nat) : State :=
  let d := digestBytes (Config.bootDigest s.bootCount.toNat n)
  { s with meas := s.meas.setIfInBounds n (digestVal (sha384 (digestBytes (s.meas[n]?.getD 0) ++ d))) }

/-- One row of R491: base-die firmware, device-manager firmware after the wipe, optical-engine firmware, and then
partition 0 runs. A stage that does not verify outside manufacturing leaves the device in the ROM. -/
def bootStep (s : State) (n : Nat) : State :=
  if 3 ≤ n then { s with boot := .running }
  else
    let s := measureStage s (n + 1)
    { s with boot := if s.life = 0 || Config.bootVerified s.bootCount.toNat n then .booting (n + 1) else .romOnly }

/-! ## Heat (R494) -/

/-- THERMAL_THROTTLE: the junction as read. -/
def execThermalThrottle (temp : Nat) (s : State) : Res :=
  .next { s with throttle :=
    if temp < 100 then s.throttle - 1 else if 105 ≤ temp || 0 < s.throttle then min 7 (s.throttle + 1) else s.throttle }

/-- THERMAL_SHUTDOWN and COOLING_RESTORED. -/
def execThermalShutdown (s : State) : Res := .next { wipe s with boot := .thermalHold }
def execCoolingRestored (s : State) : Res := .next (if s.boot = .thermalHold then { s with boot := .booting 0 } else s)

/-! ## Invalidations of table lines (R230, R231) -/

/-- SHOOTDOWN_ACK. -/
def execShootdownAck (holder : Holder) (line : Nat) (s : State) : Res :=
  .next (if s.shoot.any fun x => x.holder == holder && x.line == line then ackShoot s holder line else s)

/-! ## Migration (R233) -/

/-- Copy a 64 KiB block of storage with its poison. -/
def copyBlock (s : State) (a b : Nat) : State :=
  let cells := s.mem.filter fun c => c.1 / 65536 == a
  let m := cells.foldl (fun m c => setCell unwritten (b * 65536 + c.1 % 65536) c.2 m) (clearKeys s.mem (b * 65536) 65536)
  let bad := (s.poison.filter fun u => u / 1024 == a).map fun u => b * 1024 + u % 1024
  { s with mem := m, poison := (s.poison.filter fun u => u / 1024 != b) ++ bad }

/-- The storage of a block. -/
def storageOf (s : State) (b : Nat) : Nat := hbmKey s (b * 65536) / 65536

/-- Whether a block is a spare: no partition's, no storage of another, and in no migration. -/
def spareBlock (s : State) (b : Nat) : Bool :=
  decide (b < 2 ^ 23) && !((List.range 64).any fun p => (s.part p).ranges.any fun r => decide (r.1 ≤ b / 32) && decide (b / 32 < r.1 + r.2)) &&
  !(s.redir.any fun r => r.1 == b || r.2 == b) && !(s.migrs.any fun m => m.src == b || m.dst == b)

/-- MIGRATION_START: COPY begins, and the engine makes its first pass. -/
def execMigrationStart (src dst : Nat) (s : State) : Res :=
  if src = dst || !decide (src < 2 ^ 23) || !spareBlock s dst || s.migrs.any fun m => m.src == src || m.dst == src then .next s
  else
    let s := copyBlock s (storageOf s src) dst
    .next { s with migrs := s.migrs ++ [{ src := src, dst := dst, dirty := [], switching := false }] }

/-- MIGRATION_SWITCH: with at most 16 dirty granules the block enters SWITCH; with more the engine copies them again. -/
def execMigrationSwitch (src : Nat) (s : State) : Res :=
  match s.migrs.find? fun m => m.src == src with
  | none => .next s
  | some m =>
    if m.switching then .next s
    else if m.dirty.length ≤ 16 then
      .next { s with migrs := updFirst (fun x => x.src == src) (fun x => { x with switching := true, since := s.now }) s.migrs }
    else
      let s := copyBlock s (storageOf s src) m.dst
      .next { s with migrs := updFirst (fun x => x.src == src) (fun x => { x with dirty := [] }) s.migrs }

/-- Whether a frame belongs to a partition that is STOPPED or in SCRUB, whose granules no write reaches (R436). -/
def closedFrame (s : State) (pa : Nat) : Bool :=
  let st := (s.part (ownerOf s (pa / 2 ^ 21))).st
  st == .stopped || st == .scrub

/-- MIGRATION_DONE: the last granules are copied and the redirection is installed; the hardware's own writes that waited
are performed at the destination. -/
def execMigrationDone (src : Nat) (s : State) : Res :=
  match s.migrs.find? fun m => m.src == src with
  | none => .next s
  | some m =>
    if !m.switching then .next s else
    let s := copyBlock s (storageOf s src) m.dst
    let s := { s with migrs := s.migrs.filter fun x => x.src != src
                      redir := (s.redir.filter fun r => r.1 != src) ++ [(src, m.dst)] }
    .next ((m.waiting.filter fun x => !closedFrame s x.1).foldl (fun s x => pokePhys s x.1 x.2) (writeBack s fun x => m.backs.contains x.sec))

end Sys2Proof.Machine
end

