-- ==== Sys2Proof/Machine/LoadStore.lean ====
section
/-! DEFINITION. Scalar loads, stores and atomics, majors 0x07 to 0x09 (R111 to R120, R177 to R179). -/
namespace Sys2Proof.Machine

/-- The address of a scalar access (R113). -/
def scalarAddr (s : State) (f : H3) : Word := s.reg f.a.toNat + f.imm.signExtend 64

/-- Extend loaded bits by type (R111, R117). -/
def extendTy (ty x : Nat) : Word := if tySigned ty then wrap64 (tyInt ty x) else wd (x % 2 ^ tyWidth ty)

/-- A scalar load (R113, R114). -/
def scalarLoad (f : H3) (s : State) : Res :=
  let ty := f.ty.toNat
  let n := tyWidth ty / 8
  let a := scalarAddr s f
  if a.toNat % n ≠ 0 then .next (trapScalar s 0x04 a)
  else endAccess (loadMem s s.agent a.toNat n) a fun bs s => (s.setReg f.d.toNat (extendTy ty (leNat bs))).adv

/-- A scalar store (R113, R114). -/
def scalarStore (f : H3) (s : State) : Res :=
  let n := tyWidth f.ty.toNat / 8
  let a := scalarAddr s f
  if a.toNat % n ≠ 0 then .next (trapScalar s 0x04 a)
  else endAccess (storeMem s s.agent a.toNat (leBytes n (s.num f.b))) a fun _ s => s.adv

/-- `ld`. -/
def execLd (f : H3) (s : State) : Res := scalarLoad f s
/-- `ld.acq` (R115, R199). -/
def execLdAcq (f : H3) (s : State) : Res :=
  scalarLoad f (acquired s f.sub.toNat (scalarAddr s f).toNat (tyWidth f.ty.toNat / 8))
/-- `st`. -/
def execSt (f : H3) (s : State) : Res := scalarStore f s
/-- `st.rel` (R115, R200). -/
def execStRel (f : H3) (s : State) : Res := releasing s f.sub.toNat (scalarStore f)

/-- The errors that a status form writes in place of a trap (R119). -/
def statusCause (c : Nat) : Bool := c = 0x0D || c = 0x08 || c = 0x0C || c = 0x0E

/-- A scalar atomic (R116 to R120) once its release is met. `cas` takes its expected value from DST. -/
def performAtomic (fn : Nat) (f : H3) (s : State) : Res :=
  let ty := f.ty.toNat
  let a := s.reg f.a.toNat
  let st := f.sub.getLsbD 0
  if a.toNat % (tyWidth ty / 8) ≠ 0 then .next (trapScalar s 0x04 a)
  else match atomicMem s s.agent a.toNat fn ty (s.num f.b) (s.num f.d) with
    | .hold s => .next s
    | .trap c s => if st && statusCause c then writeReg s f.c.toNat (wd c) else .next (trapScalar s c a)
    | .ok m s =>
      let s := s.setReg f.d.toNat (extendTy ty m)
      .next (if st then s.setReg f.c.toNat 0 else s).adv

/-- Whether an ordering of R116 and R249 releases, and whether it acquires. -/
def ordReleases (ord : Nat) : Bool := ord == 2 || ord == 3
def ordAcquires (ord : Nat) : Bool := ord == 1 || ord == 3

/-- A scalar atomic with its ordering (R116, R199, R200). -/
def scalarAtomic (fn : Nat) (f : H3) (s : State) : Res :=
  let ord := nbits f.imm.toNat 3 2
  let scope := f.imm.toNat % 8
  let s := if ordAcquires ord then acquired s scope (s.num f.a) (tyWidth f.ty.toNat / 8) else s
  if ordReleases ord then releasing s scope (performAtomic fn f) else performAtomic fn f s

/-- `amo.add`. -/
def execAmoAdd (f : H3) (s : State) : Res := scalarAtomic 0 f s
/-- `amo.fadd`. -/
def execAmoFadd (f : H3) (s : State) : Res := scalarAtomic 1 f s
/-- `amo.and`. -/
def execAmoAnd (f : H3) (s : State) : Res := scalarAtomic 2 f s
/-- `amo.or`. -/
def execAmoOr (f : H3) (s : State) : Res := scalarAtomic 3 f s
/-- `amo.xor`. -/
def execAmoXor (f : H3) (s : State) : Res := scalarAtomic 4 f s
/-- `amo.min`. -/
def execAmoMin (f : H3) (s : State) : Res := scalarAtomic 5 f s
/-- `amo.max`. -/
def execAmoMax (f : H3) (s : State) : Res := scalarAtomic 6 f s
/-- `amo.swap`. -/
def execAmoSwap (f : H3) (s : State) : Res := scalarAtomic 7 f s
/-- `amo.cas`. -/
def execAmoCas (f : H3) (s : State) : Res := scalarAtomic 8 f s

/-- The fields of a head of major 0x09 that a context stands at, with its FN. -/
def atomicAt (c : Ctx) : Option (Nat × H3) :=
  match c.line with
  | none => none
  | some l =>
    let head := lineHalf l.bytes (headIdx c.pc.toNat)
    let t := lineTail l.bytes (headIdx c.pc.toNat)
    if bitsAt head 8 6 = 0x09 then
      some ((bitsAt t 26 4).toNat,
        { d := bitsAt head 3 5, sub := bitsAt head 0 3, a := bitsAt t 43 5, b := bitsAt t 38 5, mask := bitsAt t 34 4,
          ty := bitsAt t 30 4, c := bitsAt t 21 5, dl := bitsAt t 16 5, imm := bitsAt t 0 16 })
    else none

/-- ATOMIC_ANSWER (R177): the answer of a scalar atomic releases the context that it holds. -/
def execAtomicAnswer (ctx : Nat) (s : State) : Res :=
  match s.ctx? ctx with
  | none => .next s
  | some c =>
    match c.hold.bind Hold.ans, atomicAt c with
    | some _, some (fn, f) =>
      .next (s.asCtx ctx fun s => match scalarAtomic fn f s with | .next s => s | _ => s)
    | _, _ => .next s

end Sys2Proof.Machine
end

