-- ==== Sys2Proof/Machine/Matrix.lean ====
section
/-! DEFINITION. The matrix array: weight load, the unfold unit, `mmla`, accumulator operations and the Spillway's
instructions, majors 0x25 to 0x29 (R265 to R272, R283, R289 to R302, R339 to R352). -/
namespace Sys2Proof.Machine

/-! ## Weight tiles (R265, R340) -/

/-- Rows that a tile of a format is latched by (R341), and how many such units it has. -/
def unitRows (fm : Word) : Nat := if fmtCLS fm = 0 then 32 else 1
def tileUnits (fm : Word) : Nat := 256 / unitRows fm

/-- Where the scale area and the side-list area of a class-0 tile start. -/
def scaleOff (fm : Word) : Nat := 8192 * fmtW fm
def listOff (fm : Word) : Nat := scaleOff fm + if hasScl fm then 2048 else 0

/-- The areas of unit u of a tile: kind (0 codes, 1 scales, 2 lists), offset, bytes. -/
def unitAreas (fm : Word) (u : Nat) : List (Nat × Nat × Nat) :=
  match fmtCLS fm with
  | 0 => (0, 1024 * fmtW fm * u, 1024 * fmtW fm) :: (if hasScl fm then [(1, scaleOff fm + 256 * u, 256)] else []) ++
      if hasEsc fm then [(2, listOff fm + 2048 * u, 2048)] else []
  | 1 => [(0, 32 * fmtW fm * u, 32 * fmtW fm)]
  | _ => [(0, 512 * u, 512)]

/-- A 64-byte line of a tile: its unit, kind and offset. -/
structure TLine where
  unit : Nat
  kind : Nat
  off : Nat
  deriving DecidableEq, Repr

/-- The lines of a tile from unit u0 on, in the order in which they are latched. -/
def tileLines (fm : Word) (u0 : Nat) : List TLine :=
  (span u0 (tileUnits fm)).flatMap fun u => (unitAreas fm u).flatMap fun a =>
    (List.range (a.2.2 / 64)).map fun i => { unit := u, kind := a.1, off := a.2.1 + 64 * i }

/-- The first n lines of 64 bytes. -/
def chunks (bs : List Byte) : Nat → List (List Byte)
  | 0 => []
  | n + 1 => bs.take 64 :: chunks (bs.drop 64) n

/-- The bytes of a kind among lines of units below `hi`. -/
def kindBytes (ls : List TLine) (bs : List Byte) (kind hi : Nat) : List Byte :=
  ((ls.zip (chunks bs (bs.length / 64))).filter fun p => p.1.kind == kind && decide (p.1.unit < hi)).flatMap Prod.snd

/-- The bank of a context's tile with the rows of units u0 to `hi` − 1 read from `ls` and those below u0 from `old`. -/
def latchBank (owner : Nat) (addr fm : Word) (old : Bank) (ls : List TLine) (bs : List Byte) (u0 hi : Nat) : Bank :=
  let keep := fun (l : List Byte) kind =>
    l.take (((span 0 u0).flatMap (unitAreas fm)).foldl (fun a x => if x.1 = kind then a + x.2.2 else a) 0)
  { owner := owner, addr := addr, fmt := fm, rows := hi * unitRows fm,
    codes := keep old.codes 0 ++ kindBytes ls bs 0 hi, scales := keep old.scales 1 ++ kindBytes ls bs 1 hi,
    lists := keep old.lists 2 ++ kindBytes ls bs 2 hi }

/-- An empty bank. -/
def noBank (owner : Nat) (addr fm : Word) : Bank :=
  { owner := owner, addr := addr, fmt := fm, rows := 0, codes := [], scales := [], lists := [] }

/-- Whether a bank holds a context's tile with so many rows. -/
def Bank.holds (b : Bank) (owner : Nat) (addr fm : Word) (rows : Nat) : Bool :=
  b.owner == owner && b.addr == addr && b.fmt == fm && b.rows == rows

/-- The operand-fetch engine of the running context. -/
def fetchAgent (s : State) : Agent := { s.agent with unit := 3 }

/-- The accesses of a tile's lines. -/
def tileElts (s : State) (addr : Nat) (ls : List TLine) : List (Acc × Elt) :=
  ls.map fun l => (Acc.load, { tv := addr + l.off, va := some (addr + l.off), ag := fetchAgent s })

/-- How reading a tile ends. -/
inductive TileOut where
  | done (bs : List Byte) (s : State)
  | fault (cause unit tval : Nat) (bs : List Byte) (s : State)
  | hold (s : State)

/-- Read the lines of a tile after the bytes read so far. -/
def readTile (s : State) (addr : Nat) (got : List Byte) : List TLine → TileOut
  | [] => .done got s
  | l :: t =>
    match loadMem s (fetchAgent s) (addr + l.off) 64 with
    | .trap c s => .fault c l.unit (addr + l.off) got s
    | .hold s => .hold (holdAt s 0 (toWords got))
    | .ok bs s => readTile s addr (got ++ bs) t

/-- The bytes of a tile that a held instruction has read. -/
def tileGot (s : State) : List Byte := ofWords ((s.c.hold.map Hold.aux).getD [])

/-- Read a tile's lines; a held instruction goes on after those it has. -/
def readTileOn (s : State) (addr : Nat) (ls : List TLine) : TileOut :=
  let got := tileGot s
  readTile s addr got (ls.drop (got.length / 64))

/-! ## `mwld` (R339 to R341) -/

/-- Whether a line lies where `mwld` refuses a tile (R341): a refused window, a lane slice or host memory. -/
def tileRefused (s : State) (x : Elt) : Bool :=
  let va := x.va.getD 0
  match resolve s x.ag .load va 64 with
  | .error c => c = 0x08 && nbits va 48 8 == 0xFE
  | .ok (.near p, _) => isHost p.key || isLane p.key
  | .ok _ => false

/-- The refusal or the SO check that ends an `mwld` before it latches a row: cause and `tval`. A refusal counts only before
a page that fails otherwise. -/
def tileBad (s : State) (addr : Nat) (xs : List (Acc × Elt)) : Option (Nat × Nat) :=
  let p : VPlan := { acc := .load, w := 64, elts := fun _ => [], act := fun _ s => .ok s s }
  let seen := xs.takeWhile fun x => (eltFault s .load 64 x.2).isNone || tileRefused s x.2
  if seen.any fun x => tileRefused s x.2 then some (0x08, addr)
  else if meetsSO s p xs then xs.findSome? fun x => (eltFault s .load 64 x.2).map fun c => (c, x.2.tv)
  else none

/-- Replace the bank of the running context's seat and its latch record. -/
def setLatch (s : State) (b : Bank) (done : Bool) : State :=
  let s := s.setMySeat fun t => { t with bank := some b }
  { s with c := { s.c with latch := some { addr := b.addr, fmt := b.fmt, complete := done } } }

/-- `mwld` after its issue checks. A resumed one whose rows another tile has replaced leaves the bank to the reload of
R293. -/
def weightLoad (s : State) (a fm : Word) : Res :=
  let u0 := s.c.startElem / unitRows fm
  let ls := tileLines fm u0
  match if s.c.hold.isSome then none else tileBad s a.toNat (tileElts s a.toNat ls) with
  | some (c, tv) =>
    if c = 0x08 && tv = a.toNat then .next (vecMemTrap s c s.c.startElem tv)
    else .next (trapAt (checkedFault s tv (tileElts s a.toNat ls)) c (wd tv))
  | none =>
    let id := s.c.id
    let old := (s.mySeat.bank.filter fun b => b.holds id a fm (u0 * unitRows fm)).getD (noBank id a fm)
    let whole := u0 = 0 || old.rows ≠ 0
    let latch := fun bs hi => if whole then latchBank id a fm old ls bs u0 hi else noBank id a fm
    match readTileOn s a.toNat ls with
    | .hold s => .next s
    | .fault c u tv bs s => .next (vecMemTrap (setLatch s (latch bs u) false) c (u * unitRows fm) tv)
    | .done bs s => .next (setLatch s (latch bs (tileUnits fm)) true).adv

/-- `mwld`. -/
def execMwld (f : H2) (s : State) : Res :=
  let a := s.reg f.a.toNat
  if s.c.vill then .next (illegal s) else
  match fmtUse s f.d.toNat [0, 1, 2, 3] with
  | none => .next (illegal s)
  | some fm =>
    if a.toNat % 256 ≠ 0 then .next (vecMemTrap s 0x04 s.c.startElem a.toNat) else weightLoad s a fm

/-! ## The unfold unit (R266, R267, R342, R343, R345) -/

/-- Fields of a geometry word (R266). -/
def gKH (g : Word) : Nat := nbits g.toNat 0 4
def gKW (g : Word) : Nat := nbits g.toNat 4 4
def gSH (g : Word) : Nat := nbits g.toNat 8 4
def gSW (g : Word) : Nat := nbits g.toNat 12 4
def gDH (g : Word) : Nat := nbits g.toNat 16 4
def gDW (g : Word) : Nat := nbits g.toNat 20 4
def gPT (g : Word) : Nat := nbits g.toNat 24 4
def gPL (g : Word) : Nat := nbits g.toNat 28 4
def gOH (g : Word) : Nat := nbits g.toNat 32 8
def gOW (g : Word) : Nat := nbits g.toNat 40 8

/-- Whether a geometry word holds every limit of R266. -/
def geoOk (g : Word) : Bool :=
  decide (g.toNat < 2 ^ 48) &&
    [gKH g, gKW g, gSH g, gSW g, gDH g, gDW g, gOH g, gOW g].all fun x => decide (1 ≤ x)

/-- Extent of a dimension. -/
def Desc.ext (d : Desc) (i : Nat) : Nat := (d.dims[i]?.map Dim.ext).getD 1

/-- The checks of `unf.cfg` (R343). -/
def unfOk (d : Desc) (fm g : Word) : Bool :=
  (d.space == 1 || d.space == 2) && d.bk == 0 && (d.dims.drop 3).all (fun x => x.ext == 1) &&
  (match fmtCLS fm with
    | 2 => d.ty == 9
    | 3 => d.ty == 10
    | _ => tyWidth d.ty == 8) &&
  fmtValid fm && geoOk g && decide (gKH g * gKW g * d.ext 0 ≤ 2 ^ 24) &&
  (d.alt != 0 || !(hasScl fm || hasEsc fm))

/-- `unf.cfg`. -/
def execUnfCfg (f : H2) (s : State) : Res :=
  let img := s.c.descImg f.d.toNat
  let fm := s.c.f[f.a.toNat]?.getD 0
  let g := s.reg f.b.toNat
  match if s.c.vill then none else parseDesc img with
  | none => .next (illegal s)
  | some d =>
    if unfOk d fm g then
      .next { s with c := { s.c with unf := some { desc := img, fmt := fm, geo := g }, kcur := 0 } }.adv
    else .next (illegal s)

/-- Depth of the unfolded matrix. -/
def unfDepth (d : Desc) (g : Word) : Nat := gKH g * gKW g * d.ext 0

/-- The index of A(m, k) in the descriptor (R267), none where the element is zero. DESIGN CHOICE (log 60): a dimension's SHF, which
R354 gives a meaning for copies alone, shifts no index here. -/
def unfIndex (d : Desc) (g : Word) (m k : Nat) : Option (List Nat) :=
  if gOH g * gOW g ≤ m || unfDepth d g ≤ k then none else
  let kp := k / d.ext 0
  let y : Int := (m / gOW g * gSH g + kp / gKW g * gDH g : Nat) - (gPT g : Int)
  let x : Int := (m % gOW g * gSW g + kp % gKW g * gDW g : Nat) - (gPL g : Int)
  match d.dims with
  | _ :: d1 :: d2 :: _ =>
    match boundIdx x d1, boundIdx y d2 with
    | some x, some y => some [k % d.ext 0, x, y]
    | _, _ => none
  | _ => none

/-- Read n bytes at an address in the activation's space. Nothing there leaves the device. -/
def unfLoad (s : State) (d : Desc) (addr n : Nat) : R Nat :=
  match spaceVa d.space addr with
  | none => .trap 0x08 s
  | some va =>
    match loadMem s { s.agent with seq := false } va n with
    | .ok bs s => .ok (leNat bs) s
    | .trap c s => .trap c s
    | .hold s => .hold s

/-- Read values at addresses; none stands for a place that is not read. A failure names its address. -/
def unfLoads (s : State) (d : Desc) (n : Nat) : List (Option Nat) → Except (Nat × Nat) (List (Option Nat))
  | [] => .ok []
  | none :: t => (unfLoads s d n t).map fun l => none :: l
  | some a :: t =>
    match unfLoad s d a n with
    | .ok v _ => (unfLoads s d n t).map fun l => some v :: l
    | .trap c _ => .error (c, a)
    | .hold _ => .error (0x08, a)

/-- A row of A for a pass: 256 codes, and the scale and side list of each of its 8 blocks. -/
structure ARow where
  codes : List (Option Nat)
  scales : List (Option Nat)
  lists : List (Option Nat)
  deriving DecidableEq, Repr

/-- Row m of A from column `cur` (R267, R345). Codes are read first, then scales, then side lists. -/
def unfRow (s : State) (u : Unf) (cur m : Nat) : Except (Nat × Nat) ARow :=
  match parseDesc u.desc with
  | none => .error (0x08, 0)
  | some d =>
    let g := u.geo
    let nbk := ceilDiv (unfDepth d g) 32
    let soff := if hasScl u.fmt then 64 * ceilDiv (gOH g * gOW g * nbk) 64 else 0
    let block := fun (use : Bool) (a : Nat → Nat) => (List.range 8).map fun b =>
      let i := cur / 32 + b
      if use && m < gOH g * gOW g && i < nbk then some (a (m * nbk + i)) else none
    do
      let codes ← unfLoads s d d.bytes ((List.range 256).map fun k => (unfIndex d g m (cur + k)).map d.addrAt)
      let scales ← unfLoads s d 1 (block (hasScl u.fmt) fun i => wrapN 64 (d.alt + i : Nat))
      let lists ← unfLoads s d 8 (block (hasEsc u.fmt) fun i => wrapN 64 (d.alt + soff + 8 * i : Nat))
      return { codes := codes, scales := scales, lists := lists }

/-! ## Weights of a column (R276, R340) -/

/-- The code of row k and physical column p. -/
def weightCode (b : Bank) (k p : Nat) : Nat :=
  let w := fmtW b.fmt
  match fmtCLS b.fmt with
  | 0 => nbits (fieldAt b.codes (4 * w * (256 * (k / 32) + p)) (4 * w)) (w * (k % 32)) w
  | 1 => if w = 8 then fieldAt b.codes (256 * k + p) 1 else nbits (fieldAt b.codes (128 * k + p / 2) 1) (4 * (p % 2)) 4
  | _ => fieldAt b.codes (512 * k + 2 * p) 2

/-- The scale code and the side list of block i of a column. -/
def weightScale (b : Bank) (i p : Nat) : Option Nat := if hasScl b.fmt then some (fieldAt b.scales (256 * i + p) 1) else none
def weightList (b : Bank) (i p : Nat) : Nat := fieldAt b.lists (8 * (256 * i + p)) 8

/-! ## An integer pass (R269) -/

/-- The value of a code of the integer class. -/
def intCode (fm : Word) (x : Nat) : Int := if fmtUNS fm then ((x % 2 ^ fmtW fm : Nat) : Int) else sval (fmtW fm) x

/-- Add products in increasing k in 20-bit two's complement: the wrapped sum, and the tokens in order. -/
def sum20 (p : Int) : List (Int × Int) → Int × List Int
  | [] => (p, [])
  | (a, w) :: t =>
    let q := p + a * w
    if (2 : Int) ^ 19 ≤ q then
      let r := sum20 (q - 2 ^ 20) t
      (r.1, 1 :: r.2)
    else if q < -(2 : Int) ^ 19 then
      let r := sum20 (q + 2 ^ 20) t
      (r.1, (-1) :: r.2)
    else sum20 q t

/-- The pass of one column: A values against the weights of physical column p. -/
def columnSum (b : Bank) (a : List Int) (p : Nat) : Int × List Int :=
  sum20 0 (a.zip ((List.range 256).map fun k => intCode b.fmt (weightCode b k p)))

/-! ## Inserting a row's tokens (R270, R301) -/

/-- What row m's own tokens have done to an entry: column, their sum, and whether the entry is theirs alone. -/
structure OwnTok where
  col : Nat
  sum : Int
  fresh : Bool
  deriving DecidableEq, Repr

/-- An insertion under way: the state with its Spillway, row m's own tokens, and the folds of row m's entries in order:
column, count folded, and the part of it that was there before the row. -/
structure Ins where
  s : State
  own : List OwnTok
  folds : List (Nat × Int × Int)

/-- The row that tokens go to: accumulator register and core row, with the first physical column of the context. -/
structure RowTag where
  reg : Nat
  row : Nat
  lane : Nat
  deriving DecidableEq, Repr

/-- Whether an entry is that of column n of the row. -/
def RowTag.is (r : RowTag) (n : Nat) (e : Spill) : Bool := e.reg == r.reg && e.row == r.row && e.col == r.lane + n

/-- The sum of row m's own tokens in an entry. -/
def Ins.ownSum (x : Ins) (n : Nat) : Int := ((x.own.find? fun o => o.col == n).map OwnTok.sum).getD 0

/-- Count a token of column n as row m's own. -/
def Ins.addOwn (x : Ins) (n : Nat) (t : Int) (fresh : Bool) : Ins :=
  if x.own.any fun o => o.col == n then
    { x with own := updFirst (fun o => o.col == n) (fun o => { o with sum := o.sum + t }) x.own }
  else { x with own := x.own ++ [{ col := n, sum := t, fresh := fresh }] }

/-- Change the Spillway of the running context's seat. -/
def setSpill (s : State) (l : List Spill) : State :=
  s.setMySeat fun t => { t with spill := l, peak := max t.peak l.length }

/-- Count a STALL-mode fold (R299). -/
def countStall (s : State) : State := s.setMySeat fun t => { t with stalls := min 0xFFFF (t.stalls + 1) }

/-- The fold of R301 that makes room: every entry of the seat but those that hold row m's own tokens. The folds of row m's
older entries are kept back until the row's sums are added. -/
def foldForRoom (x : Ins) (r : RowTag) : Ins :=
  let t := x.s.mySeat
  let keep := fun e => x.own.any fun o => r.is o.col e
  let mine := fun (e : Spill) => x.s.c.ownsSpill t e && e.reg == r.reg && e.row == r.row
  let row := t.spill.filter fun e => mine e && !keep e
  let s := setSpill x.s (t.spill.filter fun e => !(mine e && !keep e))
  let s := countStall (foldSeat s s.c.core s.c.pos fun e => !keep e)
  { x with s := s, folds := x.folds ++ row.map fun e => (e.col - r.lane, e.count, e.count) }

/-- Insert one token, unless it is refused: whether it is in. A fold for room that came first stands either way (R301). -/
def insertToken (x : Ins) (r : RowTag) (n : Nat) (t : Int) : Ins × Bool :=
  let seat := x.s.mySeat
  let trapMode := seat.spwmode.getLsbD 0
  let cap := 16 * nbits seat.spwmode.toNat 8 8
  match seat.spill.find? (r.is n) with
  | none =>
    let y := if seat.spill.length < cap || trapMode then x else foldForRoom x r
    let l := y.s.mySeat.spill
    if cap ≤ l.length then (y, false)
    else
      let z : Ins := { y with s := setSpill y.s (l ++ [{ reg := r.reg, row := r.row, col := r.lane + n, count := t }]) }
      (z.addOwn n t true, true)
  | some e =>
    let upd := fun c => setSpill x.s (updFirst (r.is n) (fun e => { e with count := c }) seat.spill)
    let z : Ins := { x with s := upd (e.count + t) }
    if (e.count + t).natAbs ≤ 2047 then (z.addOwn n t false, true)
    else if trapMode || (x.own.any fun o => o.col == n && o.fresh) then (x, false)
    else
      let rest := x.own.filter fun o => o.col != n
      ({ s := countStall (upd t), own := rest ++ [{ col := n, sum := t, fresh := true }],
         folds := x.folds ++ [(n, e.count, e.count - x.ownSum n)] }, true)

/-- Insert tokens in order; the column of the refused one when there is one. -/
def insertTokens (x : Ins) (r : RowTag) : List (Nat × Int) → Ins × Option Nat
  | [] => (x, none)
  | (n, t) :: rest =>
    match insertToken x r n t with
    | (x, false) => (x, some n)
    | (x, true) => insertTokens x r rest

/-- Withdraw row m's own tokens (R270). -/
def withdraw (x : Ins) (r : RowTag) : State :=
  let l := x.s.mySeat.spill.filterMap fun e =>
    match x.own.find? fun o => r.is o.col e with
    | none => some e
    | some o => if o.fresh then none else some { e with count := e.count - o.sum }
  x.s.setMySeat fun t => { t with spill := l }

/-- Add to the element of column n of the row's register and depth. -/
def addRow (s : State) (reg dep n : Nat) (d : Int) : State := { s with c := s.c.addAcc36 reg dep n d }

/-- An integer row (R269, R301): the sums, then the tokens; none and the column of a refused insertion when it jams. -/
def intRow (s : State) (b : Bank) (reg m : Nat) (cols : List Nat) (a : List Int) : State × Option Nat :=
  let seat := s.mySeat
  let rg := reg + m / s.dlen
  let dep := m % s.dlen
  let lane := seat.laneBase s.c.slot
  let r : RowTag := { reg := rg, row := seat.dbase s.c.slot + dep, lane := lane }
  let sums := cols.map fun n => (n, columnSum b a (lane + n))
  let toks := sums.flatMap fun x => x.2.2.map fun t => (x.1, t)
  let q := insertTokens { s := s, own := [], folds := [] } r toks
  match q.2 with
  | some n =>
    (q.1.folds.foldl (fun s x => addRow s rg dep x.1 (x.2.2 * 2 ^ 20)) (withdraw q.1 r), some n)
  | none =>
    let s := sums.foldl (fun s x => addRow s rg dep x.1 x.2.1) q.1.s
    (q.1.folds.foldl (fun s x => addRow s rg dep x.1 (x.2.1 * 2 ^ 20)) s, none)

/-! ## A float pass (R278, R283) -/

/-- Decode the codes of one block in element order from the i-th escape on: values, and whether a fifth escape is
among them. -/
def decodeBlock (fm : Word) (list : Nat) (i : Nat) : List (Option Nat) → List FVal × Bool
  | [] => ([], false)
  | c :: t =>
    match c.map (decodeNarrow fm) with
    | none => let r := decodeBlock fm list i t; (.fin false 0 0 :: r.1, r.2)
    | some (some v) => let r := decodeBlock fm list i t; (v :: r.1, r.2)
    | some none =>
      let r := decodeBlock fm list (i + 1) t
      if i < 4 then (fDec bf16 (nbits list (16 * i) 16) :: r.1, r.2) else (.nan false :: r.1, true)

/-- Truncate m·2^e toward zero to a multiple of 2^q. -/
def truncTo (m : Nat) (e q : Int) : Nat := if q ≤ e then m * 2 ^ (e - q).toNat else m / 2 ^ (q - e).toNat

/-- The sign, integer and exponent of a finite value that is not zero. -/
def finParts : FVal → Option (Bool × Nat × Int)
  | .fin n m e => if m = 0 then none else some (n, m, e)
  | _ => none

/-- The sign of an infinity. -/
def infSign : FVal → Option Bool
  | .inf n => some n
  | _ => none

/-- The rounded sum of a block's finite products times the scales. -/
def blockSum (ps : List (Bool × Nat × Int)) (k : Int) : Nat :=
  match ps with
  | [] => 0
  | _ =>
    let x := ps.foldl (fun (o : Option Int) p =>
      let l : Int := p.2.1.log2 + p.2.2
      match o with
      | none => some l
      | some y => some (max y l)) none
    let q := x.getD 0 - 40
    let t := ps.foldl (fun (a : Int) p => let v : Int := truncTo p.2.1 p.2.2 q; if p.1 then a - v else a + v) 0
    (roundF fp36 0 (decide (t < 0)) t.natAbs (q + k)).1

/-- One block of R283 for one element. -/
def floatBlock (acc : Nat) (a w : List FVal) (sa sw : Option Int) : Nat :=
  let ps := (a.zip w).map fun p => mulV p.1 p.2
  match sa, sw with
  | some ka, some kw =>
    if a.any FVal.isNan || w.any FVal.isNan || ps.any Option.isNone then fNan fp36
    else
      let infs := ps.filterMap fun p => p.bind infSign
      match infs with
      | n :: t => if t.all (· == n) then (fAdd fp36 0 acc (fInf fp36 n)).1 else fNan fp36
      | [] => (fAdd fp36 0 acc (blockSum (ps.filterMap fun p => p.bind finParts) (ka + kw))).1
  | _, _ => fNan fp36

/-- The codes of block i of a row. -/
def blockCodes (l : List (Option Nat)) (i : Nat) : List (Option Nat) := (l.drop (32 * i)).take 32

/-- The decoded blocks of a row of A with their scales, and whether a fifth escape is among them. -/
def rowBlocks (fm : Word) (r : ARow) : List (List FVal × Option Int) × Bool :=
  let bs := (List.range 8).map fun i =>
    (decodeBlock fm ((r.lists[i]?.getD none).getD 0) 0 (blockCodes r.codes i), (r.scales[i]?.getD none).elim (some 0) scaleExp)
  (bs.map fun b => (b.1.1, b.2), bs.any fun b => b.1.2)

/-- The decoded blocks of a weight column. -/
def columnBlocks (b : Bank) (p : Nat) : List (List FVal × Option Int) × Bool :=
  let bs := (List.range 8).map fun i =>
    (decodeBlock b.fmt (weightList b i p) 0 ((List.range 32).map fun k => some (weightCode b (32 * i + k) p)),
     (weightScale b i p).elim (some 0) scaleExp)
  (bs.map fun x => (x.1.1, x.2), bs.any fun x => x.1.2)

/-- The pass of one output element. -/
def floatPass (acc : Nat) (a w : List (List FVal × Option Int)) : Nat :=
  (a.zip w).foldl (fun acc p => floatBlock acc p.1.1 p.2.1 p.1.2 p.2.2) acc

/-- A float row: only the flag ESC may be set (R346). -/
def floatRow (s : State) (b : Bank) (fa : Word) (reg m : Nat) (cols : List Nat) (r : ARow) : State :=
  let a := rowBlocks fa r
  let lane := s.mySeat.laneBase s.c.slot
  cols.foldl (fun t n =>
    let w := columnBlocks b (lane + n)
    let v := floatPass (t.acc reg m n).toNat a.1 w.1
    (t.setAcc reg m n (BitVec.ofNat 36 v)).setFlags (if a.2 || w.2 then fESC else 0)) s

/-! ## `mmla` (R344 to R347) -/

/-- The group factor of a `vcfg` value. -/
def vcfgGrp (v : Word) : Nat := 2 ^ nbits v.toNat 4 2

/-- The active columns of a mask value. -/
def colsOf (bits : Nat) (n : Nat) : List Nat := (List.range n).filter fun i => bits.testBit i

/-- What an `mmla` captures at issue (R294), when its checks hold (R274, R289, R291, R296, R343). -/
def mmCapture (s : State) (f : H2) : Option MmCap :=
  match s.c.latch, s.c.unf with
  | some l, some u =>
    if !s.c.vill && (fmtCLS l.fmt == 1) == (fmtCLS u.fmt == 1) && groupOk s.c.grp f.d.toNat &&
        decide (s.c.vlen ≤ s.mySeat.lanes s.c.slot) then
      some { latch := l, unf := u, kcur := s.c.kcur, vl := s.c.vl, vcfg := s.c.vcfg,
             maskBits := (s.c.actives f.mask 0 s.c.vlen).foldl (fun a n => a + 2 ^ n) 0 }
    else none
  | _, _ => none

/-- The configuration that a resumed `mmla` keeps. -/
def mmKept (s : State) : Option MmCap :=
  match s.c.resume with
  | some r => if r.active && r.pc == s.c.pc then r.mm else none
  | none => none

/-- The counter of a latched class (R466). -/
def classMeter (fm : Word) : Nat :=
  match fmtCLS fm with
  | 0 | 1 => if fmtW fm ≤ 4 then 1 else 0
  | 2 => 2
  | _ => 3

/-- The trap of a reload (R293, R347): `es` and `esk` stay. -/
def reloadTrap (s : State) (cap : MmCap) (c tv : Nat) : State :=
  let r : Resume := { pc := s.c.pc, es0 := s.c.es0, active := false, mm := some cap }
  trapAt { s with c := { s.c with resume := some r } } c (wd tv)

/-- The rows of an `mmla` from row m on, n of them. -/
def mmRows (s : State) (f : H2) (cap : MmCap) (b : Bank) (cols : List Nat) (m : Nat) : Nat → Res
  | 0 => .next { s with c := { s.c with perr := none } }.adv
  | n + 1 =>
    match s.c.perr.filter fun p => decide (p.1 ≤ m) with
    | some p => .next (pipeTrap s m p.2 (some cap))
    | none =>
      match unfRow s cap.unf cap.kcur m with
      | .error (c, a) => .next (trapVector s c (if c = 0x0C then 2 else 1) m (wd a) (some cap))
      | .ok r =>
        let done := fun (s : State) => s.meter s.c.part (classMeter cap.latch.fmt) (256 * cols.length)
        if fmtCLS cap.latch.fmt = 1 then
          let a := r.codes.map fun c => (c.map (intCode cap.unf.fmt)).getD 0
          match intRow s b f.d.toNat m cols a with
          | (s, some n) =>
            let s := s.setMySeat fun t => { t with jams := min 0xFFFF (t.jams + 1) }
            .next (trapVector s 0x0A 3 m (wd (256 * m + n)) (some cap))
          | (s, none) => mmRows (done s) f cap b cols (m + 1) n
        else mmRows (done (floatRow s b cap.unf.fmt f.d.toNat m cols r)) f cap b cols (m + 1) n

/-- `mmla` with its configuration; `fresh` on a first issue, whose cursor then advances. -/
def mmRun (s : State) (f : H2) (cap : MmCap) (fresh : Bool) : Res :=
  let issued := fun (s : State) => if fresh then { s with c := { s.c with kcur := s.c.kcur + 256 } } else s
  let cols := colsOf cap.maskBits (cap.vl.toNat % 2 ^ 22)
  let m := s.c.startElem
  let all := vcfgGrp cap.vcfg * s.dlen
  let rows := match s.c.stop with
    | some k => min k all
    | none => all
  let l := cap.latch
  if cols.isEmpty then .next (issued s).adv
  else match s.mySeat.bank.filter fun b => b.holds s.c.id l.addr l.fmt 256 && l.complete with
  | some b => mmRows (issued s) f cap b cols m (rows - m)
  | none =>
    let ls := tileLines l.fmt 0
    match if s.c.hold.isSome then none else tileBad s l.addr.toNat (tileElts s l.addr.toNat ls) with
    | some (c, tv) => .next (reloadTrap (issued s) cap c tv)
    | none =>
    match readTileOn s l.addr.toNat ls with
    | .hold s => .next s
    | .fault c _ tv _ s => .next (reloadTrap (issued s) cap c tv)
    | .done bs s =>
      let b := latchBank s.c.id l.addr l.fmt (noBank s.c.id l.addr l.fmt) ls bs 0 (tileUnits l.fmt)
      mmRows (issued (s.setMySeat fun t => { t with bank := some b })) f cap b cols m (rows - m)

/-- `mmla`. -/
def execMmla (f : H2) (s : State) : Res :=
  match mmKept s with
  | some cap => mmRun s f cap false
  | none =>
    match mmCapture s f with
    | some cap => mmRun s f cap true
    | none => .next (illegal s)

/-! ## Accumulator operations (R348 to R351) -/

/-- The checks of an accumulator instruction on a group, with vector groups given by register and width. -/
def accOk (s : State) (reg : Nat) (vecs : List (Nat × Nat)) : Bool :=
  !s.c.vill && [0, 3, 7, 11, 14].contains s.c.et && groupOk s.c.grp reg &&
    vecs.all fun v => groupOk (groupRegs s.c.grp v.2 32) v.1

/-- Row and column of accumulator element e. -/
def accRow (s : State) (e : Nat) : Nat := e / s.lanes
def accCol (s : State) (e : Nat) : Nat := e % s.lanes

/-- The element of a group that a Spillway entry belongs to. -/
def entryElem (s : State) (reg : Nat) (e : Spill) : Option Nat :=
  let t := s.mySeat
  if s.c.ownsSpill t e && decide (reg ≤ e.reg) && decide (e.reg < reg + s.c.grp) then
    some (((e.reg - reg) * s.dlen + (e.row - t.dbase s.c.slot)) * s.lanes + (e.col - t.laneBase s.c.slot))
  else none

/-- Whether an entry belongs to an active element of a group. -/
def entryActive (s : State) (reg : Nat) (mask : BitVec 4) (e : Spill) : Bool :=
  (entryElem s reg e).any fun i => decide (i < s.c.vlen) && s.c.active mask i

/-- Write the active accumulator elements from lo to hi − 1; each one's entry is discarded. -/
def accWrite (s : State) (reg : Nat) (mask : BitVec 4) (f : Nat → BitVec 36) (lo hi : Nat) : State :=
  let s' := discardSpill s s.c.core s.c.pos fun e =>
    entryActive s reg mask e && (entryElem s reg e).any fun i => decide (lo ≤ i) && decide (i < hi)
  (s.c.actives mask lo hi).foldl (fun t e => t.setAcc reg (accRow s e) (accCol s e) (f e)) s'

/-- The bits of a group's registers. -/
def groupBits (reg g : Nat) : BitVec 32 := BitVec.ofNat 32 ((2 ^ g - 1) * 2 ^ reg)

/-- `acz` (R349). -/
def execAcz (f : H2) (s : State) : Res :=
  let reg := f.d.toNat
  if accOk s reg [] then
    let s := accWrite s reg f.mask (fun _ => 0) 0 s.c.vlen
    .next { s with c := { s.c with sat := s.c.sat &&& ~~~groupBits reg s.c.grp } }.adv
  else .next (illegal s)

/-- An element widened into an accumulator's format (R349). -/
def widen (ty x : Nat) : BitVec 36 :=
  if tyFloat ty then BitVec.ofNat 36 (fConv (tyFmt ty) fp36 0 x).1 else BitVec.ofNat 36 (wrapN 36 (tyInt ty x))

/-- `aci`. -/
def execAci (f : H2) (s : State) : Res :=
  let ty := f.ty.toNat
  if accOk s f.d.toNat [(f.a.toNat, tyWidth ty)] then
    groupRun s true (accWrite s f.d.toNat f.mask fun e => widen ty (s.elem (tyWidth ty) f.a.toNat e))
  else .next (illegal s)

/-- Add a widened value into one element (R349). -/
def accAdd (t : State) (ty reg m n x : Nat) : State :=
  if tyFloat ty then t.setAcc reg m n (BitVec.ofNat 36 (fAdd fp36 0 (t.acc reg m n).toNat (widen ty x).toNat).1)
  else { t with c := t.c.addAcc36 (reg + m / t.dlen) (m % t.dlen) n (tyInt ty x) }

/-- `aci.add`. -/
def execAciAdd (f : H2) (s : State) : Res :=
  let ty := f.ty.toNat
  if accOk s f.d.toNat [(f.a.toNat, tyWidth ty)] then
    groupRun s true fun lo hi => (s.c.actives f.mask lo hi).foldl (fun t e =>
      accAdd t ty f.d.toNat (accRow s e) (accCol s e) (s.elem (tyWidth ty) f.a.toNat e)) s
  else .next (illegal s)

/-- `aci.sat` (R350). -/
def execAciSat (f : H2) (s : State) : Res :=
  if accOk s f.a.toNat [] then writeReg s f.d.toNat (wd (s.c.sat.toNat / 2 ^ f.a.toNat % 2 ^ s.c.grp))
  else .next (illegal s)

/-- The value that `acx` narrows (R351). -/
def acxVal (fp : Bool) (sh : Nat) (x : BitVec 36) : FVal :=
  if fp then fDec fp36 x.toNat else .fin (decide (x.toInt < 0)) x.toInt.natAbs (-(sh : Int))

/-- A float result of `acx` (R351): an overflow gives an infinity whatever the rounding mode, or with SAT the largest
finite value. -/
def acxFloat (t : Fmt) (rm : Nat) (sat : Bool) (v : FVal) : Nat × Nat :=
  let r := roundV t rm v
  if r.2.testBit 2 then
    let neg := r.1.testBit (t.eb + t.fb)
    (if sat then fZero t neg + (2 ^ t.eb - 1) * 2 ^ t.fb - 1 else fInf t neg, r.2)
  else r

/-- Narrow a value to a type: bits and flags. `u` is the random threshold of a stochastic rounding. -/
def acxOne (ty rm u : Nat) (sat : Bool) (fm : Word) (v : FVal) : Nat × Nat :=
  if tyFloat ty then acxFloat (tyFmt ty) rm sat v
  else if ty = 13 then
    let r := if fmtCLS fm = 1 then convNarrowInt fm rm u v else convNarrow fm rm u false v
    (r.code, r.flags)
  else
    let w := tyWidth ty
    let r := vToInt (intMin (tySigned ty) w) (intMax (tySigned ty) w) rm v
    (wrapN w r.1, r.2)

/-- Narrow one element; a stochastic conversion steps the LFSR (R286). -/
def acxElem (s : State) (f : H2) (fm : Word) (t : State) (e : Nat) : State :=
  let ty := f.ty.toNat
  let imm := f.imm.toNat
  let fp := (tyFloat ty || ty == 13) != nbit imm 7
  let seed := if ty = 13 && s.rm = 4 then stepLfsr t.c.seed else t.c.seed
  let t := { t with c := t.c.setSeed seed }
  let v := acxVal fp (imm % 32) (s.acc f.a.toNat (accRow s e) (accCol s e))
  let r := acxOne ty s.rm (seed.toNat / 256) (nbit imm 6) fm v
  (t.setElem (tyWidth ty) f.d.toNat e r.1).setFlags r.2

/-- `acx` (R272, R351). -/
def execAcx (f : H2) (s : State) : Res :=
  let ty := f.ty.toNat
  let fp := (tyFloat ty || ty == 13) != nbit f.imm.toNat 7
  let fm := if ty = 13 then fmtUse s f.b.toNat [0, 1] else some 0
  match fm.filter fun x => !(hasScl x || hasEsc x) with
  | none => .next (illegal s)
  | some fm =>
    if accOk s f.a.toNat [(f.d.toNat, tyWidth ty)] && !(fp && f.imm.toNat % 32 != 0) then
      let s := foldSeat s s.c.core s.c.pos (entryActive s f.a.toNat f.mask)
      groupRun s true fun lo hi => (s.c.actives f.mask lo hi).foldl (acxElem s f fm) s
    else .next (illegal s)

/-! ## Spillway instructions (R271, R298, R352) -/

/-- `spw.drain`. -/
def execSpwDrain (_ : H1) (s : State) : Res := .next (foldSeat s s.c.core s.c.pos fun _ => true).adv

/-- `spw.mode`. -/
def execSpwMode (f : H1) (s : State) : Res :=
  if s.c.priv.toNat < 1 then .next (privTrap s)
  else
    let old := s.mySeat.spwmode
    writeReg (writeSpwmode s (s.reg f.a.toNat)) f.d.toNat old

/-- `spw.st`. -/
def execSpwSt (f : H1) (s : State) : Res := writeReg s f.d.toNat s.mySeat.spwstWord

end Sys2Proof.Machine
end

