-- ==== Sys2Proof/Machine/Remote.lean ====
section
/-! DEFINITION. Requests of other devices at this one, and the answers to this one's (R220, R379, R389 to R392, R401). -/
namespace Sys2Proof.Machine

/-! ## Answers at the source (R390, R391) -/

/-- An answer of another device, the host, or no answer in time reaches a context that is held for it. -/
def giveHold (tag : Nat) (a : FAns) (c : Ctx) : Ctx :=
  let give := fun (h : Hold) =>
    { h with ans := if h.tag = some tag then some a else h.ans
             many := h.many.map fun x => if x.1 = tag then (tag, some a) else x }
  { c with hold := c.hold.map give, vq := c.vq.map fun e => { e with hold := e.hold.map give } }

/-- The request that a context, or the head of its queue, waits for. -/
def Ctx.openTag (c : Ctx) : Option Nat := c.hold.bind Hold.tag <|> (c.vq.head?.bind VqEntry.hold).bind Hold.tag

/-- The same for a copy and for the payload read of a routing item. -/
def giveCopy (tag : Nat) (a : FAns) (x : Copy) : Copy := if x.far = some tag then { x with ans := some a } else x
def giveItem (tag : Nat) (a : FAns) (x : RItem) : RItem := if x.rd = some tag then { x with data := some a } else x

/-- An answer goes to whoever sent the request; its reservation is released. -/
def giveAns (s : State) (tag : Nat) (a : FAns) : State :=
  { s with
    resvs := s.resvs.filter fun r => r.tag != tag
    c := giveHold tag a s.c, others := s.others.map (giveHold tag a)
    copies := s.copies.map (giveCopy tag a)
    sides := s.sides.map fun x => { x with lists := x.lists.map fun l => (l.1, l.2.map (giveItem tag a)) } }

/-- The data of an answer flit: up to 24 bytes in OPD, more in the payload (R379). -/
def flitData (f : Flit) : Nat := if f.len = 0 then f.opd.toNat else leNat (f.payload.take f.len.toNat)

/-- Whether an answer belongs to the partition's present incarnation (R392). -/
def freshAnswer (s : State) (f : Flit) : Bool := f.sinc == (s.part f.spart.toNat).inc

/-- The wait of a meeting-class request that was answered busy starts anew (R478). -/
def renewWait (s : State) (m : Msg) : State :=
  s.withParty m.who.id fun c => { c with wait := c.wait.map fun w =>
    if w.stamp = m.who.stamp then { w with limit := w.limit.map fun l => max l (s.now + 2 ^ 16) } else w }

/-- A request is answered busy (R390): it goes again after RETRY ticks, and its timeout starts anew (R478). The flits of one
multicast store have one TAG, and each its OSEQ. -/
def markBusy (s : State) (tag retry : Nat) (oseq : BitVec 16) : State :=
  let s := match (s.resvs.find? fun r => r.tag == tag).bind Resv.msg with
    | some m => renewWait s m
    | none => s
  { s with resvs := s.resvs.map fun r =>
      if r.tag ≠ tag then r
      else { r with start := s.now, busyUntil := if r.flit.oseq = oseq then some (s.now + retry) else r.busyUntil } }

/-- Whether two requests of one stream keep their order (R389); of the meeting class, those of one context to one home
(R52). -/
def follows (q r : Resv) : Bool :=
  match q.msg, r.msg with
  | some x, some y => q.flit.ddev == r.flit.ddev && sameWay x y
  | none, none => keepsOrder q.flit r.flit
  | _, _ => false

/-- Whether a busy request may go again now: its time has come, and none that it must follow waits. -/
def retryDue (s : State) (r : Resv) : Bool :=
  (r.busyUntil.any fun t => decide (t ≤ s.now)) &&
    !(s.resvs.any fun q => q.busyUntil.isSome && follows q r && seqBefore q.flit.oseq r.flit.oseq)

/-- BUSY_RETRY: a request goes again with its OSEQ, after those it must follow. -/
def execBusyRetry (tag : Nat) (s : State) : Res :=
  match s.resvs.find? fun r => r.tag == tag && retryDue s r with
  | none => .next s
  | some r =>
    let s := { s with resvs := updFirst (fun x => x == r) (fun r => { r with busyUntil := none }) s.resvs }
    let s := match r.msg with
      | some m => { s with out := s.out ++ [.msg r.flit.ddev.toNat m] }
      | none => s
    .next (sendFlit s r.flit.spart.toNat r.flit)

/-- Whether a context, resident or saved, still waits for the answer of a meeting-class request (R68). -/
def awaited (s : State) (m : Msg) : Bool :=
  (s.ctxs ++ s.saved.map Saved.ctx).any fun c => c.id == m.who.id && c.wait.any fun w => w.stamp == m.who.stamp && w.limit.isSome

/-- Whether a flit of a multicast store waits for a link. -/
def mstQueued (s : State) (tag : Nat) : Bool :=
  s.links.any fun l => (l.queue ++ l.escQ).any fun q => q.1 != transitKey && q.2.kind == 7 && q.2.tag.toNat == tag

/-- Whether a reply reservation has run out (R391). A meeting-class request whose context waits is timed by its wait (R68), and a
multicast store from its last flit on (R400). -/
def resvOver (s : State) (r : Resv) : Bool :=
  decide (r.start + 2 ^ 16 ≤ s.now) && !(r.msg.any (awaited s)) && !mstQueued s r.tag

/-- HOST_COMPLETION: the PCIe completion of a context's AtomicOp (R179). -/
def execHostCompletion (ctx st : Nat) (val : Word) (s : State) : Res :=
  match (s.ctx? ctx).bind Ctx.openTag with
  | none => .next s
  | some tag =>
    .next (match (s.resvs.find? fun r => r.tag == tag && r.ctx == ctx).bind Resv.host with
      | some o => giveAns (hostOutcome s tag o st val.toNat) tag { st := st, val := val.toNat }
      | none => s)

/-! ## Requests at the destination (R389, R392) -/

/-- Keep the answer of a request while its OSEQ is among the last 4,096 of its stream. -/
def keepAnswer (s : State) (f a : Flit) : State :=
  let x := streamOf s f
  let top := if seqBefore x.next f.oseq then f.oseq else x.next
  let near := x.seen.filter fun y => y.1 != f.oseq.toNat && decide ((top - BitVec.ofNat 16 y.1).toNat ≤ 4096)
  setStream s { x with
    seen := near ++ [(f.oseq.toNat, a)]
    busied := (x.busied.filter fun g => g.oseq != f.oseq) ++ if a.op = 1 then [f] else [] }

/-- The answer flit of a request: it names the same stream, so that the source can tell a stale one (R392). -/
def answerOf (s : State) (f : Flit) (op : Nat) (data : List Byte) (retry : Nat) : Flit :=
  { f with kind := 2, ddev := f.sdev, sdev := BitVec.ofNat 16 s.dev, op := BitVec.ofNat 8 op, retry := BitVec.ofNat 16 retry,
           esc := false, vc := false, len := BitVec.ofNat 10 (if data.length ≤ 24 then 0 else data.length),
           opd := if data.length ≤ 24 then BitVec.ofNat 192 (leNat data) else 0,
           payload := if data.length ≤ 24 then [] else data }

/-- Whether this device takes requests for a partition in that incarnation (R392). -/
def takesFor (s : State) (f : Flit) : Bool :=
  (s.part f.dpart.toNat).st == .live && !stopMoment s f.dpart.toNat && f.dinc != 0 && f.dinc == (s.part f.dpart.toNat).inc

/-- Whether a request must wait behind one of its stream that was answered busy (R390). -/
def behindBusy (s : State) (f : Flit) : Bool :=
  (streamOf s f).busied.any fun g => keepsOrder g f && seqBefore g.oseq f.oseq

/-- Send an answer and keep it for duplicates. -/
def sendAnswer (s : State) (f : Flit) (op : Nat) (data : List Byte) (retry : Nat) : State :=
  let a := answerOf s f op data retry
  sendFlit (keepAnswer s f a) f.dpart.toNat a

/-- A busy answer, after a number of ticks from 0 to 64 that the spec leaves open (R233). -/
def sendBusy (s : State) (f : Flit) : State := sendAnswer (s.useFree 1) f 1 [] (s.freeVal.toNat % 65)

/-- The operands of an atomic request (log 12). -/
def opdB (f : Flit) : Nat := nbits f.opd.toNat 0 64
def opdE (f : Flit) : Nat := nbits f.opd.toNat 64 64
def opdTy (f : Flit) : Nat := nbits f.opd.toNat 128 8

/-- Perform a memory request of another device (R220, R379). -/
def serveRequest (s : State) (f : Flit) : State :=
  let width := if f.op = 1 && f.len != 0 then f.len.toNat else 2 ^ f.lgw.toNat
  let data := leBytes width (flitData f)
  let kind := if f.cls = 1 then 0 else 1
  let r := serveAccess s f.sdev.toNat f.spart.toNat f.addr.toNat kind width f.op.toNat f.fn.toNat (opdTy f) (opdB f) (opdE f) data
  match r.1 with
  | 0 =>
    let s := r.2.2
    let s := if f.op = 0 then s else watchWrite s f.addr.toNat width (watchWho f.sdev.toNat f.spart.toNat 0 2)
    sendAnswer s f 0 (if f.op = 1 then [] else leBytes width r.2.1) 0
  | 1 => sendBusy s f
  | n => sendAnswer s f n [] 0

/-! ## Multicast stores at a receiver (R401) -/

/-- The HBM address that a store reaches, for the watchpoints of R457. -/
def storeTarget (s : State) (part va n : Nat) : Option Nat :=
  match resolve s (engineAgent part) .store va n with
  | .ok (.near p, _) => p.pa
  | _ => none

/-- Store the elements of a flit in order: whether one was refused, the elements that remain, from a refused one or one
that a block in SWITCH keeps waiting, and the state. -/
def mstStore (s : State) (f : Flit) (w : Nat) : List (Nat × Nat) → Bool × List (Nat × Nat) × State
  | [] => (false, [], s)
  | x :: t =>
    let part := f.dpart.toNat
    match storeMem s (engineAgent part) x.1 (leBytes w x.2) with
    | .trap _ s => (true, x :: t, s)
    | .hold s => (false, x :: t, s)
    | .ok _ s' =>
      let s' := match storeTarget s part x.1 w with
        | some pa => watchWrite (settleBytes s' pa w) pa w (watchWho f.sdev.toNat f.spart.toNat 0 3)
        | none => s'
      mstStore s' f w t

/-- The elements of a flit of KIND 7 (log 20). -/
def mstElems (f : Flit) : List (Nat × Nat) :=
  (List.range (f.len.toNat / 16)).map fun i => (fieldAt f.payload (16 * i) 8, fieldAt f.payload (16 * i + 8) 8)

/-- Whether an earlier flit of the same multicast store was refused here: nothing above that element is written. -/
def mstRefused (s : State) (f : Flit) : Bool :=
  (streamOf s f).seen.any fun x => x.2.tag == f.tag && x.2.op == 3

/-- Take a flit of a multicast store. Flits before the last are not answered unless refused; one whose page is in SWITCH
is taken up again later with the elements that remain. -/
def serveMst (s : State) (f : Flit) : State :=
  if mstRefused s f then keepAnswer s f (answerOf s f 0 [] 0) else
  let xs := mstElems f
  let w := 2 ^ f.lgw.toNat
  let r := mstStore s f w xs
  let r := (r.1, r.2.1, unpoisonAll r.2.2 ((xs.take (xs.length - r.2.1.length)).filterMap fun x =>
    storedPiece w (resolve s (engineAgent f.dpart.toNat) .store x.1 w)))
  if r.1 then sendAnswer r.2.2 f 3 [] 0
  else if !r.2.1.isEmpty then
    let rest := r.2.1.flatMap fun x => leBytes 8 x.1 ++ leBytes 8 x.2
    keepAnswer { r.2.2 with later := r.2.2.later ++ [.fabricRequest { f with payload := rest, len := BitVec.ofNat 10 rest.length }] }
      f (answerOf s f 1 [] 0)
  else if f.fn = 1 then sendAnswer r.2.2 f 0 [] 0
  else keepAnswer r.2.2 f (answerOf s f 0 [] 0)

/-- Whether a flit is a request for this device that FABRIC_REQUEST performs; what a meeting-class flit asks comes as a step of
its own (R383). -/
def isRequestHere (s : State) (f : Flit) : Bool :=
  (f.kind == 1 || f.kind == 7) && f.cls != 2 && f.ddev.toNat == s.dev && f.sdev.toNat != s.dev

/-- Perform a request of KIND 1 or 7 whose turn has come (R389, R390). -/
def performRequest (s : State) (f : Flit) : State :=
  if behindBusy s f || (s.part f.dpart.toNat).ckPhase != 0 then sendBusy s f
  else if f.kind = 7 then serveMst s f
  else if 2 < f.op.toNat then sendAnswer s f 3 [] 0
  else serveRequest s f

/-- INCARNATION_NOTICE (R392): the device manager learns another device's incarnation; the streams of its earlier ones are
over. -/
def execIncarnationNotice (dev part inc : Nat) (s : State) : Res :=
  .next { s with
    streams := s.streams.filter fun x => !(x.sdev == dev && x.spart == part && x.sinc != inc % 256)
    incs := ((dev, part), BitVec.ofNat 8 inc) :: s.incs.filter fun x => x.1 != (dev, part) }

end Sys2Proof.Machine
end

