-- ==== Sys2Proof/Machine/Routing.lean ====
section
/-! DEFINITION. The routing engine (R407 to R424): major 0x31, the sending of items and their delivery. -/
namespace Sys2Proof.Machine

/-! ## The sending side of a partition on a die -/

/-- The sending side; one that was never opened is closed, with counters at zero. -/
def sideOf (s : State) (part die : Nat) : RSide :=
  (s.sides.find? fun x => x.part == part && x.die == die).getD
    { part := part, die := die, isOpen := false, map := [], lists := [], counters := Vector.replicate 6 0, going := none,
      delivered := 0, queue := [] }

/-- Replace a sending side. -/
def setSide (s : State) (x : RSide) : State :=
  { s with sides := s.sides.filter (fun y => !(y.part == x.part && y.die == x.die)) ++ [x] }

/-- The side of the running context. -/
def State.side (s : State) : RSide := sideOf s s.c.part (dieOfCore s.c.core)

/-- Count in a counter of R413. -/
def RSide.count (x : RSide) (i : Nat) : RSide :=
  { x with counters := x.counters.setIfInBounds i (x.counters[i]?.getD 0 + 1) }

/-- The operation of a context has been taken: another one may be. -/
def leaveSide (part die id : Nat) (t : State) : State :=
  let x := sideOf t part die
  if x.queue.contains id then setSide t { x with queue := x.queue.filter fun i => i != id } else t

/-- An operation of the sending side: while an `rt.go` is in flight, or earlier operations wait, it waits its turn, and it keeps
its place until it has ended or its send is in flight (R423). -/
def atSide (s : State) (k : State → RSide → Res) : Res :=
  let x := s.side
  let me := s.c.id
  let q := x.queue.filter fun i => i == me || (s.ctx? i).any fun c => c.hold.isSome
  let q := if q.contains me then q else q ++ [me]
  if (x.going.any fun i => i != me && (s.ctx? i).isSome) || q.headD me != me then
    .next (holdAt (setSide s { x with queue := q }) 0 [])
  else
    let x := { x with queue := q }
    match k (setSide s x) x with
    | .next t =>
      .next (if t.c.alive && t.c.id == me && t.c.hold.isSome && (sideOf t s.c.part (dieOfCore s.c.core)).going.isNone then t
        else leaveSide s.c.part (dieOfCore s.c.core) me t)
    | r => r

/-! ## The header of an item (R409) -/

/-- Expert, rank, token, gate and second choice of a header. -/
def hdrExp (h : BitVec 128) : Nat := nbits h.toNat 0 8
def hdrRank (h : BitVec 128) : Nat := nbits h.toNat 8 2
def hdrSec (h : BitVec 128) : Nat := nbits h.toNat 64 8

/-- The header of a routing word, for a sender's device. -/
def headerOf (dev : Nat) (w : Word) : BitVec 128 :=
  let g := fun lo n => nbits w.toNat lo n
  BitVec.ofNat 128 (g 0 8 + g 48 6 * 2 ^ 10 + dev % 2 ^ 16 * 2 ^ 16 + g 16 16 * 2 ^ 32 + g 32 16 * 2 ^ 48 + g 8 8 * 2 ^ 64)

/-- The header of a re-queued item (R412): expert and second choice exchanged, rank 1. -/
def swapHeader (h : BitVec 128) : BitVec 128 :=
  BitVec.ofNat 128 (h.toNat - hdrExp h - hdrRank h * 2 ^ 8 - hdrSec h * 2 ^ 64 + hdrSec h + 2 ^ 8 + hdrExp h * 2 ^ 64)

/-- Whether an item has a second choice (R408). -/
def hasSecond (x : RSide) (h : BitVec 128) : Bool := decide (hdrSec h < x.map.length) && hdrSec h != hdrExp h

/-! ## Delivery at the receiver (R411) -/

/-- The bytes that an item writes at the start of its slot. -/
def itemBytes (h : BitVec 128) (payload : List Byte) : List Byte :=
  leBytes 16 h.toNat ++ List.replicate 48 0 ++ padTo 512 payload

/-- Whether every page of a slot can be written by its partition, here (R411): one that a block in SWITCH keeps busy can. -/
def slotOk (s : State) (part va size : Nat) : Bool :=
  (List.range (size / 4096 + 2)).all fun i =>
    let a := if i = 0 then va else va / 4096 * 4096 + 4096 * i
    if va + size ≤ a then true else
    match resolve s (engineAgent part) .store a 1 with
    | .ok (.near _, _) => true
    | .ok (.far _ _ _, _) => false
    | .error c => c == busyCause

/-- Write an item's bytes line by line; the watchpoints of R457 see them. A page of another device lies outside the
receiving partition. -/
def writeItem (s : State) (part who va : Nat) (bs : List Byte) : Nat → R Unit
  | 0 => .ok () s
  | n + 1 =>
    let i := bs.length / 64 - (n + 1)
    let line := (bs.drop (64 * i)).take 64
    match resolve s (engineAgent part) .store (va + 64 * i) 64, storeMem s (engineAgent part) (va + 64 * i) line with
    | .ok (.far _ _ _, s), _ => .trap 0x08 s
    | .ok (.near p, _), .ok _ s => writeItem (match p.pa with | some pa => watchWrite s pa 64 who | none => s) part who va bs n
    | .error _, .ok _ s => writeItem s part who va bs n
    | _, .trap c s => .trap c s
    | _, .hold s => .hold s

/-- Apply an item to the buffer that its expert is bound to: the answer's OP, or none while a page of the slot is in
SWITCH. -/
def applyItem (s : State) (sdev part : Nat) (h : BitVec 128) (payload : List Byte) : Option Nat × State :=
  match s.bufs.find? fun b => b.part == part && b.expert == some (hdrExp h) && b.home == s.dev with
  | none => (some 3, s)
  | some b =>
    if bufFree b = 0 then (some 3, s) else
    let va := b.base + b.rpos * 2 ^ b.lgsz
    let bs := itemBytes h payload
    if !slotOk s part va (2 ^ b.lgsz) then (some 3, s.postEvent part 10 0 b.n) else
    match writeItem s part (watchWho sdev part 0 1) va bs (bs.length / 64) with
    | .ok _ s =>
      let b' := reserveN b 0 1
      (some 0, storeBuf s { b' with slots := b'.slots.set b.rpos .filled })
    | .hold _ => (none, s)
    | .trap _ _ => (some 3, s.postEvent part 10 0 b.n)

/-! ## Answers at the sender's engine (R412, R421) -/

/-- Append an item to the list of the device of its expert. -/
def appendItem (x : RSide) (it : RItem) : RSide :=
  let dev := x.map.getD (hdrExp it.header) 0
  { x with lists := updFirst (fun l => l.1 == dev) (fun l => (l.1, l.2 ++ [it])) x.lists }

/-- What an answer does to an item that has left its list: OP of R421, or 5 for no answer in time. -/
def itemAnswered (x : RSide) (it : RItem) (op : Nat) : RSide :=
  let second := hdrRank it.header == 1
  match op with
  | 0 => { (x.count (if second then 2 else 1)) with delivered := x.delivered + 1 }
  | 3 =>
    let x := x.count 4
    if !second && hasSecond x it.header then
      appendItem x { it with header := swapHeader it.header, tag := none, got := [], rd := none, data := none }
    else x.count 3
  | _ => x.count 3

/-- Take the item with a tag out of a side's lists. -/
def pullItem (x : RSide) (tag : Nat) : Option (RItem × RSide) :=
  match (x.lists.flatMap Prod.snd).find? fun it => it.tag == some tag with
  | none => none
  | some it => some (it, { x with lists := x.lists.map fun l => (l.1, l.2.filter fun y => y.tag != some tag) })

/-! ## Sending (R410, R419, R420) -/

/-- The engine as it reads a payload: its partition, at the core that appended the item. -/
def itemAgent (part core : Nat) : Agent := { part := part, core := core, devl := false, seq := false, unit := 2 }

/-- What a step of reading a payload finds: a line more, a line still to come, or a fault. -/
inductive Got where
  | more (s : State) (it : RItem)
  | blocked
  | fault (s : State)

/-- Read the next line of an item's payload. -/
def readLine (s : State) (part : Nat) (it : RItem) : Got :=
  let va := it.payload + it.got.length
  match it.rd, it.data with
  | some _, none => .blocked
  | some _, some a =>
    if a.st = 0 then .more s { it with got := it.got ++ leBytes 64 a.val, rd := none, data := none } else .fault s
  | none, _ =>
    match resolve s (itemAgent part it.core) .load va 64 with
    | .error c => if c = busyCause then .blocked else .fault s
    | .ok (.near p, s) =>
      if poisoned s p.key 64 then .fault s else .more (cacheRead s (itemAgent part it.core) p 64) { it with got := it.got ++ readPlace s p 64 }
    | .ok (.far dev pa kind, s) =>
      if dev = s.dev then
        match farAccess s (itemAgent part it.core) dev pa kind 64 0 0 8 0 0 [] with
        | .ok v s => .more s { it with got := it.got ++ leBytes 64 v }
        | .hold _ => .blocked
        | .trap _ s => .fault s
      else
        let r := sendRequest s engineId part dev (accessFlit (kind == 0) pa 64 0 0 [])
        .more r.1 { it with rd := some r.2 }

/-- The flit of an item (R420). -/
def itemFlit (it : RItem) : Flit :=
  { blankFlit with kind := 6, len := 512, opd := it.header.setWidth 192, payload := it.got }

/-- Replace the first unsent item of list i, or take it out. -/
def putItem (x : RSide) (i : Nat) (it : Option RItem) : RSide :=
  { x with lists := x.lists.modify i fun l =>
      (l.1, match it with
        | some it => updFirst (fun y => y.tag.isNone) (fun _ => it) l.2
        | none => l.2.eraseP fun y => y.tag.isNone) }

/-- An item for this device goes through the loopback: it takes a reservation and travels no link (R420). -/
def loopItem (s : State) (part : Nat) (f : Flit) : State × Nat :=
  let tag := s.nextTag
  let f := { f with ddev := BitVec.ofNat 16 s.dev, sdev := BitVec.ofNat 16 s.dev, dpart := BitVec.ofNat 6 part,
                    spart := BitVec.ofNat 6 part, tag := BitVec.ofNat 32 tag }
  ({ s with
      nextTag := (tag + 1) % 2 ^ 32
      resvs := s.resvs ++ [{ tag := tag, ctx := engineId, flit := f, start := s.now, busyUntil := none }] }, tag)

/-- One step of list i: its first unsent item is read further, sent, or dropped; none when the list has nothing to do. -/
def stepList (s : State) (part die i : Nat) : Option State :=
  let x := sideOf s part die
  match x.lists[i]? with
  | none => none
  | some l =>
    match l.2.find? fun y => y.tag.isNone with
    | none => none
    | some it =>
      if it.got.length < 512 then
        match readLine s part it with
        | .blocked => none
        | .more s it => some (setSide s (putItem x i (some it)))
        | .fault s => some (setSide s (((putItem x i none).count 3).count 5))
      else
        let r := if l.1 = s.dev then loopItem s part (itemFlit it) else sendRequest s engineId part l.1 (itemFlit it)
        some (setSide r.1 (putItem x i (some { it with tag := some r.2 })))

/-- The lists take steps, in list order, until each has nothing to do. -/
def pumpSide (s : State) (part die : Nat) : Nat → State
  | 0 => s
  | n + 1 =>
    match (List.range (sideOf s part die).lists.length).findSome? fun i => stepList s part die i with
    | none => s
    | some s => pumpSide s part die n

/-- Items in a side's lists. -/
def RSide.items (x : RSide) : Nat := (x.lists.map fun l => l.2.length).sum

/-- Let an `rt.go` send what it can. -/
def sendSide (s : State) (part die : Nat) : State := pumpSide s part die (40 * (sideOf s part die).items)

/-! ## The instructions -/

/-- Devices of a map in the order in which they first appear (R419). -/
def mapDevices (m : List Nat) : List Nat := m.foldl (fun l d => if l.contains d then l else l ++ [d]) []

/-- Whether a device address lies inside the domain's extents (R369). -/
def inDomain (s : State) (d : Nat) : Bool := decide (devT1 d < s.e1) && decide (devT2 d < s.e2)

/-- `rt.open`. -/
def execRtOpen (f : H3) (s : State) : Res :=
  atSide s fun s x =>
    let a := s.reg f.a.toNat
    let n := s.num f.b
    if n < 1 || 256 < n || a.toNat % 64 ≠ 0 then writeReg s f.d.toNat 1
    else if x.isOpen then writeReg s f.d.toNat 2
    else endLines (loadLines s s.agent a.toNat (ceilDiv (2 * n) 64)) a fun bs s =>
      let m := (List.range n).map fun i => fieldAt bs (2 * i) 2
      if !m.all (inDomain s) then (s.setReg f.d.toNat 3).adv
      else
        let x := { x with isOpen := true, map := m, lists := (mapDevices m).map fun d => (d, []),
                          counters := Vector.replicate 6 0, delivered := 0 }
        ((setSide s x).setReg f.d.toNat 0).adv

/-- A buffer of a routing instruction: `k` is given its binding, unless its object is cut off: then DST takes all ones (R45), and
`ws` stays as R424 has it (log 61). -/
def atExpertBuffer (f : H3) (s : State) (k : Buf → Res) : Res :=
  let n := f.imm.toNat % 256
  match bufOf s s.c.part n with
  | none => .next (numberTrap s n)
  | some b => if fabricCut s (b.reach s) then writeReg s f.d.toNat ones else k b

/-- Ask another device's home about an expert binding; the instruction writes no `ws`. -/
def askExpert (s : State) (b : Buf) (d what arg : Nat) : Res :=
  .next (askHome s b.homeRec 4 (.buf s.c.part b.n) (.query what arg) (.result d) s.now (s.now + lossTicks))

/-- `rt.open.rx`. -/
def execRtOpenRx (f : H3) (s : State) : Res :=
  atExpertBuffer f s fun b =>
    if b.home ≠ s.dev then askExpert s b f.d.toNat 3 (s.num f.a)
    else let r := bindExpert s b (s.num f.a); writeReg r.2 f.d.toNat (wd r.1)

/-- `rt.close.rx`. -/
def execRtCloseRx (f : H3) (s : State) : Res :=
  atExpertBuffer f s fun b =>
    if b.home ≠ s.dev then askExpert s b f.d.toNat 4 0
    else let r := unbindExpert s b; writeReg r.2 f.d.toNat (wd r.1)

/-- `rt.add`. -/
def execRtAdd (f : H3) (s : State) : Res :=
  atSide s fun s x =>
    let w := s.reg f.b.toNat
    let a := s.num f.a
    let e := w.toNat % 256
    let full := (x.lists.find? fun l => l.1 == x.map.getD e 0).any fun l => decide (1024 ≤ l.2.length)
    if !x.isOpen then writeReg s f.d.toNat 1
    else if x.map.length ≤ e || nbits w.toNat 54 10 ≠ 0 then writeReg s f.d.toNat 2
    else if full then writeReg s f.d.toNat 3
    else if a % 64 ≠ 0 then writeReg s f.d.toNat 4
    else
      let it : RItem := { payload := a, core := s.c.core, header := headerOf s.dev w, got := [], rd := none, data := none, tag := none }
      writeReg (setSide s ((appendItem x it).count 0)) f.d.toNat 0

/-- Go on with an `rt.go` in flight: it ends when the lists are empty. -/
def goOn (f : H3) (s : State) : Res :=
  let s := sendSide s s.c.part (dieOfCore s.c.core)
  let x := s.side
  if x.items = 0 then writeReg (setSide s { x with going := none, delivered := 0 }) f.d.toNat (wd x.delivered)
  else .next (holdAt s 1 [])

/-- `rt.go`: a release at fabric scope, then the send. -/
def execRtGo (f : H3) (s : State) : Res :=
  if s.side.going = some s.c.id then goOn f s else
  atSide s fun s x =>
    if !x.isOpen then writeReg s f.d.toNat 0
    else if fillsOut s then .next (holdAt s 0 [])
    else goOn f (setSide (releaseAt s 4) { x with going := some s.c.id, delivered := 0 })

/-- `rt.recv`. -/
def execRtRecv (f : H3) (s : State) : Res :=
  let n := f.imm.toNat % 256
  let dl := s.num f.dl
  if beyondHorizon s dl then .next (horizonTrap s dl) else
  match bufOf s s.c.part n with
  | none => .next (numberTrap s n)
  | some b =>
    if b.home = s.dev && b.expert.isNone then .next (numberTrap s n)
    else if fabricCut s (b.reach s) then .next (endCut s f.d.toNat f.b.toNat)
    else .next (askHome s b.homeRec (b.reach s) (.buf s.c.part n) (.cbRecv (f.imm.toNat / 256) dl true)
      (.plain f.d.toNat f.b.toNat) dl (servedLimit s dl (b.reach s)))

/-- `rt.stat`. -/
def execRtStat (f : H3) (s : State) : Res :=
  atSide s fun s x =>
    let i := s.num f.a
    writeReg s f.d.toNat (if 5 < i then ones else x.counters[i]?.getD 0)

/-- `rt.close`. -/
def execRtClose (f : H3) (s : State) : Res :=
  atSide s fun s x =>
    if !x.isOpen then writeReg s f.d.toNat 1
    else writeReg (setSide s { x with isOpen := false, lists := [] }) f.d.toNat 0

/-! ## The steps of the engine -/

/-- An answer to a sent item: OP of R421, or 5 when none has come in time. -/
def routingAnswer (s : State) (part die tag op : Nat) : State :=
  match pullItem (sideOf s part die) tag with
  | none => s
  | some r => setSide (giveAns s tag { st := op, val := 0 }) (itemAnswered r.2 r.1 op)

/-- ROUTING_ANSWER: an answer is there only while the item's reservation stands (R391). -/
def execRoutingAnswer (part die tag op : Nat) (s : State) : Res :=
  .next (if s.resvs.any fun r => r.tag == tag then routingAnswer s part die tag op else s)

/-- The sending side that waits for a tag. -/
def sideWith (s : State) (tag : Nat) : Option RSide :=
  s.sides.find? fun x => (x.lists.flatMap Prod.snd).any fun it => it.tag == some tag

/-- An answer to a request of this device, whoever sent it. -/
def takeReply (s : State) (tag : Nat) (a : FAns) : State :=
  match sideWith s tag with
  | some x => routingAnswer s x.part x.die tag a.st
  | none => giveAns s tag a

/-- What the receiving side does with an item of the loopback (R411, R420): none while a page of the slot is in SWITCH. -/
def loopAnswer (s : State) (f : Flit) : Option State :=
  let part := f.dpart.toNat
  let r := if beforeStopMoment s part then applyItem s s.dev part (f.opd.setWidth 128) f.payload else (some 2, s)
  r.1.map fun op => takeReply r.2 f.tag.toNat { st := op, val := 0 }

/-- The first item of the loopback of each partition, at the end of a cycle, after its frees (R59, R166). -/
def loopDue (s : State) : Option Flit :=
  (s.resvs.find? fun r => r.flit.kind == 6 && r.flit.ddev.toNat == s.dev && (loopAnswer s r.flit).isSome &&
    ((s.resvs.find? fun q => q.flit.kind == 6 && q.flit.ddev.toNat == s.dev && q.flit.spart == r.flit.spart).map Resv.tag) == some r.tag).map
      Resv.flit

/-- FABRIC_ANSWER (R391, R392). -/
def execFabricAnswer (f : Flit) (s : State) : Res :=
  let tag := f.tag.toNat
  if f.kind ≠ 2 || f.ddev.toNat ≠ s.dev || !freshAnswer s f || !(s.resvs.any fun r => r.tag == tag) then .next s
  else if f.op = 1 then .next (markBusy s tag f.retry.toNat f.oseq)
  else if s.resvs.any fun r => r.tag == tag && r.msg.isSome then .next s
  else .next (takeReply s tag { st := f.op.toNat, val := flitData f })

/-- The packets of a request that has timed out wait for a route no longer (R387). -/
def dropStrays (s : State) (tag : Nat) : State :=
  if s.unrouted.isEmpty then s else
  s.withStrays (s.unrouted.filter fun q => !(q.2.sdev.toNat == s.dev && q.2.kind != 2 && q.2.tag.toNat == tag))

/-- REQUEST_TIMEOUT (R391): no answer has come within 2^16 ticks. -/
def execRequestTimeout (tag : Nat) (s : State) : Res :=
  .next (match s.resvs.find? fun r => r.tag == tag && resvOver s r with
    | some r =>
      let s := match r.host with
        | some o => hostOutcome s tag o 5 0
        | none => s
      takeReply (dropStrays s tag) tag { st := 5, val := 0 }
    | none => s)

end Sys2Proof.Machine
end

