-- ==== Sys2Proof/Machine/Streams.lean ====
section
/-! DEFINITION. The order of a stream's requests at their destination (R389, R392): FABRIC_REQUEST and
ROUTING_ITEM_DELIVERY. -/
namespace Sys2Proof.Machine

/-- Whether a flit is a routing item for this device. -/
def isItemHere (s : State) (f : Flit) : Bool := f.kind == 6 && f.ddev.toNat == s.dev

/-- Whether an item waits for the end of the cycle: its buffer is full, and a `cb.free` of this cycle is performed first (R166,
R411). -/
def itemWaits (s : State) (f : Flit) : Bool :=
  f.kind == 6 && s.cursor != cycleGrants && takesFor s f && s.bufs.any fun b =>
    b.part == f.dpart.toNat && b.expert == some (hdrExp (f.opd.setWidth 128)) && b.home == s.dev && bufFree b == 0

/-- Put a routing item into its slot (R411 to R416). While a page of the slot is in SWITCH, or a checkpoint runs, and behind a
request of its stream that was answered busy, it is answered busy (R390, R478). -/
def performItem (s : State) (f : Flit) : State :=
  if behindBusy s f || (s.part f.dpart.toNat).ckPhase ≠ 0 || itemWaits s f then sendBusy s f else
  match applyItem s f.sdev.toNat f.dpart.toNat (f.opd.setWidth 128) f.payload with
  | (none, _) => sendBusy s f
  | (some op, s) => sendAnswer s f op [] 0

/-- Perform a request whose turn has come: of a partition that is not LIVE in its incarnation it is answered GONE (R392), unless
it is part of a store that had come before the stop moment (R428). -/
def performFlit (s : State) (f : Flit) : State :=
  let p := f.dpart.toNat
  if !takesFor s f && !isDue s p (.fabricRequest f) then sendAnswer s f 2 [] 0 else
  let s := takeDue s p (.fabricRequest f)
  if f.kind = 6 then performItem s f else performRequest s f

/-- Perform the requests of a stream that have come, in OSEQ order, up to the first that has not (R389). -/
def drainStream (s : State) (key : Flit) : Nat → State
  | 0 => s
  | n + 1 =>
    let x := streamOf s key
    let x' := { x with next := x.next + 1, ahead := x.ahead.filter fun f => f.oseq != x.next }
    match x.ahead.find? fun f => f.oseq == x.next with
    | some f => if itemWaits s f then s else drainStream (performFlit (setStream s x') f) key n
    | none => if x.has x.next then drainStream (setStream s x') key n else s

/-- Answer a duplicate again (R389); of a multicast store only the last flit and a refused one have an answer of their own. -/
def answerAgain (s : State) (f a : Flit) : State :=
  if f.kind = 7 && f.fn ≠ 1 && a.op = 0 then s else sendFlit s f.dpart.toNat a

/-- A request comes in. One that was performed is answered again, one that was answered busy is performed now, one for a
partition that is not there is answered GONE at once (R392), and any other waits for those before it (R389). -/
def arriveFlit (s : State) (f : Flit) : State :=
  let x := streamOf s f
  let go := fun (s : State) => drainStream s f (x.ahead.length + x.seen.length + x.met.length + 2)
  match x.seen.find? fun y => y.1 == f.oseq.toNat with
  | some y => if y.2.op = 1 then performFlit s f else answerAgain s f y.2
  | none =>
    if x.ahead.any (fun g => g.oseq == f.oseq) then go s
    else if seqBefore f.oseq x.next then s
    else if !takesFor s f then go (sendAnswer s f 2 [] 0)
    else go (setStream s { x with ahead := x.ahead ++ [f] })

/-- FABRIC_REQUEST. -/
def execFabricRequest (f : Flit) (s : State) : Res := .next (if isRequestHere s f then arriveFlit s f else s)

/-- ROUTING_ITEM_DELIVERY: from another device, or from the loopback while the item's reservation stands. -/
def execRoutingItemDelivery (f : Flit) (s : State) : Res :=
  .next (if !isItemHere s f then s
    else if f.sdev.toNat ≠ s.dev then arriveFlit s f
    else if s.resvs.any fun r => r.flit == f then (loopAnswer s f).getD s
    else s)

end Sys2Proof.Machine
end

