-- ==== Sys2Proof/Machine/Tcache.lean ====
section
/-! DEFINITION. Tensor windows and the tile-cache instructions: major 0x2E (R187 to R190, R253 to R259). -/
namespace Sys2Proof.Machine

/-! ## Windows (R187) -/

/-- Whether dimensions are dense from a size on. -/
def denseFrom (size : Nat) : List Dim → Bool
  | [] => true
  | x :: t => (x.ext == 1 || x.str == (size : Int)) && denseFrom (size * x.ext) t

/-- Bytes of a dense descriptor. -/
def Desc.size (d : Desc) : Nat := d.bytes * d.count

/-- Row length R0 and the extent of dimension 1. -/
def Desc.r0 (d : Desc) : Nat := d.bytes * ((d.dims[0]?.map Dim.ext).getD 1)
def Desc.ext1 (d : Desc) : Nat := (d.dims[1]?.map Dim.ext).getD 1

/-- The number of a 4 KiB page of a remote frame among all pages: past those of this device and its host. -/
def farPage (frame off : Nat) : Nat := 2 ^ 48 + frame * 16 + off / 4096

/-- The page at a virtual address, and whether its leaf allows a window. -/
def windowPage (s : State) (va : Nat) : Option (Nat × Bool) :=
  if 2 ^ 56 ≤ va || nbits va 48 8 = 0xFE then none else
  match walkFrom s s.agent .load va s.myPart.root [4, 3, 2, 1, 0] with
  | .fault _ => none
  | .leaf e _ _ =>
    let off := va % 2 ^ pageBits (eSize e)
    if eRMT e then some (farPage (eFrame e) off, eTW e)
    else some (eFrame e + off / 4096, eTW e && physOk s s.agent (eFrame e * 4096 + off) 4096)

/-- The pages of a range, n of them from a virtual address on: physical and virtual page numbers, and whether the page can
hold a window; none where there is no valid translation. -/
def windowPages (s : State) (va : Nat) : Nat → List (Option (Nat × Nat × Bool))
  | 0 => []
  | n + 1 => ((windowPage s va).map fun p => (p.1, va / 4096, p.2)) :: windowPages s (va + 4096) n

/-- The window of a tensor id. -/
def winById (s : State) (id : Nat) : Option Win := s.wins.find? fun w => w.part == s.c.part && w.id == id

/-- The result of `tc.reg` (R254), and the pages when it is 0. -/
def regResult (s : State) (d : Desc) (id s0 : Nat) : Nat × List (Nat × Nat) :=
  let mine := s.wins.filter fun w => w.part == s.c.part
  if id = 0 || mine.any fun w => w.id == id then (1, [])
  else if d.space ≠ 0 || !denseFrom d.bytes d.dims then (2, [])
  else if d.r0 % s0 ≠ 0 || d.ext1 % (512 / s0) ≠ 0 then (3, [])
  else
    let ps := windowPages s (d.base / 4096 * 4096) ((d.base % 4096 + d.size + 4095) / 4096)
    let found := ps.filterMap fun p => p
    if found.any fun p => mine.any fun w => w.pages.any fun q => q.1 == p.1 then (4, [])
    else if !(ps.all fun p => p.any fun q => q.2.2) then (5, [])
    else if 256 ≤ mine.length then (6, [])
    else (0, found.map fun p => (p.1, p.2.1))

/-- `tc.reg`. -/
def execTcReg (f : H3) (s : State) : Res :=
  let id := s.num f.b % 2 ^ 16
  let s0 := 128 * 2 ^ (f.imm.toNat % 4)
  match s.c.desc f.a.toNat with
  | none => .next (illegal s)
  | some d => releasing s 3 fun s =>
    let r := regResult s d id s0
    let w : Win := {
      part := s.c.part, id := id, base := d.base, size := d.size, desc := s.c.descImg f.a.toNat, r0 := d.r0, ext1 := d.ext1
      s0 := s0, gen := 0, pages := r.2 }
    writeReg (if r.1 = 0 then { s with wins := s.wins ++ [w] } else s) f.d.toNat (wd r.1)

/-- Whether a line is one of a window's tensor. -/
def Win.has (w : Win) (k : TcKey) : Bool := k.part == w.part && k.ten == w.id

/-- An instruction on the window of the tensor id in A, once the context's earlier accesses have been performed at package
scope (R256): 1 when there is none, else 0 and its effect. -/
def onWindow (f : H3) (s : State) (k : Win → State → State) : Res := releasing s 3 fun s =>
  match winById s (s.num f.a % 2 ^ 16) with
  | none => writeReg s f.d.toNat 1
  | some w => writeReg (k w s) f.d.toNat 0

/-- Whether a dirty line of a window's tensor lies in a block whose SWITCH refuses its write-back. -/
def tensorBusy (s : State) (w : Win) : Bool := s.stale.any fun x => x.tile.part == w.part && x.tile.ten == w.id && busySec s x.sec

/-- The same for an instruction that writes the tensor's dirty lines back: it waits for the end of a SWITCH (R233, R255). -/
def onClean (f : H3) (s : State) (k : Win → State → State) : Res :=
  if (winById s (s.num f.a % 2 ^ 16)).any (tensorBusy s) then .next s else onWindow f s k

/-- Remove a window of a partition. -/
def dropWin (s : State) (part id : Nat) : State :=
  { s with wins := s.wins.filter fun w => !(w.part == part && w.id == id) }

/-- Write back the dirty lines of a window's tensor (R255). -/
def cleanTensor (s : State) (w : Win) : State := writeBack s fun x => w.has x.tile

/-- `tc.drop` (R188, R255): dirty lines are written back first, and every line of the tensor is invalidated. -/
def execTcDrop (f : H3) (s : State) : Res :=
  onClean f s fun w s =>
    let s := cleanTensor s w
    dropWin { s with tcl := s.tcl.filter fun l => !w.has l.tile, l1 := s.l1.filter fun y => !w.has y.tile } w.part w.id

/-- `tc.inv` (R189, R255): dirty data is discarded, the L1s drop the tensor, lines left from the generation that comes are
reclaimed, and the generation advances. -/
def execTcInv (f : H3) (s : State) : Res :=
  onWindow f s fun w s =>
    let s := discard s fun x => w.has x.tile
    let g := (w.gen + 1) % 16
    { s with
      l1 := s.l1.filter fun y => !w.has y.tile, tcl := s.tcl.filter fun l => !(w.has l.tile && l.tile.gen == g)
      wins := updFirst (fun x => x.part == w.part && x.id == w.id) (fun x => { x with gen := g }) s.wins }

/-- `tc.cln` (R255). -/
def execTcCln (f : H3) (s : State) : Res := onClean f s fun w s => cleanTensor s w

/-! ## `tc.pf` (R190, R257) -/

/-- The neighbours of a tile along dimension k. -/
def neighbours (w : Win) (d : Desc) (tile k : Nat) : List Nat :=
  let nt0 := w.r0 / w.s0
  let nt1 := w.ext1 / (512 / w.s0)
  let ext := fun i => (d.dims[i]?.map Dim.ext).getD 1
  let inner := ((List.range (k - 2)).map fun i => ext (i + 2)).foldl (· * ·) 1
  let step := if k = 0 then 1 else if k = 1 then nt0 else nt0 * nt1 * inner
  let count := if k = 0 then nt0 else if k = 1 then nt1 else ext k
  let at_ := tile / step % count
  (if 0 < at_ then [tile - step] else []) ++ if at_ + 1 < count then [tile + step] else []

/-- Fetch a tile of a window into its home slice, if it has one. DESIGN CHOICE (log 62): a tile whose sectors lie in stacks of
both dies is fetched on the die of its first sector; an access goes to the home slice on the die of its own sector. -/
def fetchTile (w : Win) (s : State) (tile : Nat) : State :=
  match (w.paOf (w.sectorOf tile 0)).filter fun pa => decide (pa < hbmEnd) with
  | none => s
  | some pa =>
    let k : TcKey := { part := w.part, ten := w.id, gen := w.gen, tile := tile }
    let die := homePort ((frameSkew s pa).getD 0) pa / 128
    if (tcSlot s k die).isSome then touchTile s k die 8 512 else s

/-- `tc.pf`: a hint that performs no observable access. -/
def execTcPf (f : H3) (s : State) : Res :=
  let va := s.num f.a
  match s.wins.find? fun w => w.part == s.c.part && decide (w.base ≤ va) && decide (va < w.base + w.size) with
  | none => .next s.adv
  | some w =>
    match resolve s s.agent .load va 1, parseDesc w.desc with
    | .ok _, some d => .next ((neighbours w d (w.tileOf (va - w.base)) (f.imm.toNat % 16)).foldl (fetchTile w) s).adv
    | _, _ => .next s.adv

/-! ## `tc.halo` (R258, R259) -/

/-- The window whose range holds an address, with its descriptor. -/
def winAt (s : State) (va : Nat) : Option (Win × Desc) :=
  (s.wins.filter fun w => w.part == s.c.part).findSome? fun w =>
    match parseDesc w.desc with
    | some d => if d.base ≤ va ∧ va < d.base + d.size then some (w, d) else none
    | none => none

/-- The addresses of the elements of a halo in output order, none where the element is zero. -/
def haloAddrs (w : Win) (d : Desc) (va wide high : Nat) : List (Option Nat) :=
  let x := va - d.base
  let rows := 512 / w.s0
  let per := w.s0 / d.bytes
  let r := x / d.r0
  let t0 := x % d.r0 / w.s0
  let t1 := r % d.ext1 / rows
  let hi := r / d.ext1
  match d.dims with
  | d0 :: d1 :: _ =>
    (List.range (rows + 2 * high)).flatMap fun i =>
      (List.range (per + 2 * wide)).map fun c =>
        match boundIdx ((t1 * rows + i : Nat) - (high : Int)) d1, boundIdx ((t0 * per + c : Nat) - (wide : Int)) d0 with
        | some y, some x => some (d.base + (hi * d.ext1 + y) * d.r0 + x * d.bytes)
        | _, _ => none
  | _ => []

/-- The first source element that cannot be read, with its cause. -/
def haloFault (s : State) (n : Nat) (l : List (Option Nat)) : Option (Nat × Nat) :=
  l.findSome? fun a => a.bind fun a =>
    match resolve s s.agent .load a n with
    | .error c => if c = busyCause then none else some (c, a)
    | .ok _ => if watchHit s s.c.part .load a n then some (0x0F, a) else none

/-- Read the elements of a halo after those gathered; a failure names its address. -/
def haloRead (s : State) (n : Nat) (got : List Word) : List (Option Nat) → R (List Word) × Nat
  | [] => (.ok got s, 0)
  | none :: t => haloRead s n (got ++ [0]) t
  | some a :: t =>
    match loadMem s s.agent a n with
    | .ok bs s => haloRead s n (got ++ [wd (leNat bs)]) t
    | .trap c s => (.trap c s, a)
    | .hold s => (.hold (holdFields s got a), 0)

/-- Write bytes into the seat's scratchpad share from an offset on (R180). -/
def haloWrite (s : State) (off : Nat) (bs : List Byte) : State :=
  unpoison { s with mem := setCells s.mem (keyCore s.c.core off) bs } (keyCore s.c.core off) bs.length

/-- `tc.halo`. -/
def execTcHalo (f : H3) (s : State) : Res :=
  let va := s.num f.a
  let off := s.num f.b
  let wide := f.imm.toNat % 256
  let high := nbits f.imm.toNat 8 4
  match winAt s va with
  | none => .next (trapAt s 0x08 (wd va))
  | some (w, d) =>
    if w.s0 < wide * d.bytes || 512 / w.s0 < high then .next (illegal s) else
    let addrs := haloAddrs w d va wide high
    let t := s.mySeat
    let lo := t.pos * 0xC0000
    if off % 64 ≠ 0 || off < lo || lo + t.size * 0xC0000 < off + addrs.length * d.bytes then .next (trapAt s 0x08 (wd off))
    else match haloFault s d.bytes addrs with
    | some (c, a) => .next (trapAt (faultWalk s s.agent (sluiceFor s s.agent a)) c (wd a))
    | none =>
      if watchHit s s.c.part .store (windowAddr 1 off) (addrs.length * d.bytes) then .next (trapAt s 0x0F (wd (windowAddr 1 off)))
      else match haloRead s d.bytes (gathered s) (addrs.drop (gathered s).length) with
      | (.hold s, _) => .next s
      | (.trap c s, a) => .next (if c = 0x0C then trapVector s c 2 0 (wd a) none else trapAt s c (wd a))
      | (.ok vs s, _) => .next (haloWrite s off (vs.flatMap fun v => leBytes d.bytes v.toNat)).adv

end Sys2Proof.Machine
end

