-- ==== Sys2Proof/Machine/VecMask.lean ====
section
/-! DEFINITION. Mask logic: major 0x1D (R331). -/
namespace Sys2Proof.Machine

/-- A mask with its bits below n taken from another. -/
def mergeMask (n old new : Nat) : Nat := old / 2 ^ n * 2 ^ n + new % 2 ^ n

/-- Bits of a mask below n inverted. -/
def notMask (n x : Nat) : Nat := 2 ^ n - 1 - x % 2 ^ n

/-- The checks of R307 that a mask instruction meets at run time. -/
def maskIssue (s : State) (k : State) : Res := if s.c.vill then .next (illegal s) else .next k.adv

/-- An instruction that writes a mask: `op` is given `vl` and the two sources. With `vl` = 0 it writes nothing. -/
def maskOp (op : Nat → Nat → Nat → Nat) (f : H1) (s : State) : Res :=
  let n := s.c.vlen
  let d := f.d.toNat
  maskIssue s (if n = 0 then s
    else s.setMask d (mergeMask n (s.c.mask d) (op n (s.c.mask f.a.toNat) (s.c.mask f.b.toNat))))

/-- `mand`. -/
def execMand (f : H1) (s : State) : Res := maskOp (fun _ a b => a &&& b) f s
/-- `mor`. -/
def execMor (f : H1) (s : State) : Res := maskOp (fun _ a b => a ||| b) f s
/-- `mxor`. -/
def execMxor (f : H1) (s : State) : Res := maskOp (fun _ a b => a ^^^ b) f s
/-- `mandn`. -/
def execMandn (f : H1) (s : State) : Res := maskOp (fun n a b => a &&& notMask n b) f s
/-- `mnot`. -/
def execMnot (f : H1) (s : State) : Res := maskOp (fun n a _ => notMask n a) f s
/-- `mset`. -/
def execMset (f : H1) (s : State) : Res := maskOp (fun n _ _ => 2 ^ n - 1) f s
/-- `mclr`. -/
def execMclr (f : H1) (s : State) : Res := maskOp (fun _ _ _ => 0) f s
/-- `mmov`. -/
def execMmov (f : H1) (s : State) : Res := maskOp (fun _ a _ => a) f s

/-- The set bits of a mask below `vl`. -/
def setBits (s : State) (a : Nat) : List Nat := (List.range s.c.vlen).filter fun e => (s.c.mask a).testBit e

/-- `mpop`. -/
def execMpop (f : H1) (s : State) : Res := maskIssue s (s.setReg f.d.toNat (wd (setBits s f.a.toNat).length))

/-- `mfirst`. -/
def execMfirst (f : H1) (s : State) : Res :=
  maskIssue s (s.setReg f.d.toNat (match (setBits s f.a.toNat).head? with | some e => wd e | none => ones))

end Sys2Proof.Machine
end

