-- ==== Sys2Proof/Machine/VecRed.lean ====
section
/-! DEFINITION. Reductions and scans: major 0x1A (R287, R288, R324, R325). -/
namespace Sys2Proof.Machine

/-- The operation of a reduction by type: sum, minimum, maximum, AND, OR, XOR, with flags. -/
def redOp (op ty rm a b : Nat) : Nat × Nat :=
  let w := tyWidth ty
  if tyFloat ty then
    match op with
    | 0 => fAdd (tyFmt ty) rm a b
    | 1 => fMinMax (tyFmt ty) false a b
    | _ => fMinMax (tyFmt ty) true a b
  else match op with
    | 0 => ((a + b) % 2 ^ w, 0)
    | 1 => (minTy ty a b, 0)
    | 2 => (maxTy ty a b, 0)
    | 3 => (a &&& b, 0)
    | 4 => (a ||| b, 0)
    | _ => (a ^^^ b, 0)

/-- An ordered reduction (R287): value and flags. -/
def redOrdered (op : Nat → Nat → Nat × Nat) (r0 : Nat) (xs : List Nat) : Nat × Nat :=
  xs.foldl (fun r x => let y := op r.1 x
                       (y.1, r.2 ||| y.2)) (r0, 0)

/-- Combine two nodes of a tree. -/
def redNode (op : Nat → Nat → Nat × Nat) : Option Nat → Option Nat → Option Nat × Nat
  | some a, some b => (some (op a b).1, (op a b).2)
  | some a, none => (some a, 0)
  | none, b => (b, 0)

/-- One level of a tree: nodes 2i and 2i + 1 give node i. -/
def redLevel (op : Nat → Nat → Nat × Nat) : List (Option Nat) → List (Option Nat) × Nat
  | a :: b :: t =>
    let n := redNode op a b
    let r := redLevel op t
    (n.1 :: r.1, n.2 ||| r.2)
  | l => (l, 0)

/-- The levels of a tree of 2^n leaves: its root and the flags. -/
def redTree (op : Nat → Nat → Nat × Nat) : Nat → List (Option Nat) → Option Nat × Nat
  | 0, l => (l.headD none, 0)
  | n + 1, l =>
    let r := redLevel op l
    let t := redTree op n r.1
    (t.1, r.2 ||| t.2)

/-- Levels of the tree over n leaves. -/
def treeLevels (n : Nat) : Nat := if n ≤ 1 then 0 else (n - 1).log2 + 1

/-- A tree reduction (R288) of leaves, absent where they are none. -/
def redTreeOf (op : Nat → Nat → Nat × Nat) (r0 : Nat) (leaves : List (Option Nat)) : Nat × Nat :=
  let t := redTree op (treeLevels leaves.length) leaves
  match t.1 with
  | none => (r0, t.2)
  | some x => ((op r0 x).1, t.2 ||| (op r0 x).2)

/-- Checks of a reduction or a scan. -/
def redOk (s : State) (f : H2) : Bool := elementwiseOk s f.ty.toNat [f.d.toNat, f.a.toNat, f.b.toNat]

/-- A reduction: nothing is written when `vl` is 0 (R324). -/
def reduction (op : Nat) (tree : Bool) (f : H2) (s : State) : Res :=
  let ty := f.ty.toNat
  let w := tyWidth ty
  if !redOk s f then .next (illegal s) else
  vecRun s ty f.mask false fun _ hi =>
    if hi = 0 then s else
    let r0 := s.elem w f.b.toNat 0
    let o := redOp op ty s.rm
    let r := if tree then
        redTreeOf o r0 ((List.range hi).map fun e => if s.c.active f.mask e then some (s.elem w f.a.toNat e) else none)
      else redOrdered o r0 ((s.c.actives f.mask 0 hi).map fun e => s.elem w f.a.toNat e)
    (s.setElem w f.d.toNat 0 r.1).setFlags r.2

/-- `vrsum`. -/
def execVrsum (f : H2) (tree : Bool) (s : State) : Res := reduction 0 tree f s
/-- `vrmin`. -/
def execVrmin (f : H2) (tree : Bool) (s : State) : Res := reduction 1 tree f s
/-- `vrmax`. -/
def execVrmax (f : H2) (tree : Bool) (s : State) : Res := reduction 2 tree f s
/-- `vrand`. -/
def execVrand (f : H2) (tree : Bool) (s : State) : Res := reduction 3 tree f s
/-- `vror`. -/
def execVror (f : H2) (tree : Bool) (s : State) : Res := reduction 4 tree f s
/-- `vrxor`. -/
def execVrxor (f : H2) (tree : Bool) (s : State) : Res := reduction 5 tree f s

/-- One step of a scan: the state so far and the running value. -/
def scanStep (s0 : State) (o : Nat → Nat → Nat × Nat) (w : Nat) (f : H2) (x : State × Nat) (e : Nat) : State × Nat :=
  let r := o x.2 (s0.elem w f.a.toNat e)
  ((x.1.setElem w f.d.toNat e r.1).setFlags r.2, r.1)

/-- A scan (R325): the destination overlaps no source. -/
def scan (op : Nat) (f : H2) (s : State) : Res :=
  let ty := f.ty.toNat
  let w := tyWidth ty
  if !redOk s f || f.d == f.a || f.d == f.b then .next (illegal s) else
  vecRun s ty f.mask false fun _ hi =>
    ((s.c.actives f.mask 0 hi).foldl (scanStep s (redOp op ty s.rm) w f) (s, s.elem w f.b.toNat 0)).1

/-- `vscan.add`. -/
def execVscanAdd (f : H2) (s : State) : Res := scan 0 f s
/-- `vscan.min`. -/
def execVscanMin (f : H2) (s : State) : Res := scan 1 f s
/-- `vscan.max`. -/
def execVscanMax (f : H2) (s : State) : Res := scan 2 f s

end Sys2Proof.Machine
end

