-- ==== Sys2Proof/Machine/VecPerm.lean ====
section
/-! DEFINITION. Permute, slide, compress and exchange: major 0x1B (R31, R326 to R329), and moves, broadcast and index:
major 0x1C (R330). -/
namespace Sys2Proof.Machine

/-! ## Segments (R327) -/

/-- A segment of logical lanes: its first lane and how many. -/
structure Seg where
  lo : Nat
  n : Nat
  deriving DecidableEq, Repr

/-- The segments of a context: two when its lanes lie on both dies, the lanes of one die together in each; the
context's own die first (R31). DESIGN CHOICE (log 54): where the attached seats' dies alternate, every lane from the first
seat of the other die on is in the second segment. -/
def State.segments (s : State) : List Seg :=
  let own := s.mySeat.lanes s.c.slot
  let home := dieOfCore s.c.core
  let same := (s.c.gang.takeWhile fun x => dieOfCore x.1 == home).length
  if same = s.c.gang.length then [{ lo := 0, n := s.lanes }]
  else [{ lo := 0, n := own + 256 * same }, { lo := own + 256 * same, n := s.lanes - (own + 256 * same) }]

/-- The elements below `vl` of a segment in their local order. -/
def segElems (s : State) (g : Seg) : List Nat :=
  (List.range s.c.vlen).filter fun e => decide (g.lo ≤ e % s.lanes) && decide (e % s.lanes < g.lo + g.n)

/-- The local index of an element (R327). -/
def localIdx (s : State) (g : Seg) (e : Nat) : Nat := e / s.lanes * g.n + (e % s.lanes - g.lo)

/-- The element at a local index. -/
def globalIdx (s : State) (g : Seg) (i : Nat) : Nat := i / g.n * s.lanes + g.lo + i % g.n

/-! ## Major 0x1B -/

/-- Checks of major 0x1B: the destination shares no register with a source. -/
def permOk (s : State) (f : H2) (srcs : List Nat) : Bool :=
  elementwiseOk s f.ty.toNat (f.d.toNat :: srcs) && !srcs.contains f.d.toNat

/-- An instruction of major 0x1B, segment by segment: `op` gives what a segment writes, as pairs of element and
value. -/
def perm (f : H2) (s : State) (srcs : List Nat) (op : Seg → List (Nat × Nat)) : Res :=
  let w := tyWidth f.ty.toNat
  if !permOk s f srcs then .next (illegal s) else
  vecRun s f.ty.toNat f.mask false fun _ _ =>
    (s.segments.flatMap op).foldl (fun t x => t.setElem w f.d.toNat x.1 x.2) s

/-- The active elements of a segment, each with its local index. -/
def segActives (s : State) (f : H2) (g : Seg) : List (Nat × Nat) :=
  ((segElems s g).filter (s.c.active f.mask)).map fun e => (e, localIdx s g e)

/-- `vperm` (R326). -/
def execVperm (f : H2) (s : State) : Res :=
  let w := tyWidth f.ty.toNat
  perm f s [f.a.toNat, f.b.toNat] fun g =>
    let n := (segElems s g).length
    (segActives s f g).map fun x =>
      let i := s.elem w f.b.toNat x.1
      (x.1, if i < n then s.elem w f.a.toNat (globalIdx s g i) else 0)

/-- The distance of a slide: a register, or IMM8 read as unsigned. -/
def slideBy (s : State) (f : H2) : Nat := if f.sub = 1 then s.num f.b else f.imm.toNat

/-- `vslup` (R326). -/
def execVslup (f : H2) (s : State) : Res :=
  let w := tyWidth f.ty.toNat
  let k := slideBy s f
  perm f s [f.a.toNat] fun g =>
    ((segActives s f g).filter fun x => decide (k ≤ x.2)).map fun x =>
      (x.1, s.elem w f.a.toNat (globalIdx s g (x.2 - k)))

/-- `vsldn` (R326). -/
def execVsldn (f : H2) (s : State) : Res :=
  let w := tyWidth f.ty.toNat
  let k := slideBy s f
  perm f s [f.a.toNat] fun g =>
    let n := (segElems s g).length
    (segActives s f g).map fun x =>
      (x.1, if x.2 + k < n then s.elem w f.a.toNat (globalIdx s g (x.2 + k)) else 0)

/-- Numbers of a list's places. -/
def indexed {α : Type} (l : List α) : List (Nat × α) := (List.range l.length).zip l

/-- `vcomp` (R328). -/
def execVcomp (f : H2) (s : State) : Res :=
  let w := tyWidth f.ty.toNat
  perm f s [f.a.toNat] fun g =>
    (indexed (segActives s f g)).map fun x => (globalIdx s g x.1, s.elem w f.a.toNat x.2.1)

/-- `vexpd` (R328). -/
def execVexpd (f : H2) (s : State) : Res :=
  let w := tyWidth f.ty.toNat
  perm f s [f.a.toNat] fun g =>
    (indexed (segActives s f g)).map fun x => (x.2.1, s.elem w f.a.toNat (globalIdx s g x.1))

/-- The partner of an element in the other segment (R329); itself where it has none. -/
def partner (s : State) (g : Seg) (e i : Nat) : Nat :=
  match s.segments with
  | [a, b] =>
    let o := if g = a then b else a
    if i < (segElems s o).length then globalIdx s o i else e
  | _ => e

/-- `vxchg` (R329). -/
def execVxchg (f : H2) (s : State) : Res :=
  let w := tyWidth f.ty.toNat
  perm f s [f.a.toNat] fun g =>
    (segActives s f g).map fun x => (x.1, s.elem w f.a.toNat (partner s g x.1 x.2))

/-! ## Major 0x1C (R330) -/

/-- A move: each active element of D takes a value. -/
def moveOp (f : H2) (s : State) (srcs : List Nat) (op : Nat → Nat) : Res :=
  elementwise s f (f.d.toNat :: srcs) fun e => (op e, 0)

/-- `vmov`. -/
def execVmov (f : H2) (s : State) : Res := moveOp f s [f.a.toNat] (s.elem (tyWidth f.ty.toNat) f.a.toNat)
/-- `vbcast` of a scalar. -/
def execVbcast (f : H2) (s : State) : Res :=
  moveOp f s [] fun _ => s.num f.a % 2 ^ tyWidth f.ty.toNat
/-- `vbcast` of an immediate. -/
def execVbcastImm (f : H2) (s : State) : Res :=
  moveOp f s [] fun _ => wrapN (tyWidth f.ty.toNat) (sval 8 f.imm.toNat)
/-- `vidx`. -/
def execVidx (f : H2) (s : State) : Res := moveOp f s [] fun e => e % 2 ^ tyWidth f.ty.toNat

/-- `vmerge`: every element below `vl` is written. -/
def execVmerge (f : H2) (s : State) : Res :=
  let ty := f.ty.toNat
  let w := tyWidth ty
  if elementwiseOk s ty [f.d.toNat, f.a.toNat, f.b.toNat] then
    vecRun s ty 0 true (vecMap s w f.d.toNat 0 fun e =>
      (if s.c.active f.mask e then s.elem w f.a.toNat e else s.elem w f.b.toNat e, 0))
  else .next (illegal s)

/-- `vgetx`: extended by type, 0 at or beyond `vl`. -/
def execVgetx (f : H2) (s : State) : Res :=
  let ty := f.ty.toNat
  let w := tyWidth ty
  let i := s.num f.b
  if !elementwiseOk s ty [f.a.toNat] then .next (illegal s) else
  vecRun s ty 0 false fun _ hi =>
    let x := s.elem w f.a.toNat i
    s.setReg f.d.toNat (if i < hi then (if tySigned ty then wrap64 (tyInt ty x) else wd x) else 0)

/-- `vsetx`. -/
def execVsetx (f : H2) (s : State) : Res :=
  let ty := f.ty.toNat
  let w := tyWidth ty
  let i := s.num f.b
  if !elementwiseOk s ty [f.d.toNat] then .next (illegal s) else
  vecRun s ty 0 false fun _ hi => if i < hi then s.setElem w f.d.toNat i (s.num f.a % 2 ^ w) else s

/-- `vm2v`. -/
def execVm2v (f : H2) (s : State) : Res := moveOp f s [] fun e => ((s.c.mask f.a.toNat).testBit e).toNat

end Sys2Proof.Machine
end

