-- ==== Sys2Proof/Machine/Dispatch.lean ====
section
/-! DEFINITION. The meaning of each instruction and device step: one arm per constructor, one call per arm. -/
namespace Sys2Proof.Machine

/-- Perform an instruction of the running context, or a device step. -/
def exec (i : Instr) (s : State) : Host.Outcome State Fault Refusal :=
  match i with
  | .atomicAnswer ctx => Sys2Proof.Machine.execAtomicAnswer ctx s
  | .registerWrite reg val => Sys2Proof.Machine.execRegisterWrite reg val s
  | .vcfgWrite val => Sys2Proof.Machine.execVcfgWrite val s
  | .vlWrite val => Sys2Proof.Machine.execVlWrite val s
  | .fpsWrite val => Sys2Proof.Machine.execFpsWrite val s
  | .whzWrite val => Sys2Proof.Machine.execWhzWrite val s
  | .lprWrite val => Sys2Proof.Machine.execLprWrite val s
  | .lprTakeEffect core pos => Sys2Proof.Machine.execLprTakeEffect core pos s
  | .spwmodeWrite val => Sys2Proof.Machine.execSpwmodeWrite val s
  | .spwstWrite val => Sys2Proof.Machine.execSpwstWrite val s
  | .wptWrite n val => Sys2Proof.Machine.execWptWrite n val s
  | .wfeWake ctx => Sys2Proof.Machine.execWfeWake ctx s
  | .waittCompletion ctx => Sys2Proof.Machine.execWaittCompletion ctx s
  | .meetingInitAtHome m => Sys2Proof.Machine.execMeetingInitAtHome m s
  | .meetingArrivalAtHome m => Sys2Proof.Machine.execMeetingArrivalAtHome m s
  | .meetingCloseDeadline o => Sys2Proof.Machine.execMeetingCloseDeadline o s
  | .meetingWaitGiveUp o w => Sys2Proof.Machine.execMeetingWaitGiveUp o w s
  | .meetingJoinAtHome m => Sys2Proof.Machine.execMeetingJoinAtHome m s
  | .verdictReceived r => Sys2Proof.Machine.execVerdictReceived r s
  | .homeAckReceived ctx dl grace => Sys2Proof.Machine.execHomeAckReceived ctx dl grace s
  | .homeLossTimeout ctx => Sys2Proof.Machine.execHomeLossTimeout ctx s
  | .lockAcquireAtHome m => Sys2Proof.Machine.execLockAcquireAtHome m s
  | .lockReleaseAtHome m => Sys2Proof.Machine.execLockReleaseAtHome m s
  | .lockMendAtHome m => Sys2Proof.Machine.execLockMendAtHome m s
  | .lockHoldLapse pa => Sys2Proof.Machine.execLockHoldLapse pa s
  | .lockAcquireTimeout pa w => Sys2Proof.Machine.execLockAcquireTimeout pa w s
  | .bufferClaimAtHome m => Sys2Proof.Machine.execBufferClaimAtHome m s
  | .bufferFillAtHome m => Sys2Proof.Machine.execBufferFillAtHome m s
  | .bufferRecvAtHome m => Sys2Proof.Machine.execBufferRecvAtHome m s
  | .bufferFreeAtHome m => Sys2Proof.Machine.execBufferFreeAtHome m s
  | .slotHoleConversion part buf slot => Sys2Proof.Machine.execSlotHoleConversion part buf slot s
  | .claimTimeout part buf w => Sys2Proof.Machine.execClaimTimeout part buf w s
  | .recvTimeout part buf w => Sys2Proof.Machine.execRecvTimeout part buf w s
  | .chainPubAtHome m => Sys2Proof.Machine.execChainPubAtHome m s
  | .chainReadTimeout part ch w => Sys2Proof.Machine.execChainReadTimeout part ch w s
  | .stageFiring part => Sys2Proof.Machine.execStageFiring part s
  | .spawnPlacement part => Sys2Proof.Machine.execSpawnPlacement part s
  | .stageAging part g stage => Sys2Proof.Machine.execStageAging part g stage s
  | .vectorIssue core pos err => Sys2Proof.Machine.execVectorIssue core pos err s
  | .copyHandoff id => Sys2Proof.Machine.execCopyHandoff id s
  | .copyCompletion id => Sys2Proof.Machine.execCopyCompletion id s
  | .copyFaultDelivery ctx => Sys2Proof.Machine.execCopyFaultDelivery ctx s
  | .reductionPartial part g child vec => Sys2Proof.Machine.execReductionPartial part g child vec s
  | .reductionResult part g vec => Sys2Proof.Machine.execReductionResult part g vec s
  | .leaseDrainComplete part id => Sys2Proof.Machine.execLeaseDrainComplete part id s
  | .leaseRequestAtPeer d k => Sys2Proof.Machine.execLeaseRequestAtPeer d k s
  | .leaseReleaseNotice d k => Sys2Proof.Machine.execLeaseReleaseNotice d k s
  | .leaseGrant part id k => Sys2Proof.Machine.execLeaseGrant part id k s
  | .leaseTerm part id => Sys2Proof.Machine.execLeaseTerm part id s
  | .leaseRevocation part id => Sys2Proof.Machine.execLeaseRevocation part id s
  | .leaseReversionComplete part id => Sys2Proof.Machine.execLeaseReversionComplete part id s
  | .starvationReclaim d => Sys2Proof.Machine.execStarvationReclaim d s
  | .routingItemDelivery f => Sys2Proof.Machine.execRoutingItemDelivery f s
  | .routingAnswer part die tag op => Sys2Proof.Machine.execRoutingAnswer part die tag op s
  | .meterSnapshot => Sys2Proof.Machine.execMeterSnapshot s
  | .scrubBlock part => Sys2Proof.Machine.execScrubBlock part s
  | .checkpointCommitAck part ok => Sys2Proof.Machine.execCheckpointCommitAck part ok s
  | .checkpointTimeout part => Sys2Proof.Machine.execCheckpointTimeout part s
  | .uncontainedError at_ => Sys2Proof.Machine.execUncontainedError at_ s
  | .preemption ctx => Sys2Proof.Machine.execPreemption ctx s
  | .sliceEnd core pos => Sys2Proof.Machine.execSliceEnd core pos s
  | .contextRestore part bad => Sys2Proof.Machine.execContextRestore part bad s
  | .clusterRetirement cl => Sys2Proof.Machine.execClusterRetirement cl s
  | .rotationSet core pos turns => Sys2Proof.Machine.execRotationSet core pos turns s
  | .notify vf val ro => Sys2Proof.Machine.execNotify vf val ro s
  | .hostMemoryRequest vf addr wr data len => Sys2Proof.Machine.execHostMemoryRequest vf addr wr data len s
  | .hostCompletion ctx st val => Sys2Proof.Machine.execHostCompletion ctx st val s
  | .requestTimeout tag => Sys2Proof.Machine.execRequestTimeout tag s
  | .fabricRequest f => Sys2Proof.Machine.execFabricRequest f s
  | .fabricAnswer f => Sys2Proof.Machine.execFabricAnswer f s
  | .busyRetry tag => Sys2Proof.Machine.execBusyRetry tag s
  | .shootdownAck holder line => Sys2Proof.Machine.execShootdownAck holder line s
  | .migrationStart src dst => Sys2Proof.Machine.execMigrationStart src dst s
  | .migrationSwitch src => Sys2Proof.Machine.execMigrationSwitch src s
  | .migrationDone src => Sys2Proof.Machine.execMigrationDone src s
  | .linkTraining d peer e1 e2 rtt set => Sys2Proof.Machine.execLinkTraining d peer e1 e2 rtt set s
  | .flitReceived d f => Sys2Proof.Machine.execFlitReceived d f s
  | .replayTimeout d => Sys2Proof.Machine.execReplayTimeout d s
  | .linkDown l => Sys2Proof.Machine.execLinkDown l s
  | .idleFlit d => Sys2Proof.Machine.execIdleFlit d s
  | .escapeMove d => Sys2Proof.Machine.execEscapeMove d s
  | .timeFlitExchange => Sys2Proof.Machine.execTimeFlitExchange s
  | .timeFlitAnswer t1 t2 reply => Sys2Proof.Machine.execTimeFlitAnswer t1 t2 reply s
  | .ppsPulse => Sys2Proof.Machine.execPpsPulse s
  | .referenceLost => Sys2Proof.Machine.execReferenceLost s
  | .referenceAcquired => Sys2Proof.Machine.execReferenceAcquired s
  | .functionLevelReset vf => Sys2Proof.Machine.execFunctionLevelReset vf s
  | .deviceReset => Sys2Proof.Machine.execDeviceReset s
  | .lifeCycleChange signed target => Sys2Proof.Machine.execLifeCycleChange signed target s
  | .spdmGetMeasurements vf idx nonce => Sys2Proof.Machine.execSpdmGetMeasurements vf idx nonce s
  | .thermalThrottle temp => Sys2Proof.Machine.execThermalThrottle temp s
  | .thermalShutdown => Sys2Proof.Machine.execThermalShutdown s
  | .coolingRestored => Sys2Proof.Machine.execCoolingRestored s
  | .tdispRequest vf target => Sys2Proof.Machine.execTdispRequest vf target s
  | .incarnationNotice dev part inc => Sys2Proof.Machine.execIncarnationNotice dev part inc s
  | .beatLend core pos toPos => Sys2Proof.Machine.execBeatLend core pos toPos s
  | .addReg f => Sys2Proof.Machine.execAddReg f s
  | .subReg f => Sys2Proof.Machine.execSubReg f s
  | .andReg f => Sys2Proof.Machine.execAndReg f s
  | .orReg f => Sys2Proof.Machine.execOrReg f s
  | .xorReg f => Sys2Proof.Machine.execXorReg f s
  | .andnReg f => Sys2Proof.Machine.execAndnReg f s
  | .shlReg f => Sys2Proof.Machine.execShlReg f s
  | .shrReg f => Sys2Proof.Machine.execShrReg f s
  | .sraReg f => Sys2Proof.Machine.execSraReg f s
  | .rotReg f => Sys2Proof.Machine.execRotReg f s
  | .minReg f => Sys2Proof.Machine.execMinReg f s
  | .maxReg f => Sys2Proof.Machine.execMaxReg f s
  | .minN64Reg f => Sys2Proof.Machine.execMinN64Reg f s
  | .maxN64Reg f => Sys2Proof.Machine.execMaxN64Reg f s
  | .addImm f => Sys2Proof.Machine.execAddImm f s
  | .subImm f => Sys2Proof.Machine.execSubImm f s
  | .andImm f => Sys2Proof.Machine.execAndImm f s
  | .orImm f => Sys2Proof.Machine.execOrImm f s
  | .xorImm f => Sys2Proof.Machine.execXorImm f s
  | .andnImm f => Sys2Proof.Machine.execAndnImm f s
  | .shlImm f => Sys2Proof.Machine.execShlImm f s
  | .shrImm f => Sys2Proof.Machine.execShrImm f s
  | .sraImm f => Sys2Proof.Machine.execSraImm f s
  | .rotImm f => Sys2Proof.Machine.execRotImm f s
  | .minImm f => Sys2Proof.Machine.execMinImm f s
  | .maxImm f => Sys2Proof.Machine.execMaxImm f s
  | .minN64Imm f => Sys2Proof.Machine.execMinN64Imm f s
  | .maxN64Imm f => Sys2Proof.Machine.execMaxN64Imm f s
  | .li f => Sys2Proof.Machine.execLi f s
  | .lea f => Sys2Proof.Machine.execLea f s
  | .lih f => Sys2Proof.Machine.execLih f s
  | .mul f => Sys2Proof.Machine.execMul f s
  | .mulh f => Sys2Proof.Machine.execMulh f s
  | .div f => Sys2Proof.Machine.execDiv f s
  | .rem f => Sys2Proof.Machine.execRem f s
  | .fadd f => Sys2Proof.Machine.execFadd f s
  | .fsub f => Sys2Proof.Machine.execFsub f s
  | .fmul f => Sys2Proof.Machine.execFmul f s
  | .fdiv f => Sys2Proof.Machine.execFdiv f s
  | .fma f => Sys2Proof.Machine.execFma f s
  | .fcvt f => Sys2Proof.Machine.execFcvt f s
  | .clz f => Sys2Proof.Machine.execClz f s
  | .ctz f => Sys2Proof.Machine.execCtz f s
  | .popc f => Sys2Proof.Machine.execPopc f s
  | .sextS8 f => Sys2Proof.Machine.execSextS8 f s
  | .sextS16 f => Sys2Proof.Machine.execSextS16 f s
  | .sextS32 f => Sys2Proof.Machine.execSextS32 f s
  | .zextN8 f => Sys2Proof.Machine.execZextN8 f s
  | .zextN16 f => Sys2Proof.Machine.execZextN16 f s
  | .zextN32 f => Sys2Proof.Machine.execZextN32 f s
  | .cmp f => Sys2Proof.Machine.execCmp f s
  | .setEq f => Sys2Proof.Machine.execSetEq f s
  | .setNe f => Sys2Proof.Machine.execSetNe f s
  | .setLt f => Sys2Proof.Machine.execSetLt f s
  | .setGe f => Sys2Proof.Machine.execSetGe f s
  | .fcmpEq f => Sys2Proof.Machine.execFcmpEq f s
  | .fcmpLt f => Sys2Proof.Machine.execFcmpLt f s
  | .fcmpLe f => Sys2Proof.Machine.execFcmpLe f s
  | .fcmpUn f => Sys2Proof.Machine.execFcmpUn f s
  | .ld f => Sys2Proof.Machine.execLd f s
  | .ldAcq f => Sys2Proof.Machine.execLdAcq f s
  | .st f => Sys2Proof.Machine.execSt f s
  | .stRel f => Sys2Proof.Machine.execStRel f s
  | .amoAdd f => Sys2Proof.Machine.execAmoAdd f s
  | .amoFadd f => Sys2Proof.Machine.execAmoFadd f s
  | .amoAnd f => Sys2Proof.Machine.execAmoAnd f s
  | .amoOr f => Sys2Proof.Machine.execAmoOr f s
  | .amoXor f => Sys2Proof.Machine.execAmoXor f s
  | .amoMin f => Sys2Proof.Machine.execAmoMin f s
  | .amoMax f => Sys2Proof.Machine.execAmoMax f s
  | .amoSwap f => Sys2Proof.Machine.execAmoSwap f s
  | .amoCas f => Sys2Proof.Machine.execAmoCas f s
  | .bEq f => Sys2Proof.Machine.execBEq f s
  | .bNe f => Sys2Proof.Machine.execBNe f s
  | .bLt f => Sys2Proof.Machine.execBLt f s
  | .bGe f => Sys2Proof.Machine.execBGe f s
  | .bLtN64 f => Sys2Proof.Machine.execBLtN64 f s
  | .bGeN64 f => Sys2Proof.Machine.execBGeN64 f s
  | .jmp f => Sys2Proof.Machine.execJmp f s
  | .call f => Sys2Proof.Machine.execCall f s
  | .jr f => Sys2Proof.Machine.execJr f s
  | .csrr f => Sys2Proof.Machine.execCsrr f s
  | .csrw f => Sys2Proof.Machine.execCsrw f s
  | .csrs f => Sys2Proof.Machine.execCsrs f s
  | .csrc f => Sys2Proof.Machine.execCsrc f s
  | .trap f => Sys2Proof.Machine.execTrap f s
  | .eret f => Sys2Proof.Machine.execEret f s
  | .wfe f => Sys2Proof.Machine.execWfe f s
  | .fenceSv f => Sys2Proof.Machine.execFenceSv f s
  | .fenceVs f => Sys2Proof.Machine.execFenceVs f s
  | .fenceRel f => Sys2Proof.Machine.execFenceRel f s
  | .fenceAcq f => Sys2Proof.Machine.execFenceAcq f s
  | .fenceFull f => Sys2Proof.Machine.execFenceFull f s
  | .tick f => Sys2Proof.Machine.execTick f s
  | .waitt f => Sys2Proof.Machine.execWaitt f s
  | .nbArr f => Sys2Proof.Machine.execNbArr f s
  | .nbWait f => Sys2Proof.Machine.execNbWait f s
  | .nbSync f => Sys2Proof.Machine.execNbSync f s
  | .nbJoin f => Sys2Proof.Machine.execNbJoin f s
  | .mtInit f => Sys2Proof.Machine.execMtInit f s
  | .mtArr f => Sys2Proof.Machine.execMtArr f s
  | .mtWait f => Sys2Proof.Machine.execMtWait f s
  | .mtSync f => Sys2Proof.Machine.execMtSync f s
  | .mtJoin f => Sys2Proof.Machine.execMtJoin f s
  | .lkAcq f => Sys2Proof.Machine.execLkAcq f s
  | .lkRel f => Sys2Proof.Machine.execLkRel f s
  | .lkMend f => Sys2Proof.Machine.execLkMend f s
  | .cbDef f => Sys2Proof.Machine.execCbDef f s
  | .cbClaim f => Sys2Proof.Machine.execCbClaim f s
  | .cbFill f => Sys2Proof.Machine.execCbFill f s
  | .recv f => Sys2Proof.Machine.execRecv f s
  | .cbFree f => Sys2Proof.Machine.execCbFree f s
  | .cbSt f => Sys2Proof.Machine.execCbSt f s
  | .chainDef f => Sys2Proof.Machine.execChainDef f s
  | .chainPub f => Sys2Proof.Machine.execChainPub f s
  | .spawn f => Sys2Proof.Machine.execSpawn f s
  | .gdef f => Sys2Proof.Machine.execGdef f s
  | .gstart f => Sys2Proof.Machine.execGstart f s
  | .exit f => Sys2Proof.Machine.execExit f s
  | .yield f => Sys2Proof.Machine.execYield f s
  | .vsetl f => Sys2Proof.Machine.execVsetl f s
  | .vsetlChained f => Sys2Proof.Machine.execVsetlChained f s
  | .vnext f => Sys2Proof.Machine.execVnext f s
  | .vcfg f => Sys2Proof.Machine.execVcfg f s
  | .vlanes f => Sys2Proof.Machine.execVlanes f s
  | .vgang f => Sys2Proof.Machine.execVgang f s
  | .vadd f => Sys2Proof.Machine.execVadd f s
  | .vsub f => Sys2Proof.Machine.execVsub f s
  | .vrsub f => Sys2Proof.Machine.execVrsub f s
  | .vand f => Sys2Proof.Machine.execVand f s
  | .vor f => Sys2Proof.Machine.execVor f s
  | .vxor f => Sys2Proof.Machine.execVxor f s
  | .vandn f => Sys2Proof.Machine.execVandn f s
  | .vshl f => Sys2Proof.Machine.execVshl f s
  | .vshr f => Sys2Proof.Machine.execVshr f s
  | .vsra f => Sys2Proof.Machine.execVsra f s
  | .vmin f => Sys2Proof.Machine.execVmin f s
  | .vmax f => Sys2Proof.Machine.execVmax f s
  | .vmul f => Sys2Proof.Machine.execVmul f s
  | .vmulh f => Sys2Proof.Machine.execVmulh f s
  | .vadds f => Sys2Proof.Machine.execVadds f s
  | .vsubs f => Sys2Proof.Machine.execVsubs f s
  | .vfadd f => Sys2Proof.Machine.execVfadd f s
  | .vfsub f => Sys2Proof.Machine.execVfsub f s
  | .vfmul f => Sys2Proof.Machine.execVfmul f s
  | .vfdiv f => Sys2Proof.Machine.execVfdiv f s
  | .vfmin f => Sys2Proof.Machine.execVfmin f s
  | .vfmax f => Sys2Proof.Machine.execVfmax f s
  | .vfsqrt f => Sys2Proof.Machine.execVfsqrt f s
  | .vfabs f => Sys2Proof.Machine.execVfabs f s
  | .vfneg f => Sys2Proof.Machine.execVfneg f s
  | .vfsgn f => Sys2Proof.Machine.execVfsgn f s
  | .vfma f => Sys2Proof.Machine.execVfma f s
  | .vfms f => Sys2Proof.Machine.execVfms f s
  | .vfnma f => Sys2Proof.Machine.execVfnma f s
  | .vfnms f => Sys2Proof.Machine.execVfnms f s
  | .vmac f => Sys2Proof.Machine.execVmac f s
  | .vnmsc f => Sys2Proof.Machine.execVnmsc f s
  | .vcmpEq f => Sys2Proof.Machine.execVcmpEq f s
  | .vcmpNe f => Sys2Proof.Machine.execVcmpNe f s
  | .vcmpLt f => Sys2Proof.Machine.execVcmpLt f s
  | .vcmpLe f => Sys2Proof.Machine.execVcmpLe f s
  | .vcmpGt f => Sys2Proof.Machine.execVcmpGt f s
  | .vcmpGe f => Sys2Proof.Machine.execVcmpGe f s
  | .vcmpUn f => Sys2Proof.Machine.execVcmpUn f s
  | .vcvt f => Sys2Proof.Machine.execVcvt f s
  | .vqnt f => Sys2Proof.Machine.execVqnt f s
  | .vdq f => Sys2Proof.Machine.execVdq f s
  | .vbsc f => Sys2Proof.Machine.execVbsc f s
  | .vfrcp f => Sys2Proof.Machine.execVfrcp f s
  | .vfrsq f => Sys2Proof.Machine.execVfrsq f s
  | .vfexp2 f => Sys2Proof.Machine.execVfexp2 f s
  | .vflog2 f => Sys2Proof.Machine.execVflog2 f s
  | .vfexp f => Sys2Proof.Machine.execVfexp f s
  | .vftanh f => Sys2Proof.Machine.execVftanh f s
  | .vfsig f => Sys2Proof.Machine.execVfsig f s
  | .vrsum f tree => Sys2Proof.Machine.execVrsum f tree s
  | .vrmin f tree => Sys2Proof.Machine.execVrmin f tree s
  | .vrmax f tree => Sys2Proof.Machine.execVrmax f tree s
  | .vrand f tree => Sys2Proof.Machine.execVrand f tree s
  | .vror f tree => Sys2Proof.Machine.execVror f tree s
  | .vrxor f tree => Sys2Proof.Machine.execVrxor f tree s
  | .vscanAdd f => Sys2Proof.Machine.execVscanAdd f s
  | .vscanMin f => Sys2Proof.Machine.execVscanMin f s
  | .vscanMax f => Sys2Proof.Machine.execVscanMax f s
  | .vperm f => Sys2Proof.Machine.execVperm f s
  | .vslup f => Sys2Proof.Machine.execVslup f s
  | .vsldn f => Sys2Proof.Machine.execVsldn f s
  | .vcomp f => Sys2Proof.Machine.execVcomp f s
  | .vexpd f => Sys2Proof.Machine.execVexpd f s
  | .vxchg f => Sys2Proof.Machine.execVxchg f s
  | .vmov f => Sys2Proof.Machine.execVmov f s
  | .vbcast f => Sys2Proof.Machine.execVbcast f s
  | .vbcastImm f => Sys2Proof.Machine.execVbcastImm f s
  | .vidx f => Sys2Proof.Machine.execVidx f s
  | .vmerge f => Sys2Proof.Machine.execVmerge f s
  | .vgetx f => Sys2Proof.Machine.execVgetx f s
  | .vsetx f => Sys2Proof.Machine.execVsetx f s
  | .vm2v f => Sys2Proof.Machine.execVm2v f s
  | .mand f => Sys2Proof.Machine.execMand f s
  | .mor f => Sys2Proof.Machine.execMor f s
  | .mxor f => Sys2Proof.Machine.execMxor f s
  | .mandn f => Sys2Proof.Machine.execMandn f s
  | .mnot f => Sys2Proof.Machine.execMnot f s
  | .mset f => Sys2Proof.Machine.execMset f s
  | .mclr f => Sys2Proof.Machine.execMclr f s
  | .mmov f => Sys2Proof.Machine.execMmov f s
  | .mpop f => Sys2Proof.Machine.execMpop f s
  | .mfirst f => Sys2Proof.Machine.execMfirst f s
  | .qset f => Sys2Proof.Machine.execQset f s
  | .qsetImm f => Sys2Proof.Machine.execQsetImm f s
  | .qadv f => Sys2Proof.Machine.execQadv f s
  | .qinfo f => Sys2Proof.Machine.execQinfo f s
  | .qinfoB f => Sys2Proof.Machine.execQinfoB f s
  | .qinfoS f => Sys2Proof.Machine.execQinfoS f s
  | .vld f => Sys2Proof.Machine.execVld f s
  | .vlds f => Sys2Proof.Machine.execVlds f s
  | .vpf f => Sys2Proof.Machine.execVpf f s
  | .vst f => Sys2Proof.Machine.execVst f s
  | .vsts f => Sys2Proof.Machine.execVsts f s
  | .vldx f => Sys2Proof.Machine.execVldx f s
  | .vstx f => Sys2Proof.Machine.execVstx f s
  | .vamoAdd f => Sys2Proof.Machine.execVamoAdd f s
  | .vamoFadd f => Sys2Proof.Machine.execVamoFadd f s
  | .vamoAnd f => Sys2Proof.Machine.execVamoAnd f s
  | .vamoOr f => Sys2Proof.Machine.execVamoOr f s
  | .vamoXor f => Sys2Proof.Machine.execVamoXor f s
  | .vamoMin f => Sys2Proof.Machine.execVamoMin f s
  | .vamoMax f => Sys2Proof.Machine.execVamoMax f s
  | .vamoSwap f => Sys2Proof.Machine.execVamoSwap f s
  | .vamoCas f => Sys2Proof.Machine.execVamoCas f s
  | .vredAddIndexed f => Sys2Proof.Machine.execVredAddIndexed f s
  | .vredFaddIndexed f => Sys2Proof.Machine.execVredFaddIndexed f s
  | .vredAndIndexed f => Sys2Proof.Machine.execVredAndIndexed f s
  | .vredOrIndexed f => Sys2Proof.Machine.execVredOrIndexed f s
  | .vredXorIndexed f => Sys2Proof.Machine.execVredXorIndexed f s
  | .vredMinIndexed f => Sys2Proof.Machine.execVredMinIndexed f s
  | .vredMaxIndexed f => Sys2Proof.Machine.execVredMaxIndexed f s
  | .vredAddStream f => Sys2Proof.Machine.execVredAddStream f s
  | .vredFaddStream f => Sys2Proof.Machine.execVredFaddStream f s
  | .vredAndStream f => Sys2Proof.Machine.execVredAndStream f s
  | .vredOrStream f => Sys2Proof.Machine.execVredOrStream f s
  | .vredXorStream f => Sys2Proof.Machine.execVredXorStream f s
  | .vredMinStream f => Sys2Proof.Machine.execVredMinStream f s
  | .vredMaxStream f => Sys2Proof.Machine.execVredMaxStream f s
  | .vldl f => Sys2Proof.Machine.execVldl f s
  | .vldlIndexed f => Sys2Proof.Machine.execVldlIndexed f s
  | .vstl f => Sys2Proof.Machine.execVstl f s
  | .vstlIndexed f => Sys2Proof.Machine.execVstlIndexed f s
  | .mwld f => Sys2Proof.Machine.execMwld f s
  | .mmla f => Sys2Proof.Machine.execMmla f s
  | .acz f => Sys2Proof.Machine.execAcz f s
  | .aci f => Sys2Proof.Machine.execAci f s
  | .aciAdd f => Sys2Proof.Machine.execAciAdd f s
  | .aciSat f => Sys2Proof.Machine.execAciSat f s
  | .acx f => Sys2Proof.Machine.execAcx f s
  | .unfCfg f => Sys2Proof.Machine.execUnfCfg f s
  | .spwDrain f => Sys2Proof.Machine.execSpwDrain f s
  | .spwMode f => Sys2Proof.Machine.execSpwMode f s
  | .spwSt f => Sys2Proof.Machine.execSpwSt f s
  | .fmtLd f => Sys2Proof.Machine.execFmtLd f s
  | .fmtSt f => Sys2Proof.Machine.execFmtSt f s
  | .dld f => Sys2Proof.Machine.execDld f s
  | .dst f => Sys2Proof.Machine.execDst f s
  | .tcopy f => Sys2Proof.Machine.execTcopy f s
  | .tcopySh f => Sys2Proof.Machine.execTcopySh f s
  | .tcopyCb f => Sys2Proof.Machine.execTcopyCb f s
  | .pub f => Sys2Proof.Machine.execPub f s
  | .tcReg f => Sys2Proof.Machine.execTcReg f s
  | .tcDrop f => Sys2Proof.Machine.execTcDrop f s
  | .tcPf f => Sys2Proof.Machine.execTcPf f s
  | .tcHalo f => Sys2Proof.Machine.execTcHalo f s
  | .tcInv f => Sys2Proof.Machine.execTcInv f s
  | .tcCln f => Sys2Proof.Machine.execTcCln f s
  | .mgrpDef f => Sys2Proof.Machine.execMgrpDef f s
  | .mgrpDrop f => Sys2Proof.Machine.execMgrpDrop f s
  | .mldRed f => Sys2Proof.Machine.execMldRed f s
  | .mst f => Sys2Proof.Machine.execMst f s
  | .mgrpJoin f => Sys2Proof.Machine.execMgrpJoin f s
  | .bwl f => Sys2Proof.Machine.execBwl f s
  | .bwr f => Sys2Proof.Machine.execBwr f s
  | .bwq f => Sys2Proof.Machine.execBwq f s
  | .bwqD f => Sys2Proof.Machine.execBwqD f s
  | .rtOpen f => Sys2Proof.Machine.execRtOpen f s
  | .rtOpenRx f => Sys2Proof.Machine.execRtOpenRx f s
  | .rtAdd f => Sys2Proof.Machine.execRtAdd f s
  | .rtGo f => Sys2Proof.Machine.execRtGo f s
  | .rtRecv f => Sys2Proof.Machine.execRtRecv f s
  | .rtStat f => Sys2Proof.Machine.execRtStat f s
  | .rtClose f => Sys2Proof.Machine.execRtClose f s
  | .rtCloseRx f => Sys2Proof.Machine.execRtCloseRx f s
  | .flmRd f => Sys2Proof.Machine.execFlmRd f s
  | .flmSeal f => Sys2Proof.Machine.execFlmSeal f s
  | .dgst f => Sys2Proof.Machine.execDgst f s
  | .prtNew f => Sys2Proof.Machine.execPrtNew f s
  | .prtAsg f => Sys2Proof.Machine.execPrtAsg f s
  | .prtStop f => Sys2Proof.Machine.execPrtStop f s
  | .prtKill f => Sys2Proof.Machine.execPrtKill f s
  | .prtSt f => Sys2Proof.Machine.execPrtSt f s
  | .scbGo f => Sys2Proof.Machine.execScbGo f s
  | .scbSt f => Sys2Proof.Machine.execScbSt f s
  | .keyLd f => Sys2Proof.Machine.execKeyLd f s
  | .keyZ f => Sys2Proof.Machine.execKeyZ f s
  | .ckpGo f => Sys2Proof.Machine.execCkpGo f s
  | .ckpSt f => Sys2Proof.Machine.execCkpSt f s
  | .ckpRb f => Sys2Proof.Machine.execCkpRb f s
  | .nop => Sys2Proof.Machine.execNop s
  | .hint h => Sys2Proof.Machine.execHint h s

end Sys2Proof.Machine
end

