-- ==== Sys2Proof/Machine/Vqueue.lean ====
section
/-! DEFINITION. The vector queue of a context (R21, R26, R306, R311): what enters it, what runs ahead of it (R440), the
instruction at its head, and what a trap or a pre-emption leaves of it (R29, R210, R310, R441, R445). -/
namespace Sys2Proof.Machine

/-- Whether a step has taken a trap in its context, or lost it. -/
def trapped (old new : Ctx) : Bool := !new.alive || (new.tst.getLsbD 2 && !old.tst.getLsbD 2)

/-- The instruction that a context stands at. -/
noncomputable def Ctx.instr? (c : Ctx) : Option Instr :=
  match c.line.map fun l => decodeLine l.bytes (headIdx c.pc.toNat) with
  | some (.ok i) => some i
  | _ => none

/-- Perform the instruction at the pc of the running context. -/
noncomputable def perform (s : State) : Option State :=
  match s.c.instr? with
  | some i =>
    match exec i s with
    | .next t => some t
    | _ => none
  | none => none

/-! ## The head of a queue (R26) -/

/-- The scalar register that an instruction of the vector queue writes when it is performed (R311, R350, R352). -/
def scalarDest (i : Instr) : Option Nat :=
  match i with
  | .vgetx f => some f.d.toNat
  | .mpop f => some f.d.toNat
  | .mfirst f => some f.d.toNat
  | .aciSat f => some f.d.toNat
  | .spwMode f => some f.d.toNat
  | _ => none

/-- The scalar register that an entry of a context's queue writes. -/
noncomputable def VqEntry.dest (e : VqEntry) (c : Ctx) : Option Nat := (e.at_ c).instr?.bind scalarDest

/-- Write a scalar register of an entry's program point. -/
def VqEntry.setReg (e : VqEntry) (d : Nat) (x : Word) : VqEntry := if d = 0 then e else { e with s := e.s.setIfInBounds d x }

/-- The context `t` behind the instruction of an entry, which leaves `rest` of its queue: its scalar side stands where the
stream of `c` has run ahead to. -/
def behind (c t : Ctx) (rest : List VqEntry) : Ctx :=
  { t with pc := c.pc, line := c.line, s := c.s, avl := c.avl, vl := c.vl, vcfg := c.vcfg, hold := c.hold, vq := rest }

/-- The context once the instruction of an entry has been performed: a scalar register that it writes, which nothing behind
it has read or written, takes its value here and at the program point of each later entry (R311). -/
noncomputable def VqEntry.back (e : VqEntry) (c t : Ctx) (rest : List VqEntry) : Ctx :=
  match e.dest c with
  | some d => (behind c t (rest.map fun x => x.setReg d (t.reg d))).setReg d (t.reg d)
  | none => behind c t rest

/-! ## Started instructions behind another (R210, R441, R445) -/

/-- What vector instructions write part-way, from one context into another: registers, their marks, and flags. -/
def Ctx.vecInto (x y : Ctx) : Ctx :=
  { y with v := x.v, a := x.a, m := x.m, vDirty := x.vDirty, aDirty := x.aDirty, mDirty := x.mDirty, sat := x.sat, fps := x.fps }

/-- Whether an instruction accesses memory element by element. -/
def memOp (o : Nat × Nat) : Bool := decide (0x1F ≤ o.1) && decide (o.1 ≤ 0x24)

/-- Whether an instruction may stop part-way (R310): element-wise instructions, conversions, memory forms and `mmla`. -/
def canStop (o : Nat × Nat) : Bool :=
  (decide (0x14 ≤ o.1) && decide (o.1 ≤ 0x19)) || (o.1 == 0x1C && o.2 != 4 && o.2 != 5) || (o.1 == 0x1F && decide (o.2 < 2)) ||
    (decide (0x20 ≤ o.1) && decide (o.1 ≤ 0x24)) || o.1 == 0x26

/-- Whether element e of an instruction takes the same place in every group that it names, and none is an atomic's. -/
def elementwiseOp (o : Nat × Nat) : Bool := canStop o && o.1 != 0x18 && o.1 != 0x22 && o.1 != 0x23 && o.1 != 0x26

/-- Whether an instruction may start on the elements that another one before it has made ready, and another one on those that
it has: one whose element e takes the same place in every group, a conversion between types of one width among them. -/
noncomputable def Ctx.chains (c : Ctx) : Bool :=
  c.op.any elementwiseOp || c.instr?.any fun i =>
    match i with
    | .vcvt f => tyWidth f.ty.toNat == tyWidth (f.imm.toNat % 16)
    | _ => false

/-- The stream register whose position the instruction at the pc captures. -/
def Ctx.streamForm (c : Ctx) : Option Nat :=
  c.line.bind fun l =>
    let a := (bitsAt (lineTail l.bytes (headIdx c.pc.toNat)) 27 5).toNat
    if c.op.any fun o => o.1 == 0x1F || o.1 == 0x20 || (o.1 == 0x23 && decide (0x20 ≤ o.2)) then some a else none

/-- Perform an entry's elements or rows below n, for a context whose scalar side is `pre`: the state, and the backings that
they have resolved (R262); none when they cannot be. -/
noncomputable def partRun (pre : Ctx) (e : VqEntry) (n : Nat) (s : State) : Option (State × List (Nat × Bool)) :=
  let c := { e.at_ (s.c.vecInto pre) with vq := [], resume := none, prog := [], stop := some n }
  match perform { s with c := c } with
  | some u =>
    if trapped c u.c || u.c.pc == c.pc then none
    else some ({ u with c := u.c.vecInto s.c }, (u.c.hold.map Hold.backs).getD [])
  | none => none

/-- Record a progress entry. -/
def addProg (s : State) (ord idx : Nat) (pos : Option (BitVec 48)) (backs : List (Nat × Bool)) : State :=
  { s with c := { s.c with prog := s.c.prog ++ [{ ord := ord, idx := idx, pos := pos, backs := backs }] } }

/-- How far a started instruction has come: a free choice up to k, in whole units of g or up to k itself. -/
def freeIdx (s : State) (g k : Nat) : Nat := min k (s.freeVal.toNat % (ceilDiv k g + 1) * g)

/-- The entries that had started behind one that stopped at k: each has come to an index that a free value chooses, at most
that of the entry before it, and from the first that had not started on none had (R210, R441). They are of one strip (R29).
DESIGN CHOICE (log 58): none starts an access of its stream behind one that has accesses still to make (R201). `used` are the
streams that the earlier ones advance, `mem` says whether one of them has accesses to make. -/
noncomputable def freezeLater (pre : Ctx) (h : VqEntry) (g k ord : Nat) (mem : Bool) (used : List Nat) :
    List VqEntry → State → State
  | [], s => s
  | e :: t, s =>
    if e.isStore pre then freezeLater pre h g k ord mem used t s else
    let c := e.at_ pre
    let n := freeIdx s g k
    let q := c.streamForm
    let isMem := c.op.any memOp
    let s := s.useFree 1
    if decide (ord < 8) && n != 0 && e.vcfg == h.vcfg && e.vl == h.vl && c.chains && !(mem && isMem) && !(q.any used.contains) then
      match partRun pre e n s with
      | some (u, backs) =>
        let u := addProg u ord n (q.map fun i => (c.stream i).pos) backs
        if e.stripEnd then u else freezeLater pre h g n (ord + 1) (mem || isMem) (q.toList ++ used) t u
      | none => s
    else s

/-- What had started behind an entry of a queue that stopped at element k. -/
noncomputable def freezeBehind (pre : Ctx) (e : VqEntry) (g k : Nat) (rest : List VqEntry) (s : State) : State :=
  let c := e.at_ pre
  if k = 0 || e.stripEnd || !c.chains then s
  else freezeLater pre e g k 1 (c.op.any memOp) c.streamForm.toList rest s

/-- Perform the head of the running context's queue. A trap finds the context at the instruction's own program point, so the
later entries are gone, but for the progress of those that had started (R441); none has behind a footprint that touches an SO
page (R203). -/
noncomputable def performNow (s : State) : State :=
  match s.c.vq with
  | [] => s
  | e :: rest =>
    let c := { e.at_ s.c with vq := [] }
    match perform { s with c := c } with
    | none => s
    | some t =>
      if trapped c t.c then
        let k := if t.c.esk != 0 && !(t.c.resume.any Resume.so) then t.c.es.toNat else 0
        if t.c.alive then freezeBehind c e 1 k rest t else t
      else if t.c.pc == c.pc then { t with c := behind s.c t.c ({ e with hold := t.c.hold } :: rest) }
      else { t with c := e.back s.c t.c rest }

/-- Perform the head of a context's queue, if it is still ready: what its seat's other side has performed in this cycle may
hold the array (R290, R292). -/
noncomputable def performHead (s : State) (id : Nat) : State :=
  let s := s.focus id
  if headReady s s.c || storeReady s s.c then performNow s else s

/-- What a pre-emption leaves of the running context's queue (R445). A started instruction has finished an element group or a
row, and one that never stops part-way has finished or not started: a free value chooses. Those that have finished retire with
the stores behind them, and the context rolls back to the first that has not. -/
noncomputable def freezeQueue : Nat → State → State
  | 0, s => { s with c := s.c.rollback }
  | fuel + 1, s =>
    match s.c.vq with
    | [] => s
    | e :: t =>
      let c := e.at_ s.c
      let back := fun (s : State) => { s with c := s.c.rollback }
      let whole := fun (s : State) =>
        let u := performNow s
        if u.c.alive && !trapped s.c u.c && decide (u.c.vq.length < s.c.vq.length) then freezeQueue fuel u else back s
      match e.hold.bind Hold.todo with
      | some l => back (freezeBehind s.c e 256 (l.foldl min (l.headD 0)) t s)
      | none =>
        let s' := s.useFree 1
        let row := c.op.any fun o => o.1 == 0x26
        let g := if row then 1 else 256
        let all := if row then vcfgGrp e.vcfg * s.dlen else c.vlen
        let n := freeIdx s g all
        let q := c.streamForm
        if e.isStore s.c then whole s
        else if arrayKeeps s c then back s
        else if !c.op.any canStop then (if s.freeVal.getLsbD 0 then whole s' else back s')
        else if n = 0 then back s'
        else if n = all then whole s'
        else match partRun s.c e n s' with
          | some (u, backs) => back (freezeBehind s.c e g n t (addProg u 0 n (q.map fun i => (c.stream i).pos) backs))
          | none => back s'

/-- Freeze the queue of a context that is to be pre-empted now. -/
noncomputable def freezeCtx (s : State) (id : Nat) : State :=
  if (s.ctx? id).any fun c => !c.vq.isEmpty && !c.tst.getLsbD 2 && stoppable s c && (s.part c.part).savesz != 0 then
    s.asCtx id fun s => freezeQueue (s.c.vq.length + 1) s
  else s

/-- Before a step that pre-empts contexts, their queues freeze. -/
noncomputable def beforeStep (i : Instr) (s : State) : State :=
  match i with
  | .preemption id => freezeCtx s id
  | .clusterRetirement cl =>
    let on := s.ctxs.filter fun c => c.core / 4 == cl && decide (c.core < 64)
    if on.all fun c => stoppable s c && !c.tst.getLsbD 2 then on.foldl (fun s c => freezeCtx s c.id) s else s
  | _ => s

/-! ## Issue into the queue and ahead of it (R22, R440) -/

/-- The running context as an entry of its queue. -/
def Ctx.entry (c : Ctx) (delay : Nat) : VqEntry :=
  { pc := c.pc, line := c.line, s := c.s, avl := c.avl, vl := c.vl, vcfg := c.vcfg, hold := none, delay := delay }

/-- The running context's instruction enters its queue. -/
def enqueue (s : State) (delay : Nat) : State :=
  { s with c := { s.c.leaveHead with
      vq := s.c.vq ++ [s.c.entry delay], pc := s.c.nextPc, line := if s.c.staysInLine then s.c.line else none } }

/-- Whether a copy of the running context waits for a slot of its engine: until it is handed off, it has not passed its last
fault point (R440). -/
def copyWaits (s : State) : Bool := s.copies.any fun x => x.ctx == s.c.id && x.slot.isNone

/-- A vector instruction issues: at a beat of its seat it passes an empty queue when its operands and unit are ready, and it
enters the queue otherwise. One that resumes, or has a progress entry, passes alone. -/
noncomputable def issueVector (s : State) (i : Instr) : Res :=
  let d := s.lag.headD 0
  let t := markIssued s s.mySeat s.c.slot
  if s.c.hold.isSome then exec i s
  else if copyWaits s then .next s
  else if s.c.resuming || s.c.entry0.isSome then (if s.c.vq.isEmpty && mayPass s then exec i t else .next s)
  else if s.c.vq.isEmpty && d == 0 && mayPass s then exec i { t with lag := s.lag.tail }
  else .next (enqueue { s with lag := s.lag.tail } d)

/-- Whether an entry is a store, or a vector acquire: a load of its context's scalar stream waits for it (R201, R252). -/
noncomputable def VqEntry.keepsLoads (e : VqEntry) (c : Ctx) : Bool :=
  e.isStore c || (e.at_ c).instr?.any fun i =>
    match i.enc with
    | some (.h2 m _ f) => m == 0x22 && isAcquire f
    | _ => false

/-- Whether a scalar instruction can be undone, so that it may execute before a vector instruction of the queue has passed
its last fault point: arithmetic, branches, strip lengths without a chain, and loads of memory on pages that are not SO
(R440). -/
noncomputable def undoable (s : State) (i : Instr) : Bool :=
  match i with
  | .nop => true
  | .hint _ => true
  | .ld f =>
    let a := (scalarAddr s f).toNat
    match resolve s s.agent .load a (tyWidth f.ty.toNat / 8) with
    | .ok (.near p, _) => p.kind != 0 && !(s.c.vq.any fun e => e.keepsLoads s.c)
    | _ => false
  | .vnext _ => !s.c.chv
  | .vsetlChained _ => false
  | .vgang _ => false
  | i =>
    match i.enc with
    | some (.h1 m _ _) => m == 0x01 || m == 0x05
    | some (.h2 m fn _) => m == 0x06 && decide (fn ≤ 4)
    | some (.h3 m fn _) => m == 0x02 || (m == 0x04 && decide (fn < 4)) || m == 0x0A || m == 0x0B || m == 0x13
    | some (.wide _ _ _) => true
    | _ => false

/-- Whether an instruction begins another strip (R29). -/
def newStrip (i : Instr) : Bool :=
  match i with
  | .vsetl _ => true
  | .vnext _ => true
  | _ => false

/-- The context has gone on to another strip behind what its queue holds. -/
def Ctx.endStrip (c : Ctx) : Ctx :=
  { c with vq := c.vq.dropLast ++ (c.vq.getLast?.map fun e => { e with stripEnd := true }).toList }

/-- A scalar instruction behind a vector instruction that has not passed its last fault point: it executes if it can be
undone and does not trap, a store enters the queue, and everything else waits (R440). -/
noncomputable def runAhead (s : State) (i : Instr) : Res :=
  match i with
  | .st _ => .next (if s.c.vq.isEmpty then s else enqueue s 0)
  | i =>
    if !undoable s i then .next s else
    match exec i s with
    | .next t =>
      .next (if trapped s.c t.c || t.c.hold.isSome then s else if newStrip i then { t with c := t.c.endStrip } else t)
    | r => r

/-- The register fields of an instruction. -/
def regFields (i : Instr) : List Nat :=
  match i with
  | .jmp _ => []
  | .call f => [f.d.toNat]
  | i =>
    match i.enc with
    | some (.h1 _ _ f) => [f.d.toNat, f.a.toNat, f.b.toNat]
    | some (.h2 _ _ f) => [f.d.toNat, f.a.toNat, f.b.toNat]
    | some (.h3 _ _ f) => [f.d.toNat, f.a.toNat, f.b.toNat, f.c.toNat, f.dl.toNat]
    | some (.wide _ _ f) => [f.d.toNat]
    | _ => []

/-- Whether an instruction reads or writes a scalar register that an instruction of its context's queue has still to write: it
waits until that has been done (R311). -/
noncomputable def waitsForQueue (s : State) (i : Instr) : Bool :=
  s.c.vq.any fun e => (e.dest s.c).any fun d => d != 0 && (regFields i).contains d

/-- Whether a scalar instruction waits for the seat's array: a write of `spwmode` (R298). -/
def usesArray (i : Instr) : Bool :=
  match i with
  | .csrw f => f.imm == 0x0C
  | .csrs f => f.imm == 0x0C
  | .csrc f => f.imm == 0x0C
  | _ => false

/-! ## Beats (R25, R26) -/

/-- The beats of a cycle, and the stores that every vector instruction before them lets go (R440). -/
def beats (s : State) : State :=
  if s.ctxs.all fun c => c.vq.isEmpty then s
  else
    let s := (s.seats.filter (ownsBeat s)).foldl (fun s t => seatBeat s t.core t.pos) s
    { s with issue := s.issue ++ (s.ctxs.filter (storeReady s)).map Ctx.id }

end Sys2Proof.Machine
end

