-- ==== Sys2Proof/Machine/Clock.lean ====
section
/-! DEFINITION. The clock of the device: what happens in a cycle and in which order (R13, R22, R58, R59), the issue of an
instruction (R76, R77, R90 to R92, R360, R456), and what a tick brings (R38, R44, R431, R444, R447, R470). -/
namespace Sys2Proof.Machine

/-! ## Issue -/

/-- Whether a context is ready to issue (R22), or to enter its line after a restore: one that waits, or whose vector queue is
full, is not. -/
def readyCtx (s : State) (c : Ctx) : Bool :=
  (c.wait.isNone || c.entering) && decide (c.queued < 32) && c.hold.all holdReady && mayGo s c c.hold

/-- The smallest sequencer from `lo` on that has a ready context. -/
def nextSeq (s : State) (lo : Nat) : Option Nat :=
  s.ctxs.foldl (fun o c =>
    let q := s.seqOfCtx c
    if readyCtx s c && decide (lo ≤ q) then (match o with | none => some q | some x => some (min x q)) else o) none

/-- The context among those that satisfy `p` that completed its `waitt` first, of several the one of lowest slot (R13). -/
def firstDone (l : List Ctx) : Option Ctx :=
  (l.filter Ctx.waittDone).foldl (fun o c =>
    match o with
    | none => some c
    | some x => if c.waittAt < x.waittAt || (c.waittAt == x.waittAt && decide (c.slot < x.slot)) then some c else some x) none

/-- The context of lowest slot among those that satisfy `p`. -/
def lowestSlot (l : List Ctx) (p : Ctx → Bool) : Option Ctx :=
  (l.filter p).foldl (fun o c =>
    match o with
    | none => some c
    | some x => if c.slot < x.slot then some c else some x) none

/-- The slot that issued last on a sequencer. -/
def lastSlot (s : State) (q : Nat) : Option Nat := (s.lastRun.find? fun x => x.1 == q).map Prod.snd

/-- The context that a sequencer takes: one that has just completed a `waitt` (R13), or the next round-robin (R22). DESIGN CHOICE
(log 60): while none has issued on the sequencer, the round-robin begins with the lowest slot. -/
def seqPick (s : State) (q : Nat) : Option Ctx :=
  let l := s.ctxs.filter fun c => readyCtx s c && s.seqOfCtx c == q
  match firstDone l with
  | some c => some c
  | none =>
    match (lastSlot s q).bind fun n => lowestSlot l fun c => decide (n < c.slot) with
    | some c => some c
    | none => lowestSlot l fun _ => true

/-- The privilege that an instruction needs whatever its operands hold (check 7 of R91, R124, R460). -/
def levelOf : Instr → Nat
  | .csrr f => csrReadLevel f.imm.toNat
  | .csrw f => csrWriteLevel f.imm.toNat
  | .csrs f => csrWriteLevel f.imm.toNat
  | .csrc f => csrWriteLevel f.imm.toNat
  | .eret _ => 1
  | .spwMode _ => 1
  | .flmSeal _ => 1
  | .prtNew _ => 2
  | .prtAsg _ => 2
  | .prtStop _ => 2
  | .prtKill _ => 2
  | .prtSt _ => 2
  | .scbGo _ => 2
  | .scbSt _ => 2
  | .keyLd _ => 2
  | .keyZ _ => 2
  | .ckpGo _ => 2
  | .ckpSt _ => 2
  | .ckpRb _ => 2
  | _ => 0

/-- A trap of the scalar stream: it waits until every earlier vector instruction has passed its last fault point (R440). -/
def drained (s : State) (r : Res) : Res := if s.c.vq.isEmpty && !copyWaits s then r else .next s

/-- Execute the head at the pc, in a line that the context holds: the checks of R91, the execute check of R456, and the
instruction, which passes, enters or overtakes the vector queue. A breakpoint's `tval` is stated nowhere; it is a free
value. DESIGN CHOICE (log 60): a hint's head in an execute range breaks as any head does (R456), though R94 names no such trap
of a hint. -/
noncomputable def issueHead (s : State) (l : Line) : Res :=
  match decodeLine l.bytes (headIdx s.c.pc.toNat) with
  | .error _ => drained s (.next (illegal s))
  | .ok i =>
    if s.c.priv.toNat < levelOf i then drained s (exec i s)
    else if s.c.hold.isNone && execHit s s.c.pc.toNat && s.c.bpExempt != some s.c.pc then
      let pc := s.c.pc
      let t := trapAt (s.useFree 1) 0x10 s.freeVal
      drained s (.next { t with c := { t.c with bpExempt := some pc } })
    else if waitsForQueue s i || (usesArray i && arrayBusy s s.c) then .next s
    else if s.c.op.any vecOp then issueVector s i
    else if s.c.vq.isEmpty && !copyWaits s then exec i s
    else runAhead s i

/-- Issue the next instruction of the running context: first the fault of a copy that is to be delivered (R360), then the
fetch of the line when control enters it (R77, R90). A context restored in a wait only enters its line, and waits on; a
failed check ends the wait. -/
noncomputable def issueHere (s : State) : Res :=
  if (copyFault s s.c.id).isSome && atBoundary s.c then execCopyFaultDelivery s.c.id s
  else match s.c.line with
  | some l => issueHead s l
  | none =>
    match enterLine s s.c.pc.toNat with
    | .trap c t => drained s (.next (trapAt { t with c := { t.c with wait := none } } c (wd (lineBase t.c.pc.toNat))))
    | .hold s => .next s
    | .ok l s =>
      let s := { s with c := { s.c with line := some l, hold := none } }
      if s.c.wait.isSome then .next (redResume s) else issueHead s l

/-- Give sequencer q its slot in this cycle, to the context c. -/
noncomputable def issueOn (s : State) (q : Nat) (c : Ctx) : Res :=
  let s := s.focus c.id
  issueHere { s with
    c := { s.c with waittDone := false }
    cursor := q + 1
    lastRun := (s.lastRun.filter fun x => x.1 != q) ++ [(q, c.slot)] }

/-! ## The end of a cycle (R59) -/

/-- The place of a request in the order of R59. What that order does not name, `cb.st` and the expert bindings, goes
with the claims and receives (log 54). -/
def reqRank (m : Msg) : Nat :=
  match m.req with
  | .mtArrive _ _ _ _ => 1
  | .cbFill _ _ => 1
  | .chPub _ => 1
  | .lkAcquire _ _ => 1
  | .lkRelease => 2
  | .lkMend => 2
  | .cbFree _ => 2
  | .mtJoin _ _ => 3
  | .mtInit _ _ _ => 7
  | .query what _ => if what ≤ 1 then 7 else 5
  | _ => 5

/-- The step that a request makes at its home. -/
def reqStep (m : Msg) : Instr :=
  match m.req with
  | .mtInit _ _ _ => .meetingInitAtHome m
  | .mtArrive _ _ _ _ => .meetingArrivalAtHome m
  | .mtWait _ _ => .meetingArrivalAtHome m
  | .mtJoin _ _ => .meetingJoinAtHome m
  | .lkAcquire _ _ => .lockAcquireAtHome m
  | .lkRelease => .lockReleaseAtHome m
  | .lkMend => .lockMendAtHome m
  | .cbClaim _ _ _ => .bufferClaimAtHome m
  | .cbFill _ _ => .bufferFillAtHome m
  | .cbRecv _ _ _ => .bufferRecvAtHome m
  | .cbFree _ => .bufferFreeAtHome m
  | .chPub _ => .chainPubAtHome m
  | .chRead _ _ _ => .chainPubAtHome m
  | .query _ _ => .bufferFreeAtHome m

/-- The requests that have reached their homes; a context's requests to one home keep their order (R52). -/
def dueMsgs (s : State) : List Msg → List Msg → List Msg
  | [], _ => []
  | m :: t, seen =>
    if m.arrive ≤ s.now && !seen.any (sameWay m) then m :: dueMsgs s t (m :: seen)
    else dueMsgs s t (m :: seen)

/-- The first due request of a rank, as its step. -/
def msgStep (s : State) (rank : Nat) : Option Instr :=
  ((dueMsgs s s.msgs []).find? fun m => reqRank m == rank).map reqStep

/-- A meeting whose close tick has come. -/
def closeStep (s : State) : Option Instr :=
  (s.meets.find? fun m => m.dlv && decide (m.dl + m.grace ≤ s.now) && !closeHeld s m.obj).map fun m => .meetingCloseDeadline m.obj

/-- A lock whose hold has lapsed. -/
def lapseStep (s : State) : Option Instr :=
  (s.locks.find? fun l => l.holder.isSome && decide (l.hdl < s.now)).map fun l => .lockHoldLapse l.pa

/-- A reserved slot whose firing has ended, or whose time has passed (R37, R65). -/
def holeStep (s : State) : Option Instr :=
  (s.holes.head?.map fun x => .slotHoleConversion x.1 x.2.1 x.2.2) <|>
  s.bufs.findSome? fun b =>
    if b.home ≠ s.dev then none else
    ((List.range b.cap).find? fun i => match slotAt b i with
      | .reserved dl => decide (dl + boundOf s b.scope ≤ s.now)
      | _ => false).map fun i => .slotHoleConversion b.part b.n i

/-- A waiting party whose time is over. -/
def giveUpStep (s : State) : Option Instr :=
  (s.meets.findSome? fun m => (m.waits.find? (giveUpDue s m)).map fun w => .meetingWaitGiveUp m.obj w.who) <|>
  (s.locks.findSome? fun l => (l.queue.find? fun w => tickOver s (w.u + w.b)).map fun w => .lockAcquireTimeout l.pa w.who) <|>
  (s.bufs.findSome? fun b => (b.claims.find? (cbDue s b)).map fun w => .claimTimeout b.part b.n w.who) <|>
  (s.bufs.findSome? fun b => (b.recvs.find? (cbDue s b)).map fun w => .recvTimeout b.part b.n w.who) <|>
  (s.chains.findSome? fun c => (c.waits.find? fun w => tickOver s (w.u + boundOf s c.scope)).map fun w =>
    .chainReadTimeout c.part c.n w.who)

/-- What the homes do first at the end of a cycle: steps 1 to 4 of R59. -/
def homeFirst (s : State) : Option Instr :=
  msgStep s 1 <|> msgStep s 2 <|> msgStep s 3 <|> closeStep s <|> lapseStep s <|> holeStep s

/-- What the homes do then: steps 5 to 7 of R59, after the grants to what waits (`settleBufs`). -/
def homeRest (s : State) : Option Instr := msgStep s 5 <|> giveUpStep s <|> msgStep s 7

/-- An answer that reaches its context, or a wait whose home is lost (R68). -/
def answerStep (s : State) : Option Instr :=
  ((s.answers.find? fun a => decide (a.arrive ≤ s.now) && !(s.ctx? a.ctx).any Ctx.entering).map .verdictReceived) <|>
  ((s.ctxs.find? fun c => !c.entering && c.wait.any (lossDue s)).map fun c => .homeLossTimeout c.id)

/-- What a scheduler places. -/
def bidStep (s : State) (p : Nat) : Option Instr :=
  if !(s.graphs.any fun g => g.part == p) && (s.part p).spawnQ.isEmpty && !(s.saved.any fun x => x.part == p) then none
  else (firstBid (clockStages s) p).map fun b =>
    match b.who with
    | .stage _ _ => .stageFiring p
    | .spawn _ => .spawnPlacement p
    | .saved _ => .contextRestore p false

/-- What the schedulers and engines do at the end of a cycle. -/
def engineStep (s : State) : Option Instr :=
  ((s.seats.find? fun t => t.lprNew.isSome && seatEmpty s t).map fun t => .lprTakeEffect t.core t.pos) <|>
  ((List.range 64).findSome? fun p => bidStep s p) <|>
  ((s.copies.find? fun x => x.slot.isNone && (freeCopySlot s x.core x.pos).isSome && (s.part x.part).ckPhase == 0 &&
    ((s.copies.filter fun y => sameSeat x y && y.slot.isNone).head?.map Copy.id) == some x.id).map fun x => .copyHandoff x.id) <|>
  ((s.copies.find? fun x => x.due s.now).map fun x => .copyCompletion x.id) <|>
  (((List.range 64).find? (scrubReady s)).map .scrubBlock)

/-- A request of another device whose turn in its stream has come with a meeting-class request before it (R389). -/
def streamStep (s : State) : Option Instr :=
  s.streams.findSome? fun x => (x.ahead.find? fun f => f.oseq == x.next).map fun f =>
    if f.kind = 6 then .routingItemDelivery f else .fabricRequest f

/-- Requests that time out or go again, and leases whose time has come. -/
def fabricStep (s : State) : Option Instr :=
  ((s.resvs.find? (resvOver s)).map fun r => .requestTimeout r.tag) <|>
  ((s.resvs.find? (retryDue s)).map fun r => .busyRetry r.tag) <|>
  ((loopDue s).map .routingItemDelivery) <|>
  ((s.leases.find? fun l => l.state == 1 && decide (l.start + lossTicks ≤ s.now)).map fun l => .leaseGrant l.part l.id 0) <|>
  ((s.leases.find? fun l => decide (l.term ≤ s.now) && endingDue s l 1).map fun l => .leaseTerm l.part l.id) <|>
  ((s.leases.find? (drainDue s)).map fun l => .leaseDrainComplete l.part l.id) <|>
  ((s.leases.find? (retuneOver s)).map fun l => .leaseReversionComplete l.part l.id) <|>
  (((List.range 10).find? fun d => starvedNow s d && s.leases.any (reclaims s d)).map .starvationReclaim)

/-- The next device step of the end of a cycle, once the homes have granted what they can. -/
def endStep (s : State) : Option Instr := homeRest s <|> answerStep s <|> engineStep s <|> streamStep s <|> fabricStep s

/-! ## The start of a cycle -/

/-- A `waitt` that has reached its tick (the lowest slot first), or a pause that is over. -/
def startStep (s : State) : Option Instr :=
  ((lowestSlot s.ctxs (waittDue s)).map fun c => .waittCompletion c.id) <|>
  ((s.ctxs.find? fun c => c.wait.any fun w => w.op == .pause && pauseOver s c w).map fun c => .wfeWake c.id)

/-- Let waiting `vgang`s end that can. -/
def settleGangs (s : State) : State :=
  s.ctxs.foldl (fun s c =>
    match c.wait with
    | some w => (match w.op with
      | .gang d seats dl => if c.entering then s else s.asCtx c.id fun s => settleGang s d seats dl
      | _ => s)
    | none => s) s

/-! ## The clock -/

/-- Device steps that a new tick brings; `t` is the tick before it. -/
def tickSteps (s : State) (t : Nat) : List Instr :=
  (if meterDue s then [.meterSnapshot] else []) ++
  (if t / 4096 = s.now / 4096 then [] else [.timeFlitExchange]) ++
  (s.graphs.flatMap fun g => (List.range g.stages.length).filterMap fun i =>
    (g.stages[i]?).bind fun x => if x.since.isSome && decide (x.level < waitLevel (stageWait s x)) then some (.stageAging g.part g.g i) else none) ++
  ((List.range 64).filterMap fun p =>
    let x := s.part p
    if (x.ckPhase = 2 ∨ x.ckPhase = 3) ∧ x.ckStart + 2 ^ 16 ≤ s.now then some (.checkpointTimeout p) else none) ++
  ((s.migrs.filter fun m => m.switching && decide (m.since + 128 ≤ s.now)).map fun m => .migrationDone m.src) ++
  ((s.rots.filter fun r => r.holder != noHolder && sliceOver s r).map fun r => .sliceEnd r.core r.pos) ++
  ((List.range 10).flatMap fun d =>
    (if replayDue s d then [.replayTimeout d] else []) ++ (if idleDue s d then [.idleFlit d] else []) ++
    (if escapeDue s d then [.escapeMove d] else [])) ++
  (if escapeDue s noLink then [.escapeMove noLink] else [])

/-- Wait clocks in a new tick (R38, R447). -/
def tickStages (s : State) : State :=
  if s.graphs.isEmpty then s else
  let s := clockStages s
  { s with graphs := s.graphs.map fun g => { g with stages := g.stages.map (holdClock s g.part) } }

/-- What each partition does in a new tick: the end of a scrub, a checkpoint's progress, its scheduler's pre-emption. -/
def tickPart (s : State) (p : Nat) : State := schedPreempt (progressCkpt (endScrub s p) p) p

/-- A new tick (R44): one more, two more or none. -/
def newTick (s : State) : State :=
  let t := s.now
  let adj : BitVec 64 := if 0 < s.tickAdj then 2 else if s.tickAdj < 0 then 0 else 1
  let s := { s with tick := s.tick + adj, tickAdj := s.adjNext, adjNext := 0, cyc := 0 }
  let s := keepDue s
  let s := { s with inputs := s.later ++ s.inputs, later := [] }
  let s := (s.rots.filter fun r => r.holder == noHolder).foldl nextTenant s
  let s := (List.range 64).foldl tickPart (tickStages s)
  { s with inputs := s.inputs ++ tickSteps s t }

/-- Stops that progress (R427). -/
def progressStops (s : State) : State :=
  (List.range 64).foldl (fun s p => if (s.part p).stop.isSome then progressStop s p else s) s

/-- The next cycle. -/
def newCycle (s : State) : State :=
  let s := { s with cursor := 0, cycle := s.cycle + 1, issued := [] }
  let s := if s.graphs.isEmpty then s else clockStages s
  beats (progressStops (if s.cyc + 1 < cyclesOfTick s then { s with cyc := s.cyc + 1 } else newTick s))

/-- The end of a cycle: the homes' first steps, their grants, the other steps, and the next cycle. -/
noncomputable def endOfCycle (s : State) : Res :=
  match if s.cursor = cycleGrants then none else homeFirst s with
  | some i => exec i { s with cursor := cycleEnd }
  | none =>
    let s := if s.cursor = cycleGrants then s else settleBufs (settleEvicts s)
    match endStep s with
    | some i => exec i { s with cursor := cycleGrants }
    | none => .next (newCycle s)

/-- The part of a cycle that comes next: the instruction of a beat, a step of its start, the next sequencer's slot, a step of
its end, or the next cycle. -/
noncomputable def cycleStep (s : State) : Res :=
  match s.issue with
  | id :: rest => .next (performHead { s with issue := rest } id)
  | [] =>
  match if s.cursor = 0 then startStep s else none with
  | some i => exec i s
  | none =>
    let s := if s.cursor = 0 then settleGangs s else s
    match (nextSeq s s.cursor).bind fun q => (seqPick s q).map fun c => (q, c) with
    | some (q, c) => issueOn s q c
    | none => endOfCycle s

/-- Device steps that a parent instruction makes: a control register's write is no step by itself. -/
def isPartOfInstr : Instr → Bool
  | .registerWrite _ _ => true
  | .vcfgWrite _ => true
  | .vlWrite _ => true
  | .fpsWrite _ => true
  | .whzWrite _ => true
  | .lprWrite _ => true
  | .spwmodeWrite _ => true
  | .spwstWrite _ => true
  | .wptWrite _ _ => true
  | _ => false

/-- Whether an instruction is a device step that may come from outside, or at a moment that the hardware chooses. -/
def isOutside (i : Instr) : Bool := i.enc.isNone && !isPartOfInstr i

/-- What reaches a device that stays in its boot ROM: it answers SPDM requests alone (R472). A reset, a change of life-cycle state,
heat, and the host's use of its own memory are no requests to it. -/
def reachesRom : Instr → Bool
  | .spdmGetMeasurements _ _ _ => true
  | .deviceReset => true
  | .lifeCycleChange _ _ => true
  | .thermalThrottle _ => true
  | .thermalShutdown => true
  | .coolingRestored => true
  | .hostMemoryRequest _ a _ _ _ => isHost a
  | _ => false

/-- Fill the events that a step has queued (R458). -/
def fillAfter : Res → Res
  | .next s => .next (flushEvents s)
  | r => r

/-- One step: an outside step that is next, a row of the bring-up (R491), nothing while the device is held, or the part
of the cycle that comes next. -/
noncomputable def machineStep (s : State) : Res :=
  match s.inputs with
  | i :: rest =>
    if isOutside i && (s.boot != .romOnly || reachesRom i) then fillAfter (exec i (beforeStep i { s with inputs := rest }))
    else .next { s with inputs := rest }
  | [] =>
    match s.boot with
    | .booting n => .next (bootStep s n)
    | .thermalHold => .next s
    | .romOnly => .next s
    | .running => fillAfter (cycleStep s)

/-- The state in which the next step fetches and runs the instruction with these head and tail, alone in a line at the
base of the line where the context stands, in a cycle of its seat's first beat. -/
def placeHead (s : State) (head : BitVec 16) (tail : BitVec 48) : State :=
  let base := lineBase s.c.pc.toNat
  { s with
    inputs := [], boot := .running, cursor := s.seqOfCtx s.c, issue := [], lag := []
    cycle := s.cycle / 4 * 4 + s.c.pos, issued := [], copies := s.copies.filter fun x => x.ctx != s.c.id
    lastRun := (s.lastRun.filter fun x => x.1 != s.seqOfCtx s.c) ++ if s.c.slot = 0 then [] else [(s.seqOfCtx s.c, s.c.slot - 1)]
    others := s.others.map fun c => { c with waittDone := false }
    c := { s.c with alive := true, pc := BitVec.ofNat 56 base, line := some { base := base, bytes := oneHeadLine head tail },
                    wait := none, hold := none, resume := none, vq := [], stopping := none } }

end Sys2Proof.Machine
end

