-- ==== Sys2Proof/Machine/Step.lean ====
section
/-! DEFINITION. The step of the machine, and the placing of an instruction where the next step takes it. -/
namespace Sys2Proof.Machine

/-- One step of the machine. -/
noncomputable def step (s : State) : Host.Outcome State Fault Refusal := machineStep s

/-- `s` with the instruction of a table word where the next step runs it (log 3). -/
def State.withFetchWord (s : State) (nbits w : Nat) : State :=
  placeHead s (BitVec.ofNat 16 (w % 2 ^ nbits)) (BitVec.ofNat 48 (w % 2 ^ nbits / 65536))

end Sys2Proof.Machine
end

