-- ==== Sys2Proof/Safety.lean ====
section
/-! DEFINITION. What claims about the machine are stated with: how an instruction ends, what stays as it was, and the
invariants that steps keep. -/
namespace Sys2Proof.Machine

/-- The instruction has completed and its context goes on with the next head in flow (R76). -/
def Retired (s t : State) : Prop := t.c.pc = s.c.nextPc ∧ t.c.alive = s.c.alive ∧ t.c.id = s.c.id ∧ t.c.hold = none

/-- Nothing but the running context has changed. -/
def OnlyCtx (s t : State) : Prop := t = { s with c := t.c }

/-- Of the running context nothing has changed but its scalar registers and its place: the pc, the line that it holds, what
belongs to one execution of a head (R76, R443, R456), and the progress entries that the end of an instruction brings nearer
(R441). -/
def OnlyScalars (c d : Ctx) : Prop :=
  d = { c with s := d.s, pc := d.pc, line := d.line, es := d.es, esk := d.esk, prog := d.prog, hold := d.hold
               resume := d.resume, bpExempt := d.bpExempt }

/-- The frame of an instruction that writes scalar register `d` alone: nothing else changes than that register and the
context's place, and `es` and `esk` change only where the instruction resumed from `es` (R443). -/
def FrameReg (s t : State) (d : Nat) : Prop :=
  OnlyCtx s t ∧ OnlyScalars s.c t.c ∧ (∀ n, n ≠ d → t.reg n = s.reg n) ∧
    ((∀ r, s.c.resume = some r → r.active = false ∨ r.pc ≠ s.c.pc) → t.c.es = s.c.es ∧ t.c.esk = s.c.esk)

/-- A trap of cause `code` has been taken at the instruction (R438): what entry saves and where the context goes on. -/
def Trapped (s t : State) (code : Nat) (tval : Word) : Prop :=
  t.c.cause = wd code ∧ t.c.epc = s.c.pc.setWidth 64 ∧ t.c.tval = tval ∧
  t.c.tst.setWidth 2 = s.c.priv ∧ t.c.tst.getLsbD 2 = true ∧
  t.c.priv = (if s.c.part = 0 then 2 else 1) ∧ t.c.pc = s.myPart.tvec.setWidth 56 ∧ t.c.line = none

/-- A level that a context's partition allows: device level in partition 0 alone (R6). -/
def Ctx.LevelOk (c : Ctx) : Prop := c.priv.toNat ≤ 2 ∧ (c.part ≠ 0 → c.priv.toNat ≤ 1)

/-! ## How an instruction completes -/

/-- `i` writes x to scalar register d (nothing for register 0, R100) and its context goes on with the next head. -/
def Sets (i : Instr) (s : State) (d : BitVec 5) (x : Word) : Prop := exec i s = .next (s.setReg d.toNat x).adv

/-- `i` writes a value of which `P` holds to scalar register d, and its context goes on with the next head. -/
def SetsSome (i : Instr) (s : State) (d : BitVec 5) (P : Word → Prop) : Prop := ∃ x, Sets i s d x ∧ P x

/-- `i` ends as an instruction that comes to no wait: it writes two scalar registers, the second last, and `ws`, and its context
goes on with the next head (R49, R137). `u` is the state once its address is resolved, which can set ACC in a leaf (R225). -/
def EndsFrom (i : Instr) (s u : State) (d1 d2 : BitVec 5) (code : Nat) (r1 r2 : Word) : Prop :=
  ∃ t, exec i s = .next t ∧ Retired u t ∧ t.c.wait = none ∧ t.c.ws = wd code ∧
    (d2.toNat ≠ 0 → t.reg d2.toNat = r2) ∧ (d1.toNat ≠ 0 → d1 ≠ d2 → t.reg d1.toNat = r1) ∧
    (∀ n, n ≠ d1.toNat → n ≠ d2.toNat → t.reg n = u.reg n) ∧ t.mem = u.mem

/-- `EndsFrom` of an instruction that resolves no address. -/
def EndsWith (i : Instr) (s : State) (d1 d2 : BitVec 5) (code : Nat) (r1 r2 : Word) : Prop := EndsFrom i s s d1 d2 code r1 r2

/-- A request to the home of an object is in flight on this device, where it arrives now or later and may bring those before it
along, or takes a reply reservation and leaves for the device of the home, unless one was answered busy (R52, R390, R391). -/
def Sent (s t : State) (home : Nat) (obj : Obj) (req : Req) : Prop :=
  (home = s.dev → ∃ l m, t.msgs = l ++ [m] ∧ m.who = s.who ∧ m.obj = obj ∧ m.req = req ∧ s.now ≤ m.arrive ∧
    l.map (fun x => { x with arrive := 0 }) = s.msgs.map fun x => { x with arrive := 0 }) ∧
  (home ≠ s.dev → ∃ r m, t.resvs = s.resvs ++ [r] ∧ r.msg = some m ∧ r.start = s.now ∧
    m.who = { s.who with hdr := m.who.hdr } ∧ m.obj = obj ∧ m.req = req ∧
    ((∀ x ∈ s.resvs, x.busyUntil = none) → ∃ l, t.out = s.out ++ .msg home m :: l))

/-- `i` asks the home of an object and its context waits for the answer, standing at its instruction (R137). -/
def Asks (i : Instr) (s u : State) (home : Nat) (obj : Obj) (req : Req) : Prop :=
  ∃ t, exec i s = .next t ∧ t.c.pc = u.c.pc ∧ t.c.alive = u.c.alive ∧ t.mem = u.mem ∧ (∀ n, t.reg n = u.reg n) ∧
    (∃ w, t.c.wait = some w ∧ w.obj = some obj ∧ w.dev = home ∧ w.stamp = u.now) ∧ Sent u t home obj req

/-- `i` takes a trap of cause `code` whose `tval` is `v`, found once its address is resolved. -/
def Traps (i : Instr) (s u : State) (code : Nat) (v : Word) : Prop := exec i s = .next (trapAt u code v)

/-- `u` is the state in which an access at an address is made: after what an acquire at the scope waits for, with no fill out that a
release covers, and after the invalidations that a release at package scope waits for (R199, R200, R230). -/
def Ordered (s : State) (acq rel : Bool) (scope a n : Nat) (u : State) : Prop :=
  let t := if acq then acquired s scope a n else s
  (rel = true → fillsOut t = false) ∧ u = if rel then releaseAt t scope else t

/-- Byte k of storage. -/
def State.byteAt (s : State) (k : Nat) : Byte := getCell unwritten k s.mem

/-- Nothing stands in the way of accesses of a partition to the scratchpad of a core: a partition that runs, with no
double-backed buffer, no poison and no watchpoint. -/
def Quiet (s : State) (part core : Nat) : Prop :=
  s.binds = [] ∧ s.poison = [] ∧ (s.part part).st = .live ∧ core < 64 ∧ Memory.wf s.mem = true ∧
    ∀ w ∈ (s.part part).wpt.toList, w.getLsbD 63 = false ∧ w.getLsbD 62 = false

/-- n bytes at an offset of a core's scratchpad lie in a share of a partition (R180). -/
def OwnCsp (s : State) (part core o n : Nat) : Prop := o + n ≤ 0x300000 ∧ ownsPos s part core (o / 0xC0000) = true

/-- The n little-endian bytes of storage from key k on, as a number. -/
def State.bytesAt (s : State) (k n : Nat) : Nat := leNat ((List.range n).map fun i => s.byteAt (k + i))

/-- A load of the running context finds n bytes at a virtual address in device memory, at key k: through an RC leaf of 4 KiB of its
partition's tables that allows loads and has been used, of a frame that it owns and that has the leaf's skew. -/
def Readable (s : State) (va n k : Nat) : Prop :=
  va < 2 ^ 56 ∧ nbits va 48 8 ≠ 0xFE ∧ ∃ e ea line, walkFrom s s.agent .load va s.myPart.root [4, 3, 2, 1, 0] = .leaf e ea line ∧
    eACC e = true ∧ eRD e = true ∧ eRMT e = false ∧ eKind e = 1 ∧ eSize e = 0 ∧
    let pa := eFrame e * 4096 + va % 4096
    physOk s s.agent pa n = true ∧ pa < hbmEnd ∧ frameSkew s pa = some (eSkew e) ∧ k = hbmKey s pa

/-- The offset in a core's scratchpad at which an address of a space lies: in space 1, or in space 0 through the window of the core
(R174, R182). -/
def cspOff (sp a : Nat) : Option Nat :=
  if sp = 1 then some a else if sp = 0 ∧ windowAddr 1 0 ≤ a then some (a - windowAddr 1 0) else none

/-- A copy whose elements from i on lie aligned in a partition's shares of a core's scratchpad, with destinations apart from each
other and from every source (R354, R355). -/
def CopyInCsp (s : State) (part core : Nat) (d src : Desc) (i : Nat) : Prop :=
  let to_ := fun (k : Nat) => cspOff d.space (dstAddr d k)
  Quiet s part core ∧ ∀ k, i ≤ k → k < d.count →
    dstAddr d k % d.bytes = 0 ∧ (∃ o, to_ k = some o ∧ OwnCsp s part core o d.bytes) ∧
    (∀ a, srcAddr d src k = some a → a % d.bytes = 0 ∧ ∃ o, cspOff src.space a = some o ∧ OwnCsp s part core o d.bytes) ∧
    ∀ k', i ≤ k' → k' < d.count → (k ≠ k' → to_ k ≠ to_ k') ∧ ∀ a, srcAddr d src k' = some a → cspOff src.space a ≠ to_ k

/-- Such a copy has been made: each destination element from i on holds its source element, or zero, and no other byte has
changed. -/
def CopiedInCsp (s t : State) (core : Nat) (d src : Desc) (i : Nat) : Prop :=
  let at_ := fun (sp a : Nat) => keyCore core ((cspOff sp a).getD 0)
  let to_ := fun (k : Nat) => at_ d.space (dstAddr d k)
  (∀ k, i ≤ k → k < d.count → t.bytesAt (to_ k) d.bytes = ((srcAddr d src k).map fun a => s.bytesAt (at_ src.space a) d.bytes).getD 0) ∧
    ∀ x, (∀ k, i ≤ k → k < d.count → x < to_ k ∨ to_ k + d.bytes ≤ x) → t.byteAt x = s.byteAt x

/-! ## Shapes that every step keeps -/

/-- A context at a level that its partition allows, of at most seven attached seats, whose vector and accumulator elements
are in canonical form. -/
def Ctx.Ok (c : Ctx) : Prop := c.LevelOk ∧ c.gang.length ≤ 7 ∧ Memory.wf c.v = true ∧ cellsWf (0 : BitVec 36) c.a = true

/-- What every step keeps: canonical memory, seats of at most four positions, and contexts that are `Ok`, resident, saved or in
a checkpoint. -/
def State.Inv (s : State) : Prop :=
  Memory.wf s.mem = true ∧ (∀ t ∈ s.seats, t.size ≤ 4) ∧ (∀ p ∈ s.parts.toList, ∀ r ∈ p.seatRecs, r.size ≤ 4) ∧
  s.c.Ok ∧ (∀ x ∈ s.others, x.Ok) ∧ (∀ x ∈ s.saved, x.ctx.Ok) ∧ ∀ k ∈ s.ckpts, ∀ x ∈ k.saved, x.ctx.Ok

/-! ## What the integer functions compute -/

/-- The result x of function FN of majors 0x01 and 0x02 on a and b (R101). -/
def aluSays (fn : Nat) (a b x : Word) : Prop :=
  match fn with
  | 0 => x.toNat = (a.toNat + b.toNat) % 2 ^ 64
  | 1 => (x.toNat : Int) = ((a.toNat : Int) - b.toNat) % 2 ^ 64
  | 2 => ∀ i, x.getLsbD i = (a.getLsbD i && b.getLsbD i)
  | 3 => ∀ i, x.getLsbD i = (a.getLsbD i || b.getLsbD i)
  | 4 => ∀ i, x.getLsbD i = (a.getLsbD i != b.getLsbD i)
  | 5 => ∀ i < 64, x.getLsbD i = (a.getLsbD i && !b.getLsbD i)
  | 6 => x.toNat = a.toNat * 2 ^ (b.toNat % 64) % 2 ^ 64
  | 7 => x.toNat = a.toNat / 2 ^ (b.toNat % 64)
  | 8 => x.toInt = a.toInt / 2 ^ (b.toNat % 64)
  | 9 => ∀ i < 64, x.getLsbD i = a.getLsbD ((i + (64 - b.toNat % 64)) % 64)
  | 10 => x.toInt = min a.toInt b.toInt
  | 11 => x.toInt = max a.toInt b.toInt
  | 12 => x.toNat = min a.toNat b.toNat
  | 13 => x.toNat = max a.toNat b.toNat
  | _ => False

/-- The value of a word: signed for TYPE 4, else unsigned. -/
def typed (ty : BitVec 4) (x : Word) : Int := if ty = 4 then x.toInt else x.toNat

/-- The taking of a transfer to an address (R88 to R90): into a line that holds the head there; `u` is the state once the line is
fetched. -/
def Jumps (u t : State) (a : Nat) (l : Line) : Prop := t.c.pc = BitVec.ofNat 56 a ∧ t.c.line = some l ∧ t.mem = u.mem ∧ t.c.hold = none

/-! ## What a step at a home answers -/

/-- A request of a party of this device stands at its home in this cycle. -/
def Due (s : State) (m : Msg) : Prop := m.who.dev = s.dev ∧ m ∈ s.msgs ∧ m.arrive ≤ s.now

/-- One answer, to a party of this device, is what leaves the homes: a code and two results (R49, R50). -/
def Answered (s t : State) (who : Who) (code : Nat) (r1 r2 : Word) : Prop :=
  ∃ a, t.answers = s.answers ++ [a] ∧ a.ctx = who.id ∧ a.stamp = who.stamp ∧ a.code = code ∧ a.r1 = r1 ∧ a.r2 = r2 ∧ a.trap = none

/-- The time of a waiting party's tick x is over: the tick has passed, or its last cycle runs and no
correction holds it once more (R44, R59, R154). -/
def TickPast (s : State) (x : Nat) : Prop := x < s.tick.toNat ∨ (x = s.tick.toNat ∧ cyclesOfTick s ≤ s.cyc + 1 ∧ 0 ≤ s.tickAdj)

/-- The last answer that has left the homes goes to a party of this device. -/
def AnsweredLast (t : State) (who : Who) (code : Nat) (r1 r2 : Word) : Prop :=
  ∃ l a, t.answers = l ++ [a] ∧ a.ctx = who.id ∧ a.stamp = who.stamp ∧ a.code = code ∧ a.r1 = r1 ∧ a.r2 = r2 ∧ a.trap = none

/-- How `cb.def` or `chain.def` `i` of an object begins (R160): `old` is the home and the scope of the binding that there is, `bad` and
`scopeOf` read the record, and `q` names the request. A record of this device is read here. Where the old binding's home is another
device than the new record's, and the new record lies here, the old home is asked first to give it up; else the home of the record is
asked to bind (log 54). -/
def Binds (i : Instr) (s : State) (f : H3) (o : Obj) (q : Nat) (old : Option (Nat × Nat)) (bad : List Byte → Bool)
    (scopeOf : List Byte → Nat) : Prop :=
  let a := s.reg f.a.toNat
  (a = 0 → let h := old.getD (s.dev, 0)
    (s.uns = false ∨ h.2 < 4 → Asks i s s h.1 o (.query q 0)) ∧ (s.uns = true → 4 ≤ h.2 → EndsWith i s f.d 0 wsNOVERDICT ones ones)) ∧
  ∀ (u : State) (r : Rec), a ≠ 0 → recordAt s a = .ok (r, u) → u.c = s.c → u.dev = s.dev →
    (r.dev = s.dev → poisoned u (physKey u r.pa) 64 = true → exec i s = .next (trapScalar u 0x0C a)) ∧
    ((r.dev = s.dev → poisoned u (physKey u r.pa) 64 = false) →
      let bs := peek u r.pa 64
      let sc := if r.dev = s.dev then scopeOf bs else 4
      let first := fun h : Nat × Nat => h.1 ≠ r.dev ∧ (r.dev = s.dev → bad bs = false)
      (u.uns = true → 4 ≤ sc → EndsFrom i s u f.d 0 wsNOVERDICT ones ones) ∧
      (u.uns = false ∨ sc < 4 →
        ((∀ h, old = some h → ¬first h) → Asks i s u r.dev o (.query q (r.pa + 1))) ∧
        ∀ h, old = some h → first h →
          (u.uns = false ∨ h.2 < 4 → (r.dev = s.dev → Asks i s u h.1 o (.query q 0)) ∧
            (r.dev ≠ s.dev → Asks i s u r.dev o (.query q (r.pa + 1)))) ∧
          (u.uns = true → 4 ≤ h.2 → EndsFrom i s u f.d 0 wsNOVERDICT ones ones)))

/-- A flit leaves on link d, or waits in the link's queue (R372, R382). -/
def Leaves (t : State) (d : Nat) (P : Flit → Prop) : Prop := ∃ f, P f ∧ (Out.flit d f ∈ t.out ∨ ∃ k, (k, f) ∈ (t.link d).queue)

/-- A flit of lease control (R374, R383, log 25): what it says, and a count. -/
def LeaseFlit (what k : Nat) (f : Flit) : Prop := f.kind = 4 ∧ f.cls = 3 ∧ f.op = BitVec.ofNat 8 what ∧ f.opd = BitVec.ofNat 192 k

/-! ## Requests of other devices -/

/-- A request is the next of its stream, and no later one has come (R389). -/
def NextHere (s : State) (f : Flit) : Prop :=
  (streamOf s f).next = f.oseq ∧ (streamOf s f).ahead = [] ∧
    (∀ y ∈ (streamOf s f).seen, y.1 ≠ f.oseq.toNat ∧ y.1 ≠ (f.oseq + 1).toNat) ∧
    ∀ y ∈ (streamOf s f).met, y.oseq ≠ (f.oseq + 1).toNat

/-- The state in which such a request is performed. -/
def turnOf (s : State) (f : Flit) : State := setStream s { streamOf s f with next := f.oseq + 1, ahead := [] }

/-- What step `i` does with a request by the order of its stream (R389, R390, R392): one that was performed is answered again, one that
was answered busy is performed, an old one or one that waits already changes nothing, one for a partition that is not there is
answered GONE, one that is early waits, and the next is performed. -/
def StreamOrder (i : Instr) (s : State) (f : Flit) : Prop :=
  let x := streamOf s f
  let p := f.dpart.toNat
  (∀ y, x.seen.find? (fun y => y.1 == f.oseq.toNat) = some y →
    (y.2.op = 1 → exec i s = .next (performFlit s f)) ∧
    (y.2.op ≠ 1 → f.kind ≠ 7 ∨ f.fn = 1 ∨ y.2.op ≠ 0 → exec i s = .next (sendFlit s p y.2)) ∧
    (y.2.op = 0 → f.kind = 7 → f.fn ≠ 1 → exec i s = .next s)) ∧
  ((∀ y ∈ x.seen, y.1 ≠ f.oseq.toNat) →
    (seqBefore f.oseq x.next = true → (∀ g ∈ x.ahead, g.oseq ≠ f.oseq) → exec i s = .next s) ∧
    ((∃ g ∈ x.ahead, g.oseq = f.oseq) → (∀ g ∈ x.ahead, g.oseq ≠ x.next) → x.has x.next = false → exec i s = .next s) ∧
    (seqBefore f.oseq x.next = false → x.ahead = [] →
      (takesFor s f = false → ∃ st, exec i s = .next { sendFlit s p (answerOf s f 2 [] 0) with streams := st }) ∧
      (takesFor s f = true → f.oseq ≠ x.next → x.has x.next = false →
        exec i s = .next (setStream s { x with ahead := [f] })))) ∧
  (NextHere s f → takesFor s f = true → itemWaits s f = false → exec i s = .next (performFlit (turnOf s f) f))

/-! ## Vector instructions -/

/-- The running context performs a vector instruction whole: it does not resume one that was stopped, and nothing stops this one
part-way (R308, R441, R443, R453). -/
def FromZero (s : State) : Prop := s.c.resuming = false ∧ (∀ e ∈ s.c.prog, e.ord ≠ 0) ∧ s.c.stop = none ∧ s.c.perr = none

/-- The running context can perform a vector instruction whole, and its configuration is legal (R307). -/
def VecReady (s : State) : Prop := s.c.vill = false ∧ FromZero s

/-- An instruction of the width of TYPE whose groups start at these registers passes the checks of R307. -/
def VecForm (s : State) (ty : BitVec 4) (regs : List (BitVec 5)) : Prop :=
  VecReady s ∧ tyWidth ty.toNat = s.c.ew ∧ ∀ r ∈ regs, r.toNat % s.c.grp = 0 ∧ r.toNat + s.c.grp ≤ 32

/-- Elements of width w that a group of n registers holds (R304). -/
def State.groupCap (s : State) (w n : Nat) : Nat := s.lanes * (s.dlen * 32 / w) * n

/-- A seat as the hardware has it, with its vector bytes in canonical form, and a grant that a group of n registers holds. -/
def VecSpace (s : State) (w n : Nat) : Prop :=
  w ∈ [8, 16, 32, 64] ∧ 1 ≤ s.lanes ∧ s.lanes ≤ 2048 ∧ s.dlen ≤ 32 ∧ s.c.vlen ≤ s.groupCap w n ∧ Memory.wf s.c.v = true

/-- `i` completes with the element of every active position e below `vl` of the group of n registers from d at a value of which
`P e` holds; every other element, every other vector register, the scalar registers, masks, accumulators and memory stay, and the
flags of the active elements are set (R308, R309). -/
def Maps (i : Instr) (s : State) (w n d : Nat) (mask : BitVec 4) (P : Nat → Nat → Prop) (fl : Nat → Nat) : Prop :=
  ∃ t, exec i s = .next t ∧ Retired s t ∧ (∀ r, t.reg r = s.reg r) ∧ t.mem = s.mem ∧ t.c.vl = s.c.vl ∧ t.c.m = s.c.m ∧ t.c.a = s.c.a ∧
    (∀ e < s.c.vlen, s.c.active mask e = true → P e (t.elem w d e)) ∧
    (∀ e < s.groupCap w n, s.c.vlen ≤ e ∨ s.c.active mask e = false → t.elem w d e = s.elem w d e) ∧
    (∀ k, k / 2 ^ 18 < d ∨ d + n ≤ k / 2 ^ 18 → getCell 0 k t.c.v = getCell 0 k s.c.v) ∧
    ∀ b, t.c.fps.getLsbD b = (s.c.fps.getLsbD b ||
      (decide (b < 6) && (List.range s.c.vlen).any fun e => s.c.active mask e && (fl e).testBit b))

/-- `i` completes with bit e of mask register d at `P e` for every active e below `vl`, all else of the masks, the vector and
scalar registers and memory as it was. -/
def MapsMask (i : Instr) (s : State) (d : Nat) (mask : BitVec 4) (P : Nat → Bool) : Prop :=
  ∃ t, exec i s = .next t ∧ Retired s t ∧ (∀ r, t.reg r = s.reg r) ∧ t.mem = s.mem ∧ t.c.vl = s.c.vl ∧ t.c.v = s.c.v ∧ t.c.a = s.c.a ∧
    (∀ r, r ≠ d → t.c.mask r = s.c.mask r) ∧
    ∀ e, (t.c.mask d).testBit e = if e < s.c.vlen ∧ s.c.active mask e = true then P e else (s.c.mask d).testBit e

/-- The result x of vector integer function k on a and b by TYPE (R312). -/
def vecSays (k ty a b x : Nat) : Prop :=
  let w := tyWidth ty
  let v := fun (z : Nat) => if tySigned ty then (BitVec.ofNat w z).toInt else (z : Int)
  let lo : Int := if tySigned ty then -(2 ^ (w - 1)) else 0
  let hi : Int := if tySigned ty then 2 ^ (w - 1) - 1 else 2 ^ w - 1
  match k with
  | 0 => x = (a + b) % 2 ^ w
  | 1 => (x : Int) = ((a : Int) - b) % 2 ^ w
  | 2 => (x : Int) = ((b : Int) - a) % 2 ^ w
  | 3 => ∀ i, x.testBit i = (a.testBit i && b.testBit i)
  | 4 => ∀ i, x.testBit i = (a.testBit i || b.testBit i)
  | 5 => ∀ i, x.testBit i = (a.testBit i != b.testBit i)
  | 6 => ∀ i < w, x.testBit i = (a.testBit i && !b.testBit i)
  | 7 => x = a * 2 ^ (b % w) % 2 ^ w
  | 8 => x = a / 2 ^ (b % w)
  | 9 => (BitVec.ofNat w x).toInt = (BitVec.ofNat w a).toInt / 2 ^ (b % w)
  | 10 => v x = min (v a) (v b)
  | 11 => v x = max (v a) (v b)
  | 12 => x = a * b % 2 ^ w
  | 13 => (x : Int) = v a * v b / 2 ^ w % 2 ^ w
  | 14 => v x = max lo (min hi (v a + v b))
  | 15 => v x = max lo (min hi (v a - v b))
  | _ => False

end Sys2Proof.Machine
end

