-- ==== Sys2Proof/Certificates/Slice0/Obligations.lean ====
section
/-! DEFINITION. The statements for the provers, one `Obligations.<Name> : Prop` each. -/
open Sys2Proof Sys2Proof.Machine

/-- Words written out field by field, one or more of each family: tail (A, B, ...) above head (TL, MAJ, DST, SUB). -/
def Obligations.SampleWords : Prop :=
  -- `add s3, s1, s2`: A 1, B 2, FN 0; TL 1, MAJ 0x01, DST 3
  decodeTableWord 32 (0b00001_00010_000000 * 2 ^ 16 + 0b01_000001_00011_000) = some (.addReg { d := 3, sub := 0, a := 1, b := 2 }) ∧
  -- `add s3, s1, #-1`: MAJ 0x02, IMM16 all ones
  decodeTableWord 64 (0b00001_00000_0000_0000_0000_00000_00000_1111111111111111 * 2 ^ 16 + 0b11_000010_00011_000) =
    some (.addImm { d := 3, sub := 0, a := 1, b := 0, mask := 0, ty := 0, c := 0, dl := 0, imm := 0xFFFF }) ∧
  -- `li s5, #1`: the wide tail, IMM44 above FN 0
  decodeTableWord 64 (0b1_0000 * 2 ^ 16 + 0b11_000011_00101_000) = some (.li { d := 5, sub := 0, imm := 1 }) ∧
  -- `cmp.s64 s4, s5, s6`: H2, TYPE 4, FN 0
  decodeTableWord 48 (0b00101_00110_0000_0100_000000_00000000 * 2 ^ 16 + 0b10_000110_00100_000) =
    some (.cmp { d := 4, sub := 0, a := 5, b := 6, mask := 0, ty := 4, imm := 0 }) ∧
  -- `eret`: H0, MAJ 0x0D, SUB 1
  decodeTableWord 16 0b00_001101_00000_001 = some (.eret { arg := 0 }) ∧
  -- `prt.stop s6, s4`: H3, MAJ 0x33, FN 2
  decodeTableWord 64 (0b00100_00000_0000_0000_0010_00000_00000_0000000000000000 * 2 ^ 16 + 0b11_110011_00110_000) =
    some (.prtStop { d := 6, sub := 0, a := 4, b := 0, mask := 0, ty := 0, c := 0, dl := 0, imm := 0 }) ∧
  -- MAJ 0x36 is reserved, and `add` with a tail of 32 bits is no instruction
  decodeTableWord 16 0b00_110110_00000_000 = none ∧ decodeTableWord 48 0b10_000001_00011_000 = none

/-- Decoding an encoded well-formed instruction gives it back, with every operand at every value that the encoding admits. -/
def Obligations.RoundTrip : Prop :=
  (∀ (i : Instr) (w : BitVec 16 × BitVec 48), i.wf = true → encode i = some w → decodeHead w.1 w.2 = .ok i) ∧
  (∀ (head : BitVec 16) (tail : BitVec 48), tail.toNat < 2 ^ (16 * (head.extractLsb' 14 2).toNat) →
    (oneHeadLine head tail).length = 64 ∧ lineValid (oneHeadLine head tail) = true ∧ lineNH (oneHeadLine head tail) = 1 ∧
    lineHalf (oneHeadLine head tail) 0 = head ∧ lineTail (oneHeadLine head tail) 0 = tail)

/-- A step runs the instruction that stands at the pc of the context whose turn it is. Around `exec` the step moves the cursor past
the sequencer, notes the slot that issued last and the lane side of a vector instruction, clears the mark of a completed `waitt`, and
fills queued events. -/
def Obligations.StepRunsDecoded : Prop :=
  (∀ (s u v : State) (q : Nat) (l : Line) (i : Instr),
    s.inputs = [] → s.boot = .running → s.issue = [] → (s.cursor = 0 → startStep s = none ∧ settleGangs s = s) →
    nextSeq s s.cursor = some q → seqPick s q = some s.c → s.c.alive = true → copyFault s s.c.id = none →
    copyWaits s = false → s.c.line = some l → decodeLine l.bytes (headIdx s.c.pc.toNat) = .ok i → s.c.vq = [] → s.lag = [] →
    (s.c.hold.isNone && execHit s s.c.pc.toNat && s.c.bpExempt != some s.c.pc) = false →
    u = { s with c := { s.c with waittDone := false }, cursor := q + 1,
                 lastRun := (s.lastRun.filter fun x => x.1 != q) ++ [(q, s.c.slot)] } →
    (usesArray i && arrayBusy u u.c) = false →
    let beat := s.c.op.any vecOp && s.c.hold.isNone
    (beat = true → mayPass u = true) → v = (if beat then markIssued u u.mySeat u.c.slot else u) →
    step s = fillAfter (exec i (if s.c.priv.toNat < levelOf i then u else v))) ∧
  ((∀ (s : State) (i : Instr) (rest : List Instr), s.inputs = i :: rest → isOutside i = true → s.boot ≠ .romOnly ∨ reachesRom i = true →
    step s = fillAfter (exec i (beforeStep i { s with inputs := rest })) ∧
    ((∀ c ∈ s.ctxs, c.vq = []) → step s = fillAfter (exec i { s with inputs := rest }))) ∧
  (∀ (s : State) (l : Line) (e : DecErr), s.c.tst.getLsbD 2 = false → s.c.line = some l → s.c.vq = [] → copyWaits s = false →
    decodeLine l.bytes (headIdx s.c.pc.toNat) = .error e →
    ∃ t, issueHead s l = .next t ∧ Trapped s t 0x01 (wd ((lineHalf l.bytes (headIdx s.c.pc.toNat)).toNat +
      (lineTail l.bytes (headIdx s.c.pc.toNat)).toNat * 65536))))

/-- The machine never stops: what the spec makes an error is a trap, a result or an event, and each is a next state. -/
def Obligations.EveryInstructionAnswers : Prop := ∀ (i : Instr) (s : State), ∃ t, exec i s = .next t

/-- The invariant of `State.Inv` is kept by every step. -/
def Obligations.StepKeepsInv : Prop := ∀ s t : State, s.Inv → step s = .next t → t.Inv

/-- The invariant holds at reset, and so do the reset values that the spec gives. The management context's place and pc are the model's
choice (log 3) and are not stated. -/
def Obligations.ResetHasInv : Prop :=
  let s := State.reset
  s.Inv ∧ s.tick = 0 ∧ s.c.priv = 2 ∧ s.c.part = 0 ∧ s.others = [] ∧ s.boot = .booting 0 ∧
  (∀ p ∈ [(0x00, 0), (0x01, 0x700), (0x02, 31), (0x03, 0), (0x04, 0), (0x05, 0), (0x06, 0), (0x07, 0x100000000), (0x08, 0), (0x0A, 16), (0x10, 0), (0x11, 0x100133210),
      (0x0B, 0), (0x0C, 0x1000), (0x12, 0x100000), (0x20, 0), (0x21, 0), (0x22, 0), (0x23, 0), (0x24, 0)], readCsr s p.1 = wd p.2) ∧
  (∀ p : Fin 64, s.parts[p].st = .free ∧ s.parts[p].kz = true ∧ s.parts[p].key = 0 ∧ (∀ i : Fin 32, s.parts[p].meters[i] = 0)) ∧
  (∀ i : Fin 256, s.smap[i] = 0x80) ∧ (∀ k, s.byteAt k = 0) ∧ (∀ i : Fin 10, s.links[i].up = false) ∧
  s.l1 = [] ∧ s.tcl = [] ∧ s.stale = [] ∧ s.tlb = [] ∧ s.shoot = [] ∧ s.migrs = [] ∧
  s.meets = [] ∧ s.locks = [] ∧ s.bufs = [] ∧ s.chains = [] ∧ s.copies = [] ∧ s.graphs = [] ∧ s.grps = [] ∧ s.leases = []

/-- A step leaves the life-cycle state as it is or moves it as R475 allows: 0 manufacturing, 1 provisioned, 2 deployed, 3 returned. -/
def Obligations.LifeCycleMoves : Prop :=
  ∀ s t : State, step s = .next t →
    t.life = s.life ∨ (s.life, t.life) ∈ [(0, 1), (1, 2), (2, 3), (3, 1)]

/-- Major 0x01 (R101): each instruction completes with its function's value of registers A and B in DST. -/
def Obligations.ScalarRegisterAlu : Prop :=
  ∀ (s : State) (f : H1),
    let does := fun (i : Instr) (fn : Nat) => SetsSome i s f.d (aluSays fn (s.reg f.a.toNat) (s.reg f.b.toNat))
    does (.addReg f) 0 ∧ does (.subReg f) 1 ∧ does (.andReg f) 2 ∧ does (.orReg f) 3 ∧ does (.xorReg f) 4 ∧ does (.andnReg f) 5 ∧
    does (.shlReg f) 6 ∧ does (.shrReg f) 7 ∧ does (.sraReg f) 8 ∧ does (.rotReg f) 9 ∧ does (.minReg f) 10 ∧ does (.maxReg f) 11 ∧
    does (.minN64Reg f) 12 ∧ does (.maxN64Reg f) 13

/-- Major 0x02 (R101): the second operand is IMM16 sign-extended. -/
def Obligations.ScalarImmediateAlu : Prop :=
  ∀ (s : State) (f : H3),
    let does := fun (i : Instr) (fn : Nat) => SetsSome i s f.d (aluSays fn (s.reg f.a.toNat) (BitVec.ofInt 64 f.imm.toInt))
    does (.addImm f) 0 ∧ does (.subImm f) 1 ∧ does (.andImm f) 2 ∧ does (.orImm f) 3 ∧ does (.xorImm f) 4 ∧ does (.andnImm f) 5 ∧
    does (.shlImm f) 6 ∧ does (.shrImm f) 7 ∧ does (.sraImm f) 8 ∧ does (.rotImm f) 9 ∧ does (.minImm f) 10 ∧ does (.maxImm f) 11 ∧
    does (.minN64Imm f) 12 ∧ does (.maxN64Imm f) 13

/-- Majors 0x03 to 0x06, integer forms (R102, R104 to R106). -/
def Obligations.ScalarConstantsAndMultiply : Prop :=
  (∀ (s : State) (f : Wide),
    SetsSome (.li f) s f.d (fun x => x.toInt = f.imm.toInt) ∧
    SetsSome (.lea f) s f.d (fun x => (x.toNat : Int) = ((s.c.pc.toNat / 64 * 64 : Nat) + f.imm.toInt) % 2 ^ 64) ∧
    SetsSome (.lih f) s f.d (fun x => x.toNat = f.imm.toNat % 2 ^ 20 * 2 ^ 44 + (s.reg f.d.toNat).toNat % 2 ^ 44)) ∧
  (∀ (s : State) (f : H3),
    let a := s.reg f.a.toNat
    let b := s.reg f.b.toNat
    SetsSome (.mul f) s f.d (fun x => x.toNat = a.toNat * b.toNat % 2 ^ 64) ∧
    SetsSome (.mulh f) s f.d (fun x => (x.toNat : Int) = typed f.ty a * typed f.ty b / 2 ^ 64 % 2 ^ 64) ∧
    SetsSome (.div f) s f.d (fun x =>
      if b = 0 then x = BitVec.allOnes 64 else (x.toNat : Int) = (typed f.ty a).tdiv (typed f.ty b) % 2 ^ 64) ∧
    SetsSome (.rem f) s f.d (fun x =>
      if b = 0 then x = a else typed f.ty x = typed f.ty a - typed f.ty b * (typed f.ty a).tdiv (typed f.ty b))) ∧
  (∀ (s : State) (f : H1),
    let a := s.reg f.a.toNat
    SetsSome (.clz f) s f.d (fun x => x.toNat ≤ 64 ∧ (∀ i < x.toNat, a.getLsbD (63 - i) = false) ∧
      (x.toNat < 64 → a.getLsbD (63 - x.toNat) = true)) ∧
    SetsSome (.ctz f) s f.d (fun x => x.toNat ≤ 64 ∧ (∀ i < x.toNat, a.getLsbD i = false) ∧
      (x.toNat < 64 → a.getLsbD x.toNat = true)) ∧
    SetsSome (.popc f) s f.d (fun x => x.toNat = ((List.range 64).filter fun i => a.getLsbD i).length) ∧
    SetsSome (.sextS8 f) s f.d (fun x => x.toInt = (a.extractLsb' 0 8).toInt) ∧
    SetsSome (.sextS16 f) s f.d (fun x => x.toInt = (a.extractLsb' 0 16).toInt) ∧
    SetsSome (.sextS32 f) s f.d (fun x => x.toInt = (a.extractLsb' 0 32).toInt) ∧
    SetsSome (.zextN8 f) s f.d (fun x => x.toNat = a.toNat % 2 ^ 8) ∧
    SetsSome (.zextN16 f) s f.d (fun x => x.toNat = a.toNat % 2 ^ 16) ∧
    SetsSome (.zextN32 f) s f.d (fun x => x.toNat = a.toNat % 2 ^ 32)) ∧
  (∀ (s : State) (f : H2),
    let a := s.reg f.a.toNat
    let b := s.reg f.b.toNat
    SetsSome (.cmp f) s f.d (fun x => x.toInt = if typed f.ty a < typed f.ty b then -1 else if a = b then 0 else 1) ∧
    SetsSome (.setEq f) s f.d (fun x => x = if a = b then 1 else 0) ∧ SetsSome (.setNe f) s f.d (fun x => x = if a = b then 0 else 1) ∧
    SetsSome (.setLt f) s f.d (fun x => x = if typed f.ty a < typed f.ty b then 1 else 0) ∧
    SetsSome (.setGe f) s f.d (fun x => x = if typed f.ty b ≤ typed f.ty a then 1 else 0))

/-- Floating-point forms of majors 0x04 and 0x06 (R106, R108 to R110): `r` is the result and its flags. -/
def Obligations.ScalarFloatingPoint : Prop :=
  (let does := fun (i : Instr) (s : State) (d : BitVec 5) (r : Nat × Nat) =>
    exec i s = .next ({ s with c := { s.c with fps := s.c.fps ||| wd (r.2 % 64) } }.setReg d.toNat (wd r.1)).adv
  (∀ (s : State) (f : H3),
    let t := tyFmt f.ty.toNat
    let n := 2 ^ tyWidth f.ty.toNat
    let a := (s.reg f.a.toNat).toNat % n
    let b := (s.reg f.b.toNat).toNat % n
    does (.fadd f) s f.d (fAdd t s.rm a b) ∧ does (.fsub f) s f.d (fSub t s.rm a b) ∧ does (.fmul f) s f.d (fMul t s.rm a b) ∧
    does (.fdiv f) s f.d (fDiv t s.rm a b) ∧
    does (.fma f) s f.d (fFma t s.rm false false a b ((s.reg f.c.toNat).toNat % n)) ∧
    does (.fcvt f) s f.d (convTy f.ty.toNat (f.imm.toNat % 16) s.rm ((s.reg f.a.toNat).toNat % 2 ^ tyWidth (f.imm.toNat % 16)))) ∧
  (∀ (s : State) (f : H2),
    let t := tyFmt f.ty.toNat
    let x := fDec t ((s.reg f.a.toNat).toNat % 2 ^ tyWidth f.ty.toNat)
    let y := fDec t ((s.reg f.b.toNat).toNat % 2 ^ tyWidth f.ty.toNat)
    let anyNan := if x.isNan || y.isNan then fNV else 0
    does (.fcmpEq f) s f.d ((cmpV x y == some .eq).toNat, nanFlags [x, y]) ∧
    does (.fcmpLt f) s f.d ((cmpV x y == some .lt).toNat, anyNan) ∧
    does (.fcmpLe f) s f.d ((cmpV x y == some .lt || cmpV x y == some .eq).toNat, anyNan) ∧
    does (.fcmpUn f) s f.d ((cmpV x y == none).toNat, nanFlags [x, y]))) ∧
  (fAdd fp32 0 0x3F800000 0x40000000 = (0x40400000, 0) ∧ fDiv fp32 0 0x3F800000 0x40400000 = (0x3EAAAAAB, fNX) ∧
  fAdd fp32 0 0x7F7FFFFF 0x7F7FFFFF = (0x7F800000, fOF ||| fNX) ∧ fDiv fp32 0 0x3F800000 0 = (0x7F800000, fDZ) ∧
  fSub fp32 0 0x7F800000 0x7F800000 = (0x7FC00000, fNV) ∧ fMul fp64 0 0x3FF8000000000000 0x4000000000000000 = (0x4008000000000000, 0) ∧
  -- (1 + 2^-23)² − (1 + 2^-22) = 2^-46, which two roundings would lose
  fFma fp32 0 false false 0x3F800001 0x3F800001 0xBF800002 = (0x28800000, 0))

/-- The frame of instructions that write one scalar register. A register that reads as zero is not written. -/
def Obligations.ScalarFrames : Prop :=
  ∀ s t : State,
    (∀ (f : H1) (i : Instr), i ∈ [Instr.addReg f, .subReg f, .andReg f, .orReg f, .xorReg f, .andnReg f, .shlReg f, .shrReg f, .sraReg f,
        .rotReg f, .minReg f, .maxReg f, .minN64Reg f, .maxN64Reg f, .clz f, .ctz f, .popc f, .sextS8 f, .sextS16 f, .sextS32 f, .zextN8 f,
        .zextN16 f, .zextN32 f, .spwSt f] → exec i s = .next t → FrameReg s t f.d.toNat ∧ (f.d = 0 → ∀ n, t.reg n = s.reg n)) ∧
    (∀ (f : H2) (i : Instr), i ∈ [Instr.cmp f, .setEq f, .setNe f, .setLt f, .setGe f] →
      exec i s = .next t → FrameReg s t f.d.toNat ∧ (f.d = 0 → ∀ n, t.reg n = s.reg n)) ∧
    (∀ (f : H2) (i : Instr), i ∈ [Instr.qinfo f, .qinfoB f, .qinfoS f] → s.c.vill = false → (s.c.stream f.a.toNat).valid = true →
      exec i s = .next t → FrameReg s t f.d.toNat ∧ (f.d = 0 → ∀ n, t.reg n = s.reg n)) ∧
    (∀ f : H2, csrReadLevel f.imm.toNat ≤ s.c.priv.toNat → exec (.csrr f) s = .next t → FrameReg s t f.d.toNat) ∧
    (∀ (f : H3) (i : Instr), i ∈ [Instr.addImm f, .subImm f, .andImm f, .orImm f, .xorImm f, .andnImm f, .shlImm f, .shrImm f, .sraImm f,
        .rotImm f, .minImm f, .maxImm f, .minN64Imm f, .maxN64Imm f, .mul f, .mulh f, .div f, .rem f, .tick f, .vlanes f] →
      exec i s = .next t → FrameReg s t f.d.toNat ∧ (f.d = 0 → ∀ n, t.reg n = s.reg n)) ∧
    ∀ (f : Wide) (i : Instr), i ∈ [Instr.li f, .lea f, .lih f] → exec i s = .next t → FrameReg s t f.d.toNat

/-- The scalar registers (R85): register 0, and reading what was written. -/
def Obligations.RegisterZero : Prop :=
  (∀ s : State, s.reg 0 = 0) ∧ (∀ (s : State) (x : Word), s.setReg 0 x = s) ∧
  (∀ (s : State) (n k : Nat) (x : Word), n ≠ 0 → n < 32 → (s.setReg n x).reg k = if k = n then x else s.reg k) ∧
  (∀ (s : State) (f : H1) (x : Word), f.d = 0 → Sets (.addReg f) s f.d x → ∀ t, exec (.addReg f) s = .next t → t = s.adv) ∧
  (∀ f : H1, (Instr.mand f).wf = true → f.d.toNat < 8 ∧ f.a.toNat < 8 ∧ f.b.toNat < 8) ∧
  (∀ f : H2, (Instr.qset f).wf = true → f.d.toNat < 16) ∧ (∀ f : H2, (Instr.fmtLd f).wf = true → f.d.toNat < 16) ∧
  (∀ f : H2, (Instr.dld f).wf = true → f.d.toNat < 16) ∧ (∀ f : H3, (Instr.cbClaim f).wf = true → f.imm.toNat < 256) ∧
  (∀ f : H3, (Instr.chainPub f).wf = true → f.imm.toNat < 64) ∧ ∀ f : H3, (Instr.nbArr f).wf = true → f.imm.toNat < 48

/-- The six branches (R121): the condition, the target of R88, and the way on. -/
def Obligations.Branches : Prop :=
  ∀ (s : State) (f : H3),
    let a := s.reg f.a.toNat
    let b := s.reg f.b.toNat
    let target := (((s.c.pc.toNat / 64 * 64 : Nat) + 64 * (f.imm.extractLsb' 5 11).toInt + 2 * (f.imm.extractLsb' 0 5).toNat) % 2 ^ 56 : Int).toNat
    ∀ (i : Instr) (c : Prop),
      (i, c) ∈ [(Instr.bEq f, a = b), (.bNe f, a ≠ b), (.bLt f, a.toInt < b.toInt), (.bGe f, b.toInt ≤ a.toInt), (.bLtN64 f, a.toNat < b.toNat),
        (.bGeN64 f, b.toNat ≤ a.toNat)] →
      (¬c → exec i s = .next s.adv ∧ s.adv.c.pc = s.c.nextPc ∧ ∀ n, s.adv.reg n = s.reg n) ∧
      (c → ∀ (l : Line) (u : State), enterLine s target = .ok l u →
        ∃ t, exec i s = .next t ∧ Jumps u t target l ∧ ∀ n, t.reg n = u.reg n) ∧
      (c → ∀ (cause : Nat) (u : State), enterLine s target = .trap cause u → exec i s = .next (trapAt u cause (wd target)))

/-- `jmp`, `call` and `jr` (R122). -/
def Obligations.JumpsAndCalls : Prop :=
  ∀ (s : State) (f : H3),
    let v := f.c.toNat * 2 ^ 21 + f.dl.toNat * 2 ^ 16 + f.imm.toNat
    let target := (((s.c.pc.toNat / 64 * 64 : Nat) + 64 * (BitVec.ofNat 21 (v / 32)).toInt + 2 * (v % 32 : Nat)) % 2 ^ 56 : Int).toNat
    let link := s.c.nextPc.setWidth 64
    let dst := s.reg f.a.toNat
    (∀ (l : Line) (u : State), enterLine s target = .ok l u →
      (∃ t, exec (.jmp f) s = .next t ∧ Jumps u t target l ∧ ∀ n, t.reg n = u.reg n) ∧
      ∃ t, exec (.call f) s = .next t ∧ Jumps u t target l ∧ ∀ n, t.reg n = if n = f.d.toNat ∧ n ≠ 0 then link else u.reg n) ∧
    (∀ (l : Line) (u : State), dst.toNat < 2 ^ 56 → dst.getLsbD 0 = false → enterLine s dst.toNat = .ok l u →
      ∃ t, exec (.jr f) s = .next t ∧ Jumps u t dst.toNat l ∧ ∀ n, t.reg n = if n = f.d.toNat ∧ n ≠ 0 then link else u.reg n) ∧
    (dst.toNat ≥ 2 ^ 56 ∨ dst.getLsbD 0 = true → exec (.jr f) s = .next (trapAt s 0x04 dst)) ∧
    (∀ (cause : Nat) (u : State), enterLine s target = .trap cause u →
      exec (.jmp f) s = .next (trapAt u cause (wd target)) ∧ exec (.call f) s = .next (trapAt u cause (wd target)))

/-- `trap #k` (R132), and the return after it. -/
def Obligations.TrapInstruction : Prop :=
  ∀ (s : State) (f g : H0), s.c.tst.getLsbD 2 = false → s.c.LevelOk →
    ∃ t, exec (.trap f) s = .next t ∧
      t.c.cause = 0x11 ∧ t.c.epc = s.c.nextPc.setWidth 64 ∧ t.c.tval = f.arg.setWidth 64 ∧ t.c.tst = 4#64 ||| s.c.priv.setWidth 64 ∧
      t.c.priv = (if s.c.part = 0 then 2 else 1) ∧ t.c.pc = s.myPart.tvec.setWidth 56 ∧ t.c.es = s.c.es ∧ t.c.esk = s.c.esk ∧
      t.mem = s.mem ∧ (∀ n, t.reg n = s.reg n) ∧
      ∀ (l : Line) (u : State), s.c.nextPc.getLsbD 0 = false → enterLine t s.c.nextPc.toNat = .ok l u →
        ∃ v, exec (.eret g) t = .next v ∧ v.c.pc = s.c.nextPc ∧ v.c.priv = s.c.priv ∧ v.c.tst.getLsbD 2 = false

/-- `eret` (R133), case by case in the order of its checks. -/
def Obligations.TrapReturn : Prop :=
  ∀ (s : State) (f : H0),
    let ppl : BitVec 2 := s.c.tst.setWidth 2
    (s.c.priv.toNat < 1 → exec (.eret f) s = .next (privTrap s)) ∧
    (1 ≤ s.c.priv.toNat → s.c.priv.toNat < ppl.toNat → exec (.eret f) s = .next (privTrap s)) ∧
    (1 ≤ s.c.priv.toNat → ppl.toNat ≤ s.c.priv.toNat →
      (s.c.epc.toNat ≥ 2 ^ 56 ∨ s.c.epc.getLsbD 0 = true → exec (.eret f) s = .next (trapAt s 0x04 s.c.epc)) ∧
      (s.c.epc.toNat < 2 ^ 56 → s.c.epc.getLsbD 0 = false →
        (∀ (cause : Nat) (u : State), enterLine s s.c.epc.toNat = .trap cause u →
          exec (.eret f) s = .next (trapAt u cause (wd s.c.epc.toNat))) ∧
        ∀ (l : Line) (u : State), u.c = s.c → enterLine s s.c.epc.toNat = .ok l u →
          ∃ t, exec (.eret f) s = .next t ∧ t.c.priv = ppl ∧ t.c.tst.getLsbD 2 = false ∧ t.c.pc = s.c.epc.setWidth 56 ∧
            t.c.es = s.c.es ∧ t.c.esk = s.c.esk ∧ (∀ n, t.reg n = s.reg n) ∧ t.mem = u.mem ∧
            ∀ r, s.c.trapPc = some (s.c.epc.setWidth 56) → s.c.resume = some r → r.pc = s.c.epc.setWidth 56 → t.c.resume = some { r with active := true }))

/-- Taking a trap at the instruction (R438), and the double trap (R439). -/
def Obligations.TrapEntry : Prop :=
  ∀ (s : State) (code : Nat) (tval : Word),
    (s.c.tst.getLsbD 2 = false →
      Trapped s (trapAt s code tval) code tval ∧ OnlyCtx s (trapAt s code tval) ∧ (∀ n, (trapAt s code tval).reg n = s.reg n) ∧
      (trapAt s code tval).c.es = s.c.es ∧ (trapAt s code tval).c.esk = s.c.esk ∧ (trapAt s code tval).c.vl = s.c.vl ∧
      (trapAt s code tval).c.vcfg = s.c.vcfg ∧ (trapAt s code tval).c.fps = s.c.fps ∧ (trapAt s code tval).c.ws = s.c.ws) ∧
    (s.c.tst.getLsbD 2 = true → s.c.firing = none → s.c.part < 64 →
      (trapAt s code tval).c.alive = false ∧ (trapAt s code tval).mem = s.mem ∧
      ∃ e, ((trapAt s code tval).part s.c.part).evs = s.myPart.evs ++ [e] ∧ e.kind = 5 ∧ e.who = s.c.place ∧ e.data = 2)

/-- The privilege checks: what each level may not run. -/
def Obligations.PrivilegeTraps : Prop :=
  ∀ s : State,
    (s.c.priv ≠ 2 → ∀ (f : H3) (g : H2) (i : Instr), i ∈ [Instr.prtNew f, .prtAsg f, .prtStop f, .prtKill f, .prtSt f, .scbGo g, .scbSt g,
      .keyLd g, .keyZ g, .ckpGo f, .ckpSt f, .ckpRb f] → exec i s = .next (privTrap s)) ∧
    (s.c.priv = 0 → ∀ (f : H2) (g : H1) (h : H0),
      exec (.flmSeal f) s = .next (privTrap s) ∧ exec (.spwMode g) s = .next (privTrap s) ∧ exec (.eret h) s = .next (privTrap s) ∧
      (0x20 ≤ f.imm.toNat → exec (.csrr f) s = .next (privTrap s)) ∧
      (f.imm ≠ 6 → f.imm ≠ 7 → exec (.csrw f) s = .next (privTrap s) ∧ exec (.csrs f) s = .next (privTrap s) ∧
        exec (.csrc f) s = .next (privTrap s))) ∧
    (s.c.tst.getLsbD 2 = false → ∃ v, Trapped s (privTrap s) 0x03 v ∧ OnlyCtx s (privTrap s) ∧ ∀ n, (privTrap s).reg n = s.reg n)

/-- Reading and writing control registers (R123), each by its own rule. -/
def Obligations.ControlRegisters : Prop :=
  ((∀ (s : State) (f : H2), csrReadLevel f.imm.toNat ≤ s.c.priv.toNat → exec (.csrr f) s = .next (s.setReg f.d.toNat (readCsr s f.imm.toNat)).adv) ∧
  (∀ (s : State) (f : H2), csrWriteLevel f.imm.toNat ≤ s.c.priv.toNat →
    let old := readCsr s f.imm.toNat
    let a := s.reg f.a.toNat
    exec (.csrw f) s = .next (writeCsr s f.imm.toNat a).adv ∧ exec (.csrs f) s = .next (writeCsr s f.imm.toNat (old ||| a)).adv ∧
    exec (.csrc f) s = .next (writeCsr s f.imm.toNat (old &&& ~~~a)).adv) ∧
  (∀ (s : State) (x : Word),
    readCsr (writeCsr s 0x03 x) 0x03 = x ∧ readCsr (writeCsr s 0x04 x) 0x04 = x ∧ readCsr (writeCsr s 0x22 x) 0x22 = x ∧
    (readCsr (writeCsr s 0x05 x) 0x05).toNat = (if x.toNat % 8 ≤ 4 then x.toNat % 8 else 0) ∧
    (readCsr (writeCsr s 0x06 x) 0x06).toNat = x.toNat % 8 ∧ (readCsr (writeCsr s 0x20 x) 0x20).toNat = x.toNat % 256 ∧
    (readCsr (writeCsr s 0x21 x) 0x21).toNat = x.toNat % 2 ^ 56 ∧
    (readCsr (writeCsr s 0x23 x) 0x23).getLsbD 2 = x.getLsbD 2 ∧
    (readCsr (writeCsr s 0x23 x) 0x23).toNat % 4 = (if x.toNat % 4 = 3 then s.c.tst.toNat % 4 else x.toNat % 4) ∧
    (s.c.part < 64 → (readCsr (writeCsr s 0x24 x) 0x24).toNat = x.toNat % 2 ^ 56 ∧
      (readCsr (writeCsr s 0x12 x) 0x12).toNat = min x.toNat (2 ^ 34)) ∧
    (readCsr (writeCsr s 0x07 x) 0x07).toNat % 64 = x.toNat % 64 ∧
    (readCsr (writeCsr s 0x07 x) 0x07).toNat / 2 ^ 32 = (if x.toNat / 2 ^ 32 = 0 then 1 else x.toNat / 2 ^ 32) ∧
    (writeCsr s 0x07 x).rm = (if x.toNat / 256 % 8 ≤ 4 then x.toNat / 256 % 8 else 0) ∧
    (writeCsr s 0x00 x).c.vlen = min (x.toNat % 2 ^ 22) s.vlmax ∧ (writeCsr s 0x00 x).c.chv = x.getLsbD 63) ∧
  ∀ (s : State) (n : Nat) (x : Word), n ≠ 0x0B → n ≠ 0x0C → (writeCsr s n x).mem = s.mem ∧ (∀ k, (writeCsr s n x).reg k = s.reg k) ∧
    (writeCsr s n x).c.pc = s.c.pc ∧ (writeCsr s n x).c.v = s.c.v ∧ (writeCsr s n x).c.a = s.c.a ∧ (writeCsr s n x).c.priv = s.c.priv) ∧
  ((∀ (s : State) (r : BitVec 8) (x : Word), exec (.registerWrite r x) s = .next (writePlain s r.toNat x)) ∧
  (∀ (s : State) (x : Word),
    exec (.vcfgWrite x) s = .next (writeCsr s 0x01 x) ∧ exec (.vlWrite x) s = .next (writeCsr s 0x00 x) ∧
    exec (.fpsWrite x) s = .next (writeCsr s 0x07 x) ∧ exec (.whzWrite x) s = .next (writeCsr s 0x12 x) ∧
    exec (.lprWrite x) s = .next (writeCsr s 0x08 x) ∧ exec (.spwmodeWrite x) s = .next (writeCsr s 0x0C x) ∧
    exec (.spwstWrite x) s = .next (writeCsr s 0x0B x)) ∧
  (∀ (s : State) (n : Fin 4) (x : Word), s.c.part < 64 →
    ∃ t, exec (.wptWrite n x) s = .next t ∧ t.myPart.wpt[n] = x ∧ (x.getLsbD 63 = false → ∀ e ∈ t.myPart.watch, e.1 ≠ n.val)) ∧
  ∀ (s : State) (core pos : Nat) (t : Seat) (x : Word), s.seat? core pos = some t → t.lprNew = some x → seatEmpty s t = true →
    ∃ u, exec (.lprTakeEffect core pos) s = .next u ∧ (u.seat? core pos).map Seat.lpr = some x ∧ (u.seat? core pos).map Seat.lprNew = some none)

/-- Loads and stores (R113, R115): aligned, with an access that succeeds. `u` is the state in which the access is made. -/
def Obligations.ScalarLoadsAndStores : Prop :=
  ∀ (s u t : State) (f : H3),
    let n := tyWidth f.ty.toNat / 8
    let a := s.reg f.a.toNat + BitVec.ofInt 64 f.imm.toInt
    (a.toNat % n = 0 →
      (∀ p ∈ [(Instr.ld f, false), (.ldAcq f, true)], Ordered s p.2 false f.sub.toNat a.toNat n u →
        ∀ bs, loadMem u u.agent a.toNat n = .ok bs t → exec p.1 s = .next (t.setReg f.d.toNat (extendTy f.ty.toNat (leNat bs))).adv) ∧
      (∀ p ∈ [(Instr.st f, false), (.stRel f, true)], Ordered s false p.2 f.sub.toNat a.toNat n u →
        storeMem u u.agent a.toNat (leBytes n (s.reg f.b.toNat).toNat) = .ok () t → exec p.1 s = .next t.adv)) ∧
    (fillsOut s = true → exec (.stRel f) s = .next s)

/-- The core scratchpad through its window: byte order, and what a store changes. -/
def Obligations.WindowAccess : Prop :=
  ∀ (s : State) (f : H3) (o : Nat),
    let n := tyWidth f.ty.toNat / 8
    let a := s.reg f.a.toNat + BitVec.ofInt 64 f.imm.toInt
    let key := keyCore s.c.core o
    a.toNat = 0xFE01 * 2 ^ 40 + o → o + n ≤ 0x300000 → o % n = 0 → o / 0xC0000 = (o + n - 1) / 0xC0000 → f.ty ∈ [1#4, 2, 3, 5, 6, 7, 8] →
    ownsPos s s.c.part s.c.core (o / 0xC0000) = true → s.myPart.st = .live → sluiceFor s s.agent a.toNat = a.toNat →
    s.ansOf s.agent = none → s.poison = [] → (∀ w ∈ s.myPart.wpt.toList, w.getLsbD 63 = false ∧ w.getLsbD 62 = false) → Memory.wf s.mem = true →
    (∃ t, exec (.ld f) s = .next t ∧ FrameReg s t f.d.toNat ∧
      (f.d ≠ 0 → ∀ i < 8 * n, (t.reg f.d.toNat).getLsbD i = (s.byteAt (key + i / 8)).getLsbD (i % 8)) ∧
      (f.d ≠ 0 → ∀ i, 8 * n ≤ i → i < 64 → (t.reg f.d.toNat).getLsbD i =
        (decide (f.ty.toNat ≤ 4) && (s.byteAt (key + n - 1)).getLsbD 7))) ∧
    ∃ t, exec (.st f) s = .next t ∧ Retired s t ∧ (∀ r, t.reg r = s.reg r) ∧
      ∀ k, t.byteAt k = if key ≤ k ∧ k < key + n then (s.reg f.b.toNat).extractLsb' (8 * (k - key)) 8 else s.byteAt k

/-- The memory frame of the scalar stores: the address stored to is the one that the access resolves. `w` is the state in which the
access is made and `u` that in which its address is resolved, which sets ACC and DRT alone (R225). -/
def Obligations.StoreFrames : Prop :=
  (∀ (s w u t : State) (p : Place) (f : H3),
    let n := tyWidth f.ty.toNat / 8
    let a := scalarAddr s f
    ∀ i ∈ [(Instr.st f, false), (.stRel f, true)], Ordered s false i.2 f.sub.toNat a.toNat n w → a.toNat % n = 0 → s.c.firing = none → w.ansOf w.agent = none →
      resolve w w.agent .store a.toNat n = .ok (.near p, u) → Memory.wf u.mem = true → exec i.1 s = .next t →
      (∀ k, k < p.key ∨ p.key + n ≤ k → t.byteAt k = u.byteAt k) ∧
      (watchHit u s.c.part .store a.toNat n = false → p.pa.any (switching u) = false →
        ∀ j < n, t.byteAt (p.key + j) = (s.reg f.b.toNat).extractLsb' (8 * j) 8)) ∧
  (∀ (s t u : State) (p : Place) (f : H2),
    let a := fmtAddr s f
    a.toNat % 8 = 0 → s.c.firing = none → s.ansOf s.agent = none → resolve s s.agent .store a.toNat 8 = .ok (.near p, u) → Memory.wf u.mem = true →
    exec (.fmtSt f) s = .next t →
    (∀ k, k < p.key ∨ p.key + 8 ≤ k → t.byteAt k = u.byteAt k) ∧
    (watchHit u s.c.part .store a.toNat 8 = false → p.pa.any (switching u) = false →
      ∀ j < 8, t.byteAt (p.key + j) = (s.c.f[f.b.toNat]?.getD 0).extractLsb' (8 * j) 8)) ∧
  ∀ (s t : State) (f : H3) (i : Instr), i ∈ [Instr.st f, .stRel f, .ld f, .ldAcq f] → (scalarAddr s f).toNat % (tyWidth f.ty.toNat / 8) ≠ 0 →
    s.c.firing = none → exec i s = .next t → t.mem = s.mem

/-- Failing scalar accesses (R114, R119). `u` is the state in which the access is made. -/
def Obligations.ScalarAccessTraps : Prop :=
  ∀ (s u : State) (f : H3), s.c.tst.getLsbD 2 = false →
    let n := tyWidth f.ty.toNat / 8
    let a := (scalarAddr s f).toNat
    let b := (s.reg f.a.toNat).toNat
    let acq := ordAcquires (f.imm.toNat / 8 % 4)
    let rel := ordReleases (f.imm.toNat / 8 % 4)
    (∀ i ∈ [(Instr.ld f, false, false), (.ldAcq f, true, false), (.st f, false, false), (.stRel f, false, true)],
      Ordered s i.2.1 i.2.2 f.sub.toNat a n u → a % n ≠ 0 →
      ∃ t, exec i.1 s = .next t ∧ Trapped u t 0x04 (scalarAddr s f) ∧ OnlyCtx u t ∧ (∀ r, t.reg r = s.reg r) ∧ t.mem = s.mem ∧
        t.c.es = s.c.es ∧ t.c.esk = s.c.esk) ∧
    (∀ i ∈ [Instr.amoAdd f, .amoFadd f, .amoAnd f, .amoOr f, .amoXor f, .amoMin f, .amoMax f, .amoSwap f, .amoCas f],
      Ordered s acq rel (f.imm.toNat % 8) b n u → b % n ≠ 0 →
      ∃ t, exec i s = .next t ∧ Trapped u t 0x04 (s.reg f.a.toNat) ∧ OnlyCtx u t ∧ (∀ r, t.reg r = s.reg r) ∧ t.mem = s.mem) ∧
    (a % n = 0 →
      (∀ (c : Nat) (v : State), ∀ i ∈ [(Instr.ld f, false), (.ldAcq f, true)], Ordered s i.2 false f.sub.toNat a n u →
        loadMem u u.agent a n = .trap c v → v.c = u.c → ∃ t, exec i.1 s = .next t ∧ t.c.cause = wd c ∧ t.c.tval = scalarAddr s f ∧
          t.c.epc = s.c.pc.setWidth 64 ∧ t.mem = v.mem ∧ (∀ r, t.reg r = s.reg r) ∧
          t.c.es = (if c = 0x0C then 0 else s.c.es) ∧ t.c.esk = (if c = 0x0C then 2 else s.c.esk)) ∧
      ∀ (c : Nat) (v : State), ∀ i ∈ [(Instr.st f, false), (.stRel f, true)], Ordered s false i.2 f.sub.toNat a n u →
        storeMem u u.agent a (leBytes n (s.num f.b)) = .trap c v → v.c = u.c → c ≠ 0x0C →
        ∃ t, exec i.1 s = .next t ∧ t.c.cause = wd c ∧ t.c.tval = scalarAddr s f ∧ t.mem = v.mem ∧ ∀ r, t.reg r = s.reg r) ∧
    ∀ p ∈ [(Instr.amoAdd f, 0), (.amoFadd f, 1), (.amoAnd f, 2), (.amoOr f, 3), (.amoXor f, 4), (.amoMin f, 5), (.amoMax f, 6), (.amoSwap f, 7),
        (.amoCas f, 8)], ∀ (c : Nat) (v : State), b % n = 0 → f.sub.getLsbD 0 = true → c ∈ [0x0D, 0x08, 0x0C, 0x0E] →
      Ordered s acq rel (f.imm.toNat % 8) b n u → atomicMem u u.agent b p.2 f.ty.toNat (s.num f.b) (s.num f.d) = .trap c v →
      exec p.1 s = .next (v.setReg f.c.toNat (wd c)).adv

/-- The nine atomics (R116, R117, R196): `m` is the old value, `u` the state in which the access is made, and `t` that in which the
home has performed the function. -/
def Obligations.ScalarAtomics : Prop :=
  (∀ (s u t : State) (f : H3) (m : Nat),
    let n := tyWidth f.ty.toNat / 8
    let b := (s.reg f.a.toNat).toNat
    b % n = 0 → Ordered s (ordAcquires (f.imm.toNat / 8 % 4)) (ordReleases (f.imm.toNat / 8 % 4)) (f.imm.toNat % 8) b n u →
    ∀ p ∈ [(Instr.amoAdd f, 0), (.amoFadd f, 1), (.amoAnd f, 2), (.amoOr f, 3), (.amoXor f, 4), (.amoMin f, 5), (.amoMax f, 6), (.amoSwap f, 7),
        (.amoCas f, 8)],
      atomicMem u u.agent b p.2 f.ty.toNat (s.reg f.b.toNat).toNat (s.reg f.d.toNat).toNat = .ok m t →
      (f.sub.getLsbD 0 = false → exec p.1 s = .next (t.setReg f.d.toNat (extendTy f.ty.toNat m)).adv) ∧
      (f.sub.getLsbD 0 = true → exec p.1 s = .next ((t.setReg f.d.toNat (extendTy f.ty.toNat m)).setReg f.c.toNat 0).adv)) ∧
  (∀ (s : State) (ag : Agent) (p : Place) (fn ty b e : Nat), ty ∈ [3, 4, 7, 8] → p.pa.any (switching s) = false → Memory.wf s.mem = true →
    let n := tyWidth ty / 8
    let m := leNat (getCells s.mem p.key n)
    let r := atomicPlace s ag p fn ty b e
    let x := leNat (getCells r.2.mem p.key n)
    r.1 = m ∧ (∀ k, k < p.key ∨ p.key + n ≤ k → r.2.byteAt k = s.byteAt k) ∧
    (fn = 0 → x = (m + b) % 2 ^ (8 * n)) ∧ (fn = 2 → x = m &&& b % 2 ^ (8 * n)) ∧ (fn = 3 → x = m ||| b % 2 ^ (8 * n)) ∧
    (fn = 4 → x = m ^^^ b % 2 ^ (8 * n)) ∧ (fn = 7 → x = b % 2 ^ (8 * n)) ∧
    (fn = 8 → x = if m = e % 2 ^ (8 * n) then b % 2 ^ (8 * n) else m) ∧
    (∀ k, p.tile = some k → p.pa.isSome → (∀ y ∈ r.2.tcl, y.tile ≠ k) ∧ (∀ y ∈ r.2.stale, y.tile ≠ k) ∧ ∀ y ∈ r.2.l1, y.tile ≠ k))

/-- Fences, the hint space, `yield`, `tc.pf` and `vpf`. -/
def Obligations.FencesAndHints : Prop :=
  (∀ (s : State) (h : H0) (w : HintWord) (f : H3) (g : H2),
    (∀ i ∈ [Instr.fenceSv h, .fenceVs h, .nop, .hint w, .yield f], exec i s = .next s.adv) ∧
    (fillsOut s = true → exec (.fenceRel h) s = .next s ∧ exec (.fenceFull h) s = .next s) ∧
    (fillsOut s = false → ∀ u, u = (if 3 ≤ h.arg.toNat then settleMine s else s) →
      exec (.fenceRel h) s = .next u.adv ∧ exec (.fenceFull h) s = .next { u with c := { u.c with unseen := [] } }.adv) ∧
    exec (.fenceAcq h) s = .next (if 3 ≤ h.arg.toNat then settleShoots s fun _ => true else s).adv ∧
    (∀ i ∈ [Instr.tcPf f, .vpf g], i = .tcPf f ∨ s.c.vill = false →
      ∃ t, exec i s = .next t ∧ Retired s t ∧ t.mem = s.mem ∧ (∀ n, t.reg n = s.reg n) ∧ t.c.v = s.c.v ∧ t.c.q = s.c.q ∧ t.c.vl = s.c.vl)) ∧
  (∀ s : State, (∀ x ∈ (settleMine s).shoot, x.by_ ≠ s.c.id) ∧ (settleMine s).mem = s.mem ∧ (∀ n, (settleMine s).reg n = s.reg n) ∧
    (settleShoots s fun _ => true).shoot = [] ∧ (settleShoots s fun _ => true).mem = s.mem) ∧
  ∀ s : State, Retired s s.adv ∧ OnlyCtx s s.adv ∧ OnlyScalars s.c s.adv.c ∧ ∀ n, s.adv.reg n = s.reg n

/-- `tick`, `waitt` and `wfe` (R134, R150, R151), and WAITT_COMPLETION and WFE_WAKE for any resident context. -/
def Obligations.TicksAndPauses : Prop :=
  (∀ (s : State) (f : H3), Sets (.tick f) s f.d s.tick) ∧
  (∀ (s : State) (f : H3),
    let u := s.reg f.dl.toNat
    (s.tick.toNat + s.myPart.whz.toNat < u.toNat → Traps (.waitt f) s s 0x09 u) ∧
    (u.toNat ≤ s.tick.toNat + s.myPart.whz.toNat →
      (u.toNat ≤ s.tick.toNat → EndsWith (.waitt f) s 0 0 wsMET 0 0 ∧ ∀ t, exec (.waitt f) s = .next t → t.c.waittDone = true) ∧
      (s.tick.toNat < u.toNat → ∃ t, exec (.waitt f) s = .next t ∧ OnlyCtx s t ∧ t.c.pc = s.c.pc ∧ t.c.alive = s.c.alive ∧
        (∀ n, t.reg n = s.reg n) ∧ ∃ w, t.c.wait = some w ∧ w.op = .tick ∧ w.u = u.toNat ∧ w.limit = none))) ∧
  (∀ (s : State) (f : H0), ∃ t, exec (.wfe f) s = .next t ∧ OnlyCtx s t ∧ t.c.pc = s.c.pc ∧ t.c.alive = s.c.alive ∧
    (∀ n, t.reg n = s.reg n) ∧ ∃ w, t.c.wait = some w ∧ w.op = .pause ∧ w.stamp = s.now ∧ w.u = s.myPart.evSeq) ∧
  ∀ (s : State) (ctx : Nat) (c : Ctx) (w : Wait), s.ctx? ctx = some c → c.alive = true → c.line.isSome → c.wait = some w →
    (w.op = .tick →
      (w.u ≤ s.tick.toNat → ∃ t d, exec (.waittCompletion ctx) s = .next t ∧ t.ctx? ctx = some d ∧ d.wait = none ∧ d.pc = c.nextPc ∧
        d.ws = 0 ∧ d.waittDone = true ∧ (∀ n, d.reg n = c.reg n) ∧ t.mem = s.mem) ∧
      (s.tick.toNat < w.u → exec (.waittCompletion ctx) s = .next s)) ∧
    (w.op = .pause →
      (w.u ≠ (s.part c.part).evSeq ∨ w.stamp + 2 ≤ s.tick.toNat → ∃ t d, exec (.wfeWake ctx) s = .next t ∧ t.ctx? ctx = some d ∧
        d.wait = none ∧ d.pc = c.nextPc ∧ (∀ n, d.reg n = c.reg n) ∧ t.mem = s.mem) ∧
      (w.u = (s.part c.part).evSeq → s.tick.toNat < w.stamp + 2 → exec (.wfeWake ctx) s = .next s))

/-- Majors 0x0E and 0x0F: what each asks of its home, and where it traps or ends at once. `u` is the state once the record's address
is resolved, and `v` that in which an arrival, a release, is sent (R200). -/
def Obligations.MeetingRequests : Prop :=
  (∀ (s : State) (f : H3),
    let n := f.imm.toNat % 256
    let o := Obj.barrier s.c.core (12 * s.c.pos + n)
    let dl := (s.reg f.dl.toNat).toNat
    let memb : Word := wd ((s.reg f.b.toNat).toNat % 2 ^ min 16 s.mySeat.slots)
    (dl ≤ s.tick.toNat + s.myPart.whz.toNat →
      (n < 12 * s.mySeat.size →
        Asks (.nbWait f) s s s.dev o (.mtWait s.c.slot dl) ∧
        (fillsOut s = false → Asks (.nbSync f) s s s.dev o (.mtArrive s.c.slot dl true memb) ∧ EndsWith (.nbArr f) s 0 0 wsMET 0 0 ∧
          ∀ t, exec (.nbArr f) s = .next t → Sent s t s.dev o (.mtArrive s.c.slot dl false memb)) ∧
        (fillsOut s = true → exec (.nbArr f) s = .next s ∧ exec (.nbSync f) s = .next s)) ∧
      (12 * s.mySeat.size ≤ n → ∀ i ∈ [Instr.nbArr f, .nbWait f, .nbSync f], Traps i s s 0x08 (wd n))) ∧
    (s.tick.toNat + s.myPart.whz.toNat < dl → ∀ i ∈ [Instr.nbArr f, .nbWait f, .nbSync f, .mtArr f, .mtWait f, .mtSync f],
      Traps i s s 0x09 (wd dl)) ∧
    (n < 12 * s.mySeat.size → Asks (.nbJoin f) s s s.dev o (.mtJoin s.c.slot 0)) ∧
    (12 * s.mySeat.size ≤ n → Traps (.nbJoin f) s s 0x08 (wd n))) ∧
  ∀ (s u : State) (f : H3) (r : Rec), recordAt s (s.reg f.a.toNat) = .ok (r, u) →
    let dl := (s.reg f.dl.toNat).toNat
    let p := (s.reg f.b.toNat).toNat
    let o := Obj.meet r.pa
    let v := releaseAt u (meetScope u r)
    let reach := if r.dev = u.dev then f.sub.toNat else 4
    (dl ≤ s.tick.toNat + s.myPart.whz.toNat →
      (p < 64 →
        (u.uns = false ∨ meetScope u r < 4 → u.c = s.c →
          Asks (.mtWait f) s u r.dev o (.mtWait p dl) ∧
          (fillsOut u = false → Asks (.mtSync f) s v r.dev o (.mtArrive p dl true 0) ∧ EndsFrom (.mtArr f) s v 0 0 wsMET 0 0 ∧
            ∀ t, exec (.mtArr f) s = .next t → Sent v t r.dev o (.mtArrive p dl false 0)) ∧
          (fillsOut u = true → exec (.mtArr f) s = .next u ∧ exec (.mtSync f) s = .next u)) ∧
        (u.uns = true → 4 ≤ meetScope u r → EndsFrom (.mtArr f) s u 0 0 wsNOVERDICT ones ones ∧
          EndsFrom (.mtWait f) s u f.d f.c wsNOVERDICT ones ones ∧ EndsFrom (.mtSync f) s u f.d f.c wsNOVERDICT ones ones)) ∧
      (64 ≤ p → ∀ i ∈ [Instr.mtArr f, .mtWait f, .mtSync f], Traps i s u 0x08 (s.reg f.b.toNat))) ∧
    (p < 64 → u.uns = false ∨ meetScope u r < 4 → u.c = s.c → Asks (.mtJoin f) s u r.dev o (.mtJoin p 0)) ∧
    (p < 64 → u.uns = true → 4 ≤ meetScope u r → EndsFrom (.mtJoin f) s u f.d 0 wsNOVERDICT ones ones) ∧
    (64 ≤ p → Traps (.mtJoin f) s u 0x08 (s.reg f.b.toNat)) ∧
    (boundOf u reach ≤ f.imm.toNat →
      (u.uns = false ∨ reach < 4 → u.c = s.c → Asks (.mtInit f) s u r.dev o (.mtInit (s.reg f.b.toNat) f.imm.toNat f.sub.toNat)) ∧
      (u.uns = true → 4 ≤ reach → EndsFrom (.mtInit f) s u 0 0 wsNOVERDICT ones ones)) ∧
    (f.imm.toNat < boundOf u reach → Traps (.mtInit f) s u 0x01 (wd f.imm.toNat))

/-- Majors 0x10 and 0x11 without the bindings: what each asks of its home. -/
def Obligations.LockAndBufferRequests : Prop :=
  (∀ (s u : State) (f : H3) (r : Rec), recordAt s (s.reg f.a.toNat) = .ok (r, u) → u.c = s.c →
    let dl := (s.reg f.dl.toNat).toNat
    let hdl := (s.reg f.b.toNat).toNat
    let far := s.tick.toNat + s.myPart.whz.toNat
    (u.uns = false ∨ placeScope u r < 4 →
      (dl ≤ far → hdl ≤ far → Asks (.lkAcq f) s u r.dev (.lock r.pa) (.lkAcquire hdl dl)) ∧
      (fillsOut u = false → Asks (.lkRel f) s (releaseAt u (placeScope u r)) r.dev (.lock r.pa) .lkRelease) ∧
      (fillsOut u = true → exec (.lkRel f) s = .next u) ∧ Asks (.lkMend f) s u r.dev (.lock r.pa) .lkMend) ∧
    (u.uns = true → 4 ≤ placeScope u r →
      (dl ≤ far → hdl ≤ far → EndsFrom (.lkAcq f) s u f.d 0 wsNOVERDICT ones ones) ∧
      EndsFrom (.lkRel f) s u 0 0 wsNOVERDICT ones ones ∧ EndsFrom (.lkMend f) s u 0 0 wsNOVERDICT ones ones) ∧
    (far < dl → Traps (.lkAcq f) s s 0x09 (wd dl)) ∧ (dl ≤ far → far < hdl → Traps (.lkAcq f) s s 0x09 (wd hdl))) ∧
  (∀ (s : State) (f : H3),
    let n := f.imm.toNat % 256
    let o := Obj.buf s.c.part n
    let dl := (s.reg f.dl.toNat).toNat
    let a := (s.reg f.a.toNat).toNat
    (∀ b, bufOf s s.c.part n = some b → s.uns = false ∨ b.reach s < 4 →
      (dl ≤ s.tick.toNat + s.myPart.whz.toNat → Asks (.recv f) s s b.home o (.cbRecv f.c.toNat dl false) ∧
        (b.closed = false → Asks (.cbClaim f) s s b.home o (.cbClaim f.c.toNat dl dl))) ∧
      (fillsOut s = false → Asks (.cbFree f) s (releaseAt s (b.reach s)) b.home o (.cbFree a) ∧
        (b.closed = false → Asks (.cbFill f) s (releaseAt s (b.reach s)) b.home o (.cbFill a false))) ∧
      (fillsOut s = true → exec (.cbFree f) s = .next s ∧ (b.closed = false → exec (.cbFill f) s = .next s)) ∧
      Asks (.cbSt f) s s b.home o (.query 2 0)) ∧
    (∀ b, bufOf s s.c.part n = some b → s.uns = true → 4 ≤ b.reach s → b.closed = false →
      (dl ≤ s.tick.toNat + s.myPart.whz.toNat → EndsWith (.cbClaim f) s f.d 0 wsNOVERDICT ones ones ∧
        EndsWith (.recv f) s f.d f.b wsNOVERDICT ones ones) ∧
      EndsWith (.cbFill f) s 0 0 wsNOVERDICT ones ones ∧ EndsWith (.cbFree f) s 0 0 wsNOVERDICT ones ones ∧
      EndsWith (.cbSt f) s f.d 0 wsNOVERDICT ones ones) ∧
    (∀ b, bufOf s s.c.part n = some b → b.closed = true →
      Traps (.cbFill f) s s 0x08 (wd n) ∧ (dl ≤ s.tick.toNat + s.myPart.whz.toNat → Traps (.cbClaim f) s s 0x08 (wd n))) ∧
    (bufOf s s.c.part n = none → (∀ i ∈ [Instr.cbFill f, .cbFree f, .cbSt f], Traps i s s 0x08 (wd n)) ∧
      (dl ≤ s.tick.toNat + s.myPart.whz.toNat → Traps (.cbClaim f) s s 0x08 (wd n) ∧ Traps (.recv f) s s 0x08 (wd n))) ∧
    (s.tick.toNat + s.myPart.whz.toNat < dl → Traps (.cbClaim f) s s 0x09 (wd dl) ∧ Traps (.recv f) s s 0x09 (wd dl))) ∧
  ∀ (s : State) (f : H3),
    let n := f.imm.toNat % 256
    (∀ b, chainOf s s.c.part n = some b →
      (s.uns = false ∨ b.reach s < 4 →
        (fillsOut s = false →
          Asks (.chainPub f) s (releaseAt s (b.reach s)) b.home (.chain s.c.part n) (.chPub (s.reg f.a.toNat).toNat)) ∧
        (fillsOut s = true → exec (.chainPub f) s = .next s)) ∧
      (s.uns = true → 4 ≤ b.reach s → EndsWith (.chainPub f) s 0 0 wsNOVERDICT ones ones)) ∧
    (chainOf s s.c.part n = none → Traps (.chainPub f) s s 0x08 (wd n))

/-- `cb.def` and `chain.def` (R157, R160), and the request about a binding at its home. -/
def Obligations.Bindings : Prop :=
  (∀ (s : State) (f : H3),
    let n := f.imm.toNat % 256
    let p := s.c.part
    Binds (.cbDef f) s f (.buf p n) 0 ((bufOf s p n).map fun b => (b.home, b.reach s)) bufRecordBad (fun bs => fieldAt bs 11 1 % 8) ∧
    Binds (.chainDef f) s f (.chain p n) 1 ((chainOf s p n).map fun b => (b.home, b.reach s)) chainRecordBad
      (fun bs => fieldAt bs 8 1)) ∧
  ∀ (s : State) (g : Msg) (p n arg : Nat), Due s g →
    let bs := peek s (arg - 1) 64
    (g.obj = .buf p n → g.req = .query 0 arg →
      (partLive s g.who.part = false → ∃ t, exec (.bufferFreeAtHome g) s = .next t ∧ t.bufs = s.bufs ∧ Answered s t g.who wsGONE ones ones) ∧
      (partLive s g.who.part = true →
        ((∃ b, bufOf s p n = some b ∧ bufHeld b = true) → ∃ t, exec (.bufferFreeAtHome g) s = .next t ∧ t.bufs = s.bufs ∧
          Answered s t g.who wsMET 2 0) ∧
        ((∀ b, bufOf s p n = some b → bufHeld b = false) →
          (arg ≠ 0 → bufRecordBad bs = true → ∃ t, exec (.bufferFreeAtHome g) s = .next t ∧ t.bufs = s.bufs ∧ Answered s t g.who wsMET 1 0) ∧
          (arg = 0 ∨ bufRecordBad bs = false →
            ((∃ b, bufOf s p n = some b ∧ bufBusy (rereadHpr s b) = true) → ∃ t, exec (.bufferFreeAtHome g) s = .next t ∧ t.bufs = s.bufs ∧
              Answered s t g.who wsMET 2 0) ∧
            ((∀ b, bufOf s p n = some b → bufBusy (rereadHpr s b) = false) → ∃ t, exec (.bufferFreeAtHome g) s = .next t ∧
              AnsweredLast t g.who wsMET 0 0 ∧ (arg = 0 → bufOf t p n = none) ∧
              (arg ≠ 0 → ∃ b, bufOf t p n = some b ∧ b.pa = arg - 1 ∧ b.home = s.dev ∧ b.die = g.die ∧ b.base = fieldAt bs 0 7 ∧
                b.cap = fieldAt bs 8 2 ∧ b.lgsz = fieldAt bs 10 1 ∧ b.scope = fieldAt bs 11 1 % 8 ∧ b.host = nbit (fieldAt bs 11 1) 7 ∧
                b.np = nbit (fieldAt bs 11 1) 6 ∧ b.rsv.toNat = fieldAt bs 16 4 ∧ b.fre.toNat = fieldAt bs 20 4 ∧
                b.con.toNat = fieldAt bs 24 4 ∧ b.rpos = fieldAt bs 32 2 ∧ b.fpos = fieldAt bs 34 2 ∧ b.cpos = fieldAt bs 36 2 ∧
                b.slots = List.replicate (fieldAt bs 8 2) .free ∧ b.claims = [] ∧ b.recvs = [])))))) ∧
    (g.obj = .chain p n → g.req = .query 1 arg →
      (partLive s g.who.part = false → ∃ t, exec (.bufferFreeAtHome g) s = .next t ∧ t.chains = s.chains ∧
        Answered s t g.who wsGONE ones ones) ∧
      (partLive s g.who.part = true →
        (arg ≠ 0 → chainRecordBad bs = true → ∃ t, exec (.bufferFreeAtHome g) s = .next t ∧ t.chains = s.chains ∧
          Answered s t g.who wsMET 1 0) ∧
        (arg = 0 ∨ chainRecordBad bs = false →
          ((∃ c, chainOf s p n = some c ∧ c.waits ≠ []) → ∃ t, exec (.bufferFreeAtHome g) s = .next t ∧ t.chains = s.chains ∧
            Answered s t g.who wsMET 2 0) ∧
          ((∀ c, chainOf s p n = some c → c.waits = []) → ∃ t, exec (.bufferFreeAtHome g) s = .next t ∧ Answered s t g.who wsMET 0 0 ∧
            (arg = 0 → chainOf t p n = none) ∧
            (arg ≠ 0 → ∃ c, chainOf t p n = some c ∧ c.pa = arg - 1 ∧ c.home = s.dev ∧ c.die = g.die ∧ c.h.toNat = fieldAt bs 0 8 ∧
              c.scope = fieldAt bs 8 1 ∧ c.waits = [])))))

/-- MEETING_INIT_AT_HOME, MEETING_ARRIVAL_AT_HOME and MEETING_JOIN_AT_HOME at a meeting whose generation stays open. -/
def Obligations.MeetingsAtHome : Prop :=
  ∀ (s : State) (g : Msg), Due s g →
    let o := g.obj
    let me := g.who
    (∀ (pa : Nat) (memb : Word) (grace scope : Nat), o = .meet pa → g.req = .mtInit memb grace scope → meetOf s o = none →
      (entryFree s me.part g.die = true → ∃ t m, exec (.meetingInitAtHome g) s = .next t ∧ meetOf t o = some m ∧ m.part = me.part ∧
        m.memb = memb ∧ m.grace = grace ∧ m.scope = scope ∧ m.gen = 0 ∧ m.arr = 0 ∧ m.joined = 0 ∧ m.labs = 0 ∧ m.dlv = false ∧
        m.held = [] ∧ Answered s t me wsMET 0 0) ∧
      (entryFree s me.part g.die = false → ∃ t, exec (.meetingInitAtHome g) s = .next t ∧ t.meets = s.meets ∧ t.mem = s.mem ∧
        Answered s t me wsOVERFLOW 0 0)) ∧
    (∀ (pa : Nat) (m : Meet) (party u : Nat) (dg : BitVec 64), o = .meet pa → meetOf s o = some m → m.digest = dg →
      let bit : Word := 1#64 <<< party
      (g.req = .mtArrive party u false dg → m.memb &&& bit ≠ 0 → (∀ h ∈ m.held, h.1 ≠ party) → m.arr ≠ m.memb → m.arr ||| bit ≠ m.memb →
        let dl := if m.dlv then m.dl else max u me.stamp
        ∃ t m', exec (.meetingArrivalAtHome g) s = .next t ∧ meetOf t o = some m' ∧ t.answers = s.answers ∧ m'.dl = dl ∧ m'.dlv = true ∧
          m'.gen = m.gen ∧ m'.memb = m.memb ∧ m'.arr = (if me.stamp ≤ dl then m.arr ||| bit else m.arr) ∧
          m'.held = m.held ++ [(party, decide (dl < me.stamp))]) ∧
      (g.req = .mtArrive party u true dg → m.memb &&& bit = 0 → m.waits = [] → m.arr ≠ m.memb →
        ∃ t, exec (.meetingArrivalAtHome g) s = .next t ∧ Answered s t me wsLATE (m.labs ||| bit) ((m.gen - 1).setWidth 64)) ∧
      (g.req = .mtJoin party dg → m.memb &&& bit = 0 → m.arr ≠ m.memb ||| bit →
        ∃ t m', exec (.meetingJoinAtHome g) s = .next t ∧ meetOf t o = some m' ∧ m'.memb = m.memb ||| bit ∧ m'.joined = m.joined ||| bit ∧
          m'.arr = m.arr ∧ m'.gen = m.gen ∧ Answered s t me wsMET (m.gen.setWidth 64) 0)) ∧
    (∀ (pa : Nat) (party u : Nat) (dg : BitVec 64), o = .meet pa → meetOf s o = none →
      (g.req = .mtWait party u ∨ g.req = .mtArrive party u true dg → ∃ t, exec (.meetingArrivalAtHome g) s = .next t ∧ t.meets = s.meets ∧
        Answered s t me wsNOVERDICT ones ones) ∧
      (g.req = .mtJoin party dg → ∃ t, exec (.meetingJoinAtHome g) s = .next t ∧ t.meets = s.meets ∧ Answered s t me wsNOVERDICT ones ones)) ∧
    ∀ x : Msg, x.who.dev ≠ s.dev →
      ((∀ y ∈ s.msgs, y.who ≠ x.who) → ∀ i ∈ [Instr.meetingInitAtHome x, .meetingArrivalAtHome x, .meetingJoinAtHome x, .lockAcquireAtHome x,
          .lockReleaseAtHome x, .lockMendAtHome x, .bufferClaimAtHome x, .bufferFillAtHome x, .bufferRecvAtHome x, .bufferFreeAtHome x,
          .chainPubAtHome x],
        (msgSeen s x = none → msgBusy s x = false →
          (msgGone s x = false → ∃ l, exec i s = .next { s with streams := l, msgs := s.msgs ++ [{ x with arrive := s.now }] }) ∧
          (msgGone s x = true → ∃ t a, exec i s = .next t ∧ t.msgs = s.msgs ∧ Out.ans x.who a ∈ t.out ∧ a.code = wsGONE)) ∧
        ∀ y, msgSeen s x = some y → y.busy = false → y.said = [] → exec i s = .next s) ∧
      ∀ (pa : Nat) (m : Meet) (party u : Nat) (dg : BitVec 64), x ∈ s.msgs → x.arrive ≤ s.now → msgBusy s x = false →
        x.obj = .meet pa → meetOf s x.obj = some m → m.digest = dg → x.req = .mtArrive party u false dg →
        m.memb &&& 1#64 <<< party ≠ 0 → m.arr ≠ m.memb → m.arr ||| 1#64 <<< party ≠ m.memb →
        ∃ t, exec (.meetingArrivalAtHome x) s = .next t ∧
          Out.ack x.who (if m.dlv then m.dl else max u x.who.stamp) m.grace ∈ t.out

/-- MEETING_CLOSE_DEADLINE, the close by the last arrival, and MEETING_WAIT_GIVE_UP. -/
def Obligations.MeetingClose : Prop :=
  (∀ (s : State) (o : Obj) (m : Meet), meetOf s o = some m → (∀ core n, o ≠ .barrier core n) → m.dlv = true → closeHeld s o = false →
    (s.tick.toNat < m.dl + m.grace → exec (.meetingCloseDeadline o) s = .next s) ∧
    (m.dl + m.grace ≤ s.tick.toNat → ∃ t m', exec (.meetingCloseDeadline o) s = .next t ∧ meetOf t o = some m' ∧
      m'.labs = m.memb &&& ~~~m.arr ∧ m'.ljoin = m.joined ∧ m'.memb = m.memb &&& m.arr ∧ m'.arr = 0 ∧ m'.joined = 0 ∧ m'.dlv = false ∧
      m'.gen = m.gen + 1 ∧ m'.held = [] ∧
      ((m.held.map Prod.fst).Nodup → ∀ h ∈ m.held,
        let code := if h.2 then wsLATE else if m'.labs = 0 then wsMET else wsABSENT
        let r2 : Word := if h.2 then m.gen.setWidth 64 else m.joined
        ((∀ w ∈ m.waits, w.party ≠ h.1) → ∃ k ∈ m'.kept, k.party = h.1 ∧ k.code = code ∧ k.r1 = m'.labs ∧ k.r2 = r2) ∧
        ∀ w ∈ m.waits, w.party = h.1 → w.who.dev = s.dev →
          ∃ a ∈ t.answers, a.ctx = w.who.id ∧ a.stamp = w.who.stamp ∧ a.code = code ∧ a.r1 = m'.labs ∧ a.r2 = r2))) ∧
  (∀ (s : State) (g : Msg) (pa : Nat) (m : Meet) (party u : Nat), Due s g → g.obj = .meet pa → g.req = .mtArrive party u true m.digest →
    meetOf s g.obj = some m → closeHeld { s with msgs := s.msgs.erase g } g.obj = false →
    m.memb &&& 1#64 <<< party ≠ 0 → (∀ h ∈ m.held, h.1 ≠ party) → m.waits = [] → m.arr ||| 1#64 <<< party = m.memb →
    (m.dlv = true → g.who.stamp ≤ m.dl) →
    ∃ t m', exec (.meetingArrivalAtHome g) s = .next t ∧ meetOf t g.obj = some m' ∧ m'.gen = m.gen + 1 ∧ m'.labs = 0 ∧ m'.memb = m.memb ∧
      m'.arr = 0 ∧ m'.held = [] ∧ Answered s t g.who wsMET 0 m.joined) ∧
  ∀ (s : State) (o : Obj) (m : Meet) (w : MtWaiter), meetOf s o = some m → isGroup o = false → m.waits = [w] → w.gave = false →
    w.who.dev = s.dev →
    (TickPast s (w.u + m.grace) → ∃ t m', exec (.meetingWaitGiveUp o w.who) s = .next t ∧ meetOf t o = some m' ∧ m'.waits = [] ∧
      m'.held = m.held ∧ m'.arr = m.arr ∧ Answered s t w.who wsABSENT ones 0) ∧
    (¬TickPast s (w.u + m.grace) → exec (.meetingWaitGiveUp o w.who) s = .next s)

/-- The lock steps for requests and waiters of this device. -/
def Obligations.LocksAtHome : Prop :=
  (∀ (s : State) (g : Msg) (pa : Nat), Due s g → g.obj = .lock pa →
    (∀ hdl u, g.req = .lkAcquire hdl u →
      (lockOf s pa = none → entryFree s g.who.part g.die = true →
        (s.tick.toNat < hdl → ∃ t l, exec (.lockAcquireAtHome g) s = .next t ∧ lockOf t pa = some l ∧ l.holder = some g.who ∧
          l.hdl = hdl ∧ l.abn = false ∧ l.queue = [] ∧ Answered s t g.who wsMET 0 0 ∧
          (Memory.wf s.mem = true → ∀ k, k < physKey s pa ∨ physKey s pa + 64 ≤ k → t.byteAt k = s.byteAt k)) ∧
        (hdl ≤ s.tick.toNat → ∃ t, exec (.lockAcquireAtHome g) s = .next t ∧ lockOf t pa = none ∧ Answered s t g.who wsLATE (wd hdl) 0)) ∧
      (lockOf s pa = none → entryFree s g.who.part g.die = false → ∃ t, exec (.lockAcquireAtHome g) s = .next t ∧ t.locks = s.locks ∧
        t.mem = s.mem ∧ Answered s t g.who wsOVERFLOW 0 0) ∧
      (∀ l h, lockOf s pa = some l → l.holder = some h →
        (sameParty g.who h = false → ∃ t l', exec (.lockAcquireAtHome g) s = .next t ∧ lockOf t pa = some l' ∧ l'.holder = some h ∧
          l'.hdl = l.hdl ∧ l'.queue.map LkWaiter.who = l.queue.map LkWaiter.who ++ [g.who] ∧ t.answers = s.answers ∧ t.mem = s.mem) ∧
        (sameParty g.who h = true → s.tick.toNat < hdl → ∃ t l', exec (.lockAcquireAtHome g) s = .next t ∧ lockOf t pa = some l' ∧
          l'.holder = some h ∧ l'.hdl = hdl ∧ l'.queue = l.queue ∧
          Answered s t g.who (if l.abn then wsABANDONED else wsMET) (if l.abn then wd l.abdl else 0) 0))) ∧
    (∀ l h, lockOf s pa = some l → l.holder = some h →
      (sameParty g.who h = true → s.tick.toNat ≤ l.hdl →
        (g.req = .lkRelease → l.queue = [] → ∃ t, exec (.lockReleaseAtHome g) s = .next t ∧ Answered s t g.who wsMET 0 0 ∧
          (l.abn = false → lockOf t pa = none) ∧ (l.abn = true → lockOf t pa = some { l with holder := none })) ∧
        (g.req = .lkRelease → ∀ w q, l.queue = w :: q → s.tick.toNat < w.hdl → ∃ t, exec (.lockReleaseAtHome g) s = .next t ∧
          lockOf t pa = some { l with holder := some w.who, hdl := w.hdl, queue := q }) ∧
        (g.req = .lkMend → ∃ t, exec (.lockMendAtHome g) s = .next t ∧ lockOf t pa = some { l with abn := false } ∧
          Answered s t g.who wsMET 0 0)) ∧
      (sameParty g.who h = false ∨ l.hdl < s.tick.toNat →
        (g.req = .lkRelease → ∃ t, exec (.lockReleaseAtHome g) s = .next t ∧ t.locks = s.locks ∧ t.mem = s.mem ∧
          Answered s t g.who wsABANDONED 0 0) ∧
        (g.req = .lkMend → ∃ t, exec (.lockMendAtHome g) s = .next t ∧ t.locks = s.locks ∧ t.mem = s.mem ∧
          Answered s t g.who wsABANDONED 0 0)))) ∧
  ∀ (s : State) (pa : Nat) (l : Lock), lockOf s pa = some l →
    (l.holder.isSome = true → l.hdl < s.tick.toNat → l.queue = [] → ∃ t, exec (.lockHoldLapse pa) s = .next t ∧
      lockOf t pa = some { l with holder := none, abn := true, abdl := l.hdl } ∧ t.answers = s.answers) ∧
    (l.holder.isSome = false ∨ s.tick.toNat ≤ l.hdl → exec (.lockHoldLapse pa) s = .next s) ∧
    ∀ w, l.holder.isSome = true → l.queue = [w] → w.who.dev = s.dev →
      (TickPast s (w.u + w.b) → ∃ t, exec (.lockAcquireTimeout pa w.who) s = .next t ∧ lockOf t pa = some { l with queue := [] } ∧
        Answered s t w.who wsABSENT (wd l.hdl) 0) ∧
      (¬TickPast s (w.u + w.b) → exec (.lockAcquireTimeout pa w.who) s = .next s)

/-- The buffer steps, for buffers that the host does not fill and parties of this device. -/
def Obligations.BuffersAtHome : Prop :=
  (∀ (s : State) (p n : Nat) (b : Buf) (g : Msg), bufOf s p n = some b → b.closed = true → Due s g → g.obj = .buf p n →
    ∀ i, (i = .bufferClaimAtHome g ∧ ∃ cnt u fill, g.req = .cbClaim cnt u fill) ∨ (i = .bufferFillAtHome g ∧ ∃ x c, g.req = .cbFill x c ∧ (c = false ∨ b.expert.isSome)) →
      ∃ t a, exec i s = .next t ∧ t.bufs = s.bufs ∧ t.answers = s.answers ++ [a] ∧ a.ctx = g.who.id ∧ a.stamp = g.who.stamp ∧
        a.trap = some (0x08, wd n)) ∧
  ∀ (s : State) (p n : Nat) (b : Buf), bufOf s p n = some b → b.host = false → b.slots.length = b.cap → b.rpos < b.cap → b.cpos < b.cap →
    (∀ g : Msg, Due s g → g.obj = .buf p n → b.claims = [] → b.recvs = [] →
      (∀ cnt u fill, g.req = .cbClaim cnt u fill → b.closed = false →
        (cnt ≤ b.cap → cnt ≤ bufFree b → ∃ t b', exec (.bufferClaimAtHome g) s = .next t ∧ bufOf t p n = some b' ∧
          Answered s t g.who wsMET (wd b.rpos) 0 ∧ b'.rsv = b.rsv + BitVec.ofNat 32 cnt ∧ b'.rpos = (b.rpos + cnt) % b.cap ∧
          b'.claims = [] ∧ ∀ i < cnt, slotAt b' ((b.rpos + i) % b.cap) = .reserved fill) ∧
        (cnt ≤ b.cap → bufFree b < cnt → ∃ t b', exec (.bufferClaimAtHome g) s = .next t ∧ bufOf t p n = some b' ∧ b'.slots = b.slots ∧
          b'.claims.map CbWaiter.who = [g.who] ∧ t.answers = s.answers) ∧
        (b.cap < cnt → ∃ t, exec (.bufferClaimAtHome g) s = .next t ∧ t.bufs = s.bufs ∧ Answered s t g.who wsOVERFLOW 0 0)) ∧
      (∀ slot c, g.req = .cbFill slot c → (c = true ∧ b.expert = none) ∨ b.closed = false →
        (∀ dl, slotAt b slot = .reserved dl → slot < b.cap → g.who.stamp ≤ dl → ∃ t b', exec (.bufferFillAtHome g) s = .next t ∧
          bufOf t p n = some b' ∧ b'.slots = b.slots.set slot .filled ∧ Answered s t g.who wsMET 0 0) ∧
        ((∀ dl, slotAt b slot = .reserved dl → dl < g.who.stamp) → ∃ t, exec (.bufferFillAtHome g) s = .next t ∧ t.bufs = s.bufs ∧
          Answered s t g.who wsLATE 0 0)) ∧
      (∀ cnt u, g.req = .cbRecv cnt u false →
        (1 ≤ cnt → cnt ≤ bufFilled b → ∃ t b', exec (.bufferRecvAtHome g) s = .next t ∧ bufOf t p n = some b' ∧
          Answered s t g.who wsMET (wd b.cpos) (wd cnt) ∧ b'.con = b.con + BitVec.ofNat 32 cnt ∧
          ∀ i < cnt, slotAt b' ((b.cpos + i) % b.cap) = .taken) ∧
        (1 ≤ cnt → cnt ≤ b.cap → slotAt b b.cpos = .hole →
          (b.expert = none → ∃ t b', exec (.bufferRecvAtHome g) s = .next t ∧ bufOf t p n = some b' ∧
            b'.slots = b.slots.set b.cpos .taken ∧ Answered s t g.who wsHOLE (wd b.cpos) 1) ∧
          (b.expert.isSome → cnt = 1 → slotAt b ((b.cpos + 1) % b.cap) = .filled → ∃ t, exec (.bufferRecvAtHome g) s = .next t ∧
            Answered s t g.who wsMET (wd ((b.cpos + 1) % b.cap)) 1)) ∧
        (1 ≤ cnt → cnt ≤ b.cap → slotAt b b.cpos ≠ .hole → slotAt b b.cpos ≠ .filled → ∃ t b', exec (.bufferRecvAtHome g) s = .next t ∧
          bufOf t p n = some b' ∧ b'.slots = b.slots ∧ b'.recvs.map CbWaiter.who = [g.who] ∧ t.answers = s.answers)) ∧
      (∀ slot, g.req = .cbFree slot →
        (slot < b.cap → slotAt b slot = .taken → ∃ t b', exec (.bufferFreeAtHome g) s = .next t ∧ bufOf t p n = some b' ∧
          Answered s t g.who wsMET 0 0 ∧ (slotAt b' slot = .freed ∨ slotAt b' slot = .free) ∧ (slot = b.fpos → slotAt b' slot = .free)) ∧
        (slotAt b slot ≠ .taken → ∃ t, exec (.bufferFreeAtHome g) s = .next t ∧ t.bufs = s.bufs ∧ Answered s t g.who wsABSENT 0 0)) ∧
      (g.req = .query 2 0 → partLive s g.who.part = true → ∃ t, exec (.bufferFreeAtHome g) s = .next t ∧ t.bufs = s.bufs ∧
        Answered s t g.who wsMET (wd (bufFree b % 2 ^ 13 + bufFilled b % 2 ^ 13 * 2 ^ 16 + b.cpos % 2 ^ 13 * 2 ^ 32)) 0)) ∧
    (∀ slot dl, slotAt b slot = .reserved dl → slot < b.cap →
      (dl + boundOf s b.scope ≤ s.tick.toNat ∨ (p, n, slot) ∈ s.holes → ∃ t b', exec (.slotHoleConversion p n slot) s = .next t ∧ bufOf t p n = some b' ∧
        b'.slots = b.slots.set slot .hole) ∧
      (s.tick.toNat < dl + boundOf s b.scope → (p, n, slot) ∉ s.holes → exec (.slotHoleConversion p n slot) s = .next s)) ∧
    (∀ w, b.claims = [w] → b.recvs = [] → w.who.dev = s.dev →
      (w.n ≤ bufFree b → ∃ b', bufOf (settleBuf s b) p n = some b' ∧ b'.claims = [] ∧ b'.rsv = b.rsv + BitVec.ofNat 32 w.n ∧
        Answered s (settleBuf s b) w.who wsMET (wd b.rpos) 0) ∧
      (TickPast s (w.u + boundOf s b.scope) → ∃ t b', exec (.claimTimeout p n w.who) s = .next t ∧ bufOf t p n = some b' ∧
        b'.claims = [] ∧ b'.slots = b.slots ∧ Answered s t w.who wsABSENT 0 0) ∧
      (¬TickPast s (w.u + boundOf s b.scope) → exec (.claimTimeout p n w.who) s = .next s)) ∧
    ∀ w, b.recvs = [w] → b.claims = [] → w.who.dev = s.dev → w.got = 0 → 1 ≤ w.n → slotAt b b.cpos ≠ .hole → slotAt b b.cpos ≠ .filled →
      (TickPast s (w.u + boundOf s b.scope) → ∃ t b', exec (.recvTimeout p n w.who) s = .next t ∧ bufOf t p n = some b' ∧
        b'.recvs = [] ∧ b'.slots = b.slots ∧ Answered s t w.who wsABSENT (wd b.cpos) 0) ∧
      (¬TickPast s (w.u + boundOf s b.scope) → exec (.recvTimeout p n w.who) s = .next s)

/-- CHAIN_PUB_AT_HOME, and a chained read and its timeout. -/
def Obligations.ChainsAtHome : Prop :=
  ∀ (s : State) (p n : Nat) (c : Chain), chainOf s p n = some c →
    (∀ (g : Msg) (h : Nat), Due s g → g.obj = .chain p n → g.req = .chPub h → h < 2 ^ 64 →
      ∃ t c', exec (.chainPubAtHome g) s = .next t ∧ chainOf t p n = some c' ∧ c'.h.toNat = max c.h.toNat h ∧
        (c.waits = [] → c'.waits = [] ∧ Answered s t g.who wsMET 0 0) ∧
        ∀ w ∈ c.waits, w.who.dev = s.dev → w.full ≤ max c.h.toNat h - w.es →
          w ∉ c'.waits ∧ ∃ a ∈ t.answers, a.ctx = w.who.id ∧ a.stamp = w.who.stamp ∧ a.code = wsMET ∧ a.r1 = c'.h) ∧
    (∀ (g : Msg) (full es u : Nat), Due s g → g.obj = .chain p n → g.req = .chRead full es u →
      (full ≤ c.h.toNat - es → ∃ t, exec (.chainPubAtHome g) s = .next t ∧ t.chains = s.chains ∧ Answered s t g.who wsMET c.h 0) ∧
      (c.h.toNat - es < full → ∃ t c', exec (.chainPubAtHome g) s = .next t ∧ chainOf t p n = some c' ∧ c'.h = c.h ∧
        c'.waits.map ChWaiter.who = c.waits.map ChWaiter.who ++ [g.who] ∧ t.answers = s.answers)) ∧
    ∀ w, c.waits = [w] → w.who.dev = s.dev →
      (TickPast s (w.u + boundOf s c.scope) → ∃ t c', exec (.chainReadTimeout p n w.who) s = .next t ∧ chainOf t p n = some c' ∧
        c'.waits = [] ∧ c'.h = c.h ∧ Answered s t w.who wsABSENT c.h 0) ∧
      (¬TickPast s (w.u + boundOf s c.scope) → exec (.chainReadTimeout p n w.who) s = .next s)

/-- VERDICT_RECEIVED, HOME_ACK_RECEIVED, HOME_LOSS_TIMEOUT, ATOMIC_ANSWER, HOST_COMPLETION, COPY_FAULT_DELIVERY and SHOOTDOWN_ACK. -/
def Obligations.WaitEnds : Prop :=
  (∀ (s : State) (r : Ans) (c : Ctx) (w : Wait) (d1 d2 : Nat), r ∈ s.answers → r.arrive ≤ s.tick.toNat → r.ctx ≤ engineId → s.ctx? r.ctx = some c →
    c.alive = true → c.line.isSome → c.wait = some w → w.stamp = r.stamp → w.obj.isSome = true → w.op = .plain d1 d2 → d1 < 32 → d2 < 32 →
    redGroup s r.ctx r.stamp = none →
    (r.trap = none → r.code < 8 → ∃ t d, exec (.verdictReceived r) s = .next t ∧ t.ctx? r.ctx = some d ∧ d.wait = none ∧ d.pc = c.nextPc ∧
      d.ws = wd r.code ∧
      (¬(r.code = wsOVERFLOW ∧ w.obj.any isLock = true) → (d2 ≠ 0 → d.reg d2 = r.r2) ∧ (d1 ≠ 0 → d1 ≠ d2 → d.reg d1 = r.r1)) ∧
      (r.code = wsOVERFLOW → w.obj.any isLock = true → ∀ n, d.reg n = c.reg n) ∧
      (∀ n, n ≠ d1 → n ≠ d2 → d.reg n = c.reg n) ∧ t.mem = s.mem ∧ t.answers = s.answers.erase r) ∧
    (∀ code v, r.trap = some (code, v) → c.tst.getLsbD 2 = false → ∃ t d, exec (.verdictReceived r) s = .next t ∧ t.ctx? r.ctx = some d ∧
      d.wait = none ∧ d.cause = wd code ∧ d.tval = v ∧ d.epc = c.pc.setWidth 64 ∧ d.pc = (s.part c.part).tvec.setWidth 56 ∧
      ∀ n, d.reg n = c.reg n)) ∧
  (∀ (s : State) (ctx : Nat) (c : Ctx) (w : Wait), s.ctx? ctx = some c → c.alive = true → c.wait = some w →
    (∀ l dl grace, w.limit = some l → w.dev ≠ s.dev → w.obj.any isMeeting = true → ∃ t d, exec (.homeAckReceived ctx dl grace) s = .next t ∧
      t.ctx? ctx = some d ∧ d = { c with wait := some { w with limit := some ((if isReduce w then dl else min (max w.u w.stamp) dl) + grace + 65536) } }) ∧
    (∀ l d1 d2, w.limit = some l → w.op = .plain d1 d2 → d1 < 32 → d2 < 32 →
      (l ≤ s.tick.toNat → ∃ t d, exec (.homeLossTimeout ctx) s = .next t ∧ t.ctx? ctx = some d ∧ d.wait = none ∧ d.pc = c.nextPc ∧
        d.ws = wd wsNOVERDICT ∧ (d1 ≠ 0 → d.reg d1 = ones) ∧ (d2 ≠ 0 → d.reg d2 = ones)) ∧
      (s.tick.toNat < l → exec (.homeLossTimeout ctx) s = .next s))) ∧
  (∀ (s u t : State) (fn m : Nat) (f : H3) (a : FAns), s.c.alive = true → atomicAt s.c = some (fn, f) → s.c.hold.bind Hold.ans = some a →
    (s.reg f.a.toNat).toNat % (tyWidth f.ty.toNat / 8) = 0 →
    Ordered s (ordAcquires (f.imm.toNat / 8 % 4)) (ordReleases (f.imm.toNat / 8 % 4)) (f.imm.toNat % 8) (s.reg f.a.toNat).toNat
      (tyWidth f.ty.toNat / 8) u →
    atomicMem u u.agent (s.reg f.a.toNat).toNat fn f.ty.toNat (s.reg f.b.toNat).toNat (s.reg f.d.toNat).toNat = .ok m t →
    t.c.id = s.c.id → t.c.alive = true → f.sub.getLsbD 0 = false →
    exec (.atomicAnswer s.c.id) s = .next (t.setReg f.d.toNat (extendTy f.ty.toNat m)).adv) ∧
  (∀ (s : State) (h : Hold) (tag st : Nat) (v : Word) (r : Resv) (o : HostOp), s.c.alive = true → s.c.hold = some h → h.tag = some tag →
    (s.resvs.find? fun r => r.tag == tag && r.ctx == s.c.id) = some r → r.host = some o → o.done = false → o.ty ∈ [3, 4, 7, 8] → Memory.wf s.mem = true →
    (∀ q ∈ s.resvs, ∀ y, q.host = some y → q.tag ≠ tag → y.key ≠ o.key) →
    ∃ t, exec (.hostCompletion s.c.id st v) s = .next t ∧
      t.c.hold.bind Hold.ans = some { st := st, val := v.toNat } ∧ (∀ q ∈ t.resvs, q.tag ≠ tag) ∧ (st = 1 ∨ st = 2 → t.mem = s.mem) ∧
      (st = 0 →
        let n := tyWidth o.ty / 8
        let x := leNat (getCells t.mem o.key n)
        (hostWord s o ≠ v.toNat % 2 ^ (8 * n) → t.mem = s.mem) ∧
        (hostWord s o = v.toNat % 2 ^ (8 * n) →
        (∀ k, k < o.key ∨ o.key + n ≤ k → t.byteAt k = s.byteAt k) ∧ (o.fn = 0 → x = (v.toNat + o.b) % 2 ^ (8 * n)) ∧
        (o.fn = 7 → x = o.b % 2 ^ (8 * n)) ∧
        (o.fn = 8 → x = if v.toNat % 2 ^ (8 * n) = o.e % 2 ^ (8 * n) then o.b % 2 ^ (8 * n) else v.toNat % 2 ^ (8 * n))))) ∧
  (∀ (s : State) (x : Copy) (cause a : Nat), s.c.alive = true → s.c.wait = none → s.c.hold = none → s.c.vq = [] → copyFault s s.c.id = some x →
    x.fault = some (cause, a) → s.c.tst.getLsbD 2 = false → ∃ t, exec (.copyFaultDelivery s.c.id) s = .next t ∧
      Trapped s t cause (wd (2 ^ 63 + x.slot.getD 0 % 64 * 2 ^ 56 + a % 2 ^ 56)) ∧ (∀ n, t.reg n = s.reg n) ∧ t.mem = s.mem) ∧
  ∀ (s : State) (unit who line : Nat),
    let h : Holder := { unit := unit, who := who }
    ((∃ x ∈ s.shoot, x.holder = h ∧ x.line = line) → ∃ t, exec (.shootdownAck h line) s = .next t ∧ t.mem = s.mem ∧
      (∀ x, x ∈ t.shoot ↔ x ∈ s.shoot ∧ ¬(x.holder = h ∧ x.line = line)) ∧
      (unit < 4 → ∀ e ∈ t.tlb, ¬(e.1 = h ∧ e.2.2.line = line)) ∧
      ∀ c, 4 ≤ unit → unit < 20 → s.ctx? who = some c → ∃ d, t.ctx? who = some d ∧
        (∀ x ∈ (d.stream (unit - 4)).held ++ (d.stream (unit - 4)).ahead, x.line ≠ line) ∧
        ((∃ x ∈ (c.stream (unit - 4)).held, x.line = line) → (d.stream (unit - 4)).stale = true)) ∧
    ((∀ x ∈ s.shoot, ¬(x.holder = h ∧ x.line = line)) → exec (.shootdownAck h line) s = .next s)

/-- Major 0x12. -/
def Obligations.TasksAndGraphs : Prop :=
  (∀ (s : State) (f : H3), s.c.part < 64 →
    let v := f.c.toNat * 2 ^ 21 + f.dl.toNat * 2 ^ 16 + f.imm.toNat
    let target := (((s.c.pc.toNat / 64 * 64 : Nat) + 64 * (BitVec.ofNat 21 (v / 32)).toInt + 2 * (v % 32 : Nat)) % 2 ^ 56 : Int).toNat
    let inScope := fun (n : Nat) => match f.sub.toNat with
      | 0 => n = s.c.core | 1 => n / 4 = s.c.core / 4 | 2 => dieOfCore n = dieOfCore s.c.core | _ => True
    let seated := ∃ n < 64, inScope n ∧ ∃ t ∈ s.seats, t.part = s.c.part ∧ t.core = n
    (fillsOut s = true → exec (.spawn f) s = .next s) ∧
    (fillsOut s = false → let u := releaseAt s f.sub.toNat
      (¬seated → EndsFrom (.spawn f) s u f.d 0 wsABSENT 0 0) ∧
      (seated → 1024 ≤ s.myPart.spawnQ.length → EndsFrom (.spawn f) s u f.d 0 wsOVERFLOW 0 0) ∧
      (seated → s.myPart.spawnQ.length < 1024 → EndsFrom (.spawn f) s u f.d 0 wsMET (wd s.myPart.spawnCount) 0 ∧
      ∃ t x, exec (.spawn f) s = .next t ∧ t.myPart.spawnQ = s.myPart.spawnQ ++ [x] ∧ t.myPart.spawnCount = (s.myPart.spawnCount + 1) % 2 ^ 32 ∧
        x.entry.toNat = target ∧ x.arg = s.reg f.a.toNat ∧ x.scope = f.sub.toNat ∧ x.core = s.c.core ∧ x.prio = s.c.prio ∧ x.at_ = s.now))) ∧
  (∀ (s : State) (f : H3),
    let a := s.reg f.a.toNat
    let n := (s.reg f.b.toNat).toNat
    let g := f.imm.toNat % 16
    (a.toNat % 64 ≠ 0 → Traps (.gdef f) s s 0x04 a) ∧
    (∀ (bs : List Byte) (u : State), a.toNat % 64 = 0 → loadLines s s.agent a.toNat (min n 64) = .ok bs u → u.c.part = s.c.part →
      let recs := (List.range (min n 64)).map fun i => (bs.drop (64 * i)).take 64
      (∀ reason i, graphFault u recs = some (reason, i) → exec (.gdef f) s = .next (u.setReg f.d.toNat (wd (reason * 256 + i))).adv) ∧
      (graphFault u recs = none → 64 < n → exec (.gdef f) s = .next (u.setReg f.d.toNat (wd (5 * 256 + 0xFF))).adv) ∧
      (graphFault u recs = none → n ≤ 64 → ∃ t, exec (.gdef f) s = .next t ∧ t.c.pc = u.c.nextPc ∧ (f.d ≠ 0 → t.reg f.d.toNat = 0) ∧ t.mem = u.mem ∧
        (n = 0 → ∀ x ∈ t.graphs, ¬(x.part = s.c.part ∧ x.g = g)) ∧
        (n ≠ 0 → ∃ x ∈ t.graphs, x.part = s.c.part ∧ x.g = g ∧ x.running = false ∧ x.stages = recs.map stageOfRecord) ∧
        ∀ x, ¬(x.part = s.c.part ∧ x.g = g) → (x ∈ t.graphs ↔ x ∈ u.graphs)))) ∧
  (∀ (s : State) (f : H3),
    let is := fun (x : Graph) => x.part == s.c.part && x.g == f.imm.toNat % 16
    (s.graphs.find? is = none → Sets (.gstart f) s f.d 1) ∧
    ∀ g, s.graphs.find? is = some g →
      ((∃ t ∈ g.stages, ∃ x ∈ t.ins ++ t.outs, x.2 ≠ 0 ∧ bufOf s s.c.part x.1 = none) → Sets (.gstart f) s f.d 2) ∧
      ((∀ t ∈ g.stages, ∀ x ∈ t.ins ++ t.outs, x.2 ≠ 0 → bufOf s s.c.part x.1 ≠ none) →
        (g.running = true → Sets (.gstart f) s f.d 3) ∧
        (g.running = false → ∃ t g', exec (.gstart f) s = .next t ∧ t.c.pc = s.c.nextPc ∧ (f.d ≠ 0 → t.reg f.d.toNat = 0) ∧
          t.graphs.find? is = some g' ∧ g'.running = true ∧
          g'.stages = g.stages.map fun x => { x with fired := 0, due := if x.isRoot then x.maxi + 1 else 0, since := none, level := 0 }))) ∧
  ∀ (s : State) (f : H3),
    ((∀ x ∈ s.copies, x.ctx ≠ s.c.id) → fillsOut s = false → ∃ t, exec (.exit f) s = .next t ∧ t.c.alive = false ∧ t.c.id = s.c.id ∧ t.c.wait = none ∧
      (s.c.firing = none → t.mem = s.mem) ∧ ∀ x ∈ t.seats, x.gangOf ≠ some s.c.id) ∧
    ((∃ x ∈ s.copies, x.ctx = s.c.id) ∨ fillsOut s = true → exec (.exit f) s = .next s)

/-- STAGE_FIRING, SPAWN_PLACEMENT, STAGE_AGING, PREEMPTION, CONTEXT_RESTORE, VECTOR_ISSUE, ROTATION_SET, SLICE_END,
CLUSTER_RETIREMENT and BEAT_LEND. -/
def Obligations.SchedulerEvents : Prop :=
  (∀ (s : State) (p : Nat) (b : Bid), p < 64 → firstBid (clockStages s) p = some b → (∀ x ∈ s.ctxs, x.id ≠ s.nextId) →
    (∀ g i x, b.who = .stage g i → stageOf (clockStages s) p g i = some x → ∃ t c y, exec (.stageFiring p) s = .next t ∧
      t.ctx? s.nextId = some c ∧ c.alive = true ∧ c.part = p ∧ c.core = b.core ∧ c.pos = b.pos ∧ c.slot = b.slot ∧ c.priv = 0 ∧
      c.pc = BitVec.ofNat 56 x.entry ∧ c.prio = x.prio ∧ c.reg 1 = x.arg ∧ c.reg 2 = wd x.fired ∧
      (c.firing.map fun y => (y.graph, y.stage)) = some (g, i) ∧ stageOf t p g i = some y ∧ y.fired = x.fired + 1 ∧ y.running = x.running + 1) ∧
    (∀ i x, b.who = .spawn i → (s.part p).spawnQ[i]? = some x → ∃ t c, exec (.spawnPlacement p) s = .next t ∧ t.ctx? s.nextId = some c ∧
      c.alive = true ∧ c.part = p ∧ c.core = b.core ∧ c.pos = b.pos ∧ c.slot = b.slot ∧ c.priv = 0 ∧ c.pc = x.entry.setWidth 56 ∧
      c.reg 1 = x.arg ∧ (t.part p).spawnQ = (s.part p).spawnQ.eraseIdx i ∧ t.mem = s.mem) ∧
    (∀ i x, b.who = .saved i → s.saved[i]? = some x → x.kept = none → imagePoisoned s x.addr (x.len / 64) = false →
      (∀ y ∈ s.ctxs, y.id ≠ x.ctx.id) → ∃ t c, exec (.contextRestore p false) s = .next t ∧ t.ctx? x.ctx.id = some c ∧ c.alive = true ∧
        c.core = b.core ∧ c.pos = b.pos ∧ c.slot = b.slot ∧ t.saved = s.saved.eraseIdx i ∧ t.mem = s.mem ∧
        (x.len ≠ 0 → c.pc = BitVec.ofNat 56 (fieldAt (peekLines s x.addr (x.len / 64)) 32 7)))) ∧
  (∀ (s : State) (p g i since : Nat) (x : Stage), stageOf s p g i = some x → x.since = some since → ∃ t y, exec (.stageAging p g i) s = .next t ∧
    stageOf t p g i = some y ∧ y.level = max x.level (if 4096 ≤ s.now - since then 4 else min 3 ((s.now - since - 1) / 1024)) ∧ t.mem = s.mem) ∧
  (∀ (s : State), s.c.alive = true → s.c.part < 64 → s.myPart.savesz ≠ 0 →
    (s.c.tst.getLsbD 2 = false → stoppable s s.c = true → (∀ x ∈ s.others, x.id ≠ s.c.id) →
      let addr := s.myPart.save + slotIndex s.c.core s.c.pos s.c.slot s.myPart.seatRecs * (s.myPart.savesz * 65536)
      ∃ t x e, exec (.preemption s.c.id) s = .next t ∧ t.ctx? s.c.id = none ∧ t.saved = s.saved ++ [x] ∧ x.part = s.c.part ∧ x.addr = addr ∧
        x.ctx.id = s.c.id ∧ x.ctx.pc = s.c.rollback.pc ∧ x.ctx.vq = [] ∧ (∀ n, x.ctx.reg n = s.c.rollback.reg n) ∧ (t.part s.c.part).evs = s.myPart.evs ++ [e] ∧
        e.kind = 1 ∧ e.who = s.c.core * 256 + s.c.slot ∧ e.data = addr) ∧
    (s.c.tst.getLsbD 2 = true → exec (.preemption s.c.id) s = .next { s with later := s.later ++ [.preemption s.c.id] })) ∧
  (∀ (s : State) (core pos : Nat) (x : Seat) (c : Ctx) (err : Option (Nat × Nat)), s.seat? core pos = some x → x.lanePart = false →
    seatChoice s core pos (headReady s) = some c → seatChoice s core pos (fun y => vectorReady s y && sideFree s x (x.laneSide y.slot)) = some c →
    s.ctx? c.id = some c →
    (s.issue = [] → ownsBeat s x = false → exec (.vectorIssue core pos err) s = .next s) ∧
    (s.issue = [] → ownsBeat s x = true → ∃ t d, exec (.vectorIssue core pos err) s = .next t ∧ t.issue = [c.id] ∧
      t.ctx? c.id = some d ∧ t.mem = s.mem ∧ (x.core, x.pos, false) ∈ t.issued ∧
      d.perr = (if (err.filter suspectOk).isSome then err else c.perr)) ∧
    (s.issue = [c.id] → ∀ e, err = some e → suspectOk e = true →
      exec (.vectorIssue core pos err) s = .next (s.withCtx c.id fun c => { c with perr := some e })) ∧
    ∀ y ∈ s.ctxs, y.core = core → y.pos = pos → headReady s y = true → y.prio ≤ c.prio ∧
      (y.prio = c.prio → c.born ≤ y.born ∧ (y.born = c.born → c.slot ≤ y.slot))) ∧
  (∀ (s : State) (core pos : Nat) (turns : List (Nat × Nat)), (∀ t ∈ s.seats, t.spans core pos = false) →
    (∀ r, rotOf s core pos = some r → ∀ t ∈ r.turns, (s.part t.1).st ≠ .live) → 2 ≤ turns.length → turns.length ≤ 4 → (turns.map Prod.fst).Nodup → (∀ t ∈ turns, t.1 < 64 ∧ (s.part t.1).st = .assigned ∧ 2 ^ 10 ≤ t.2 ∧ t.2 ≤ 2 ^ 24) →
    ∃ t r, exec (.rotationSet core pos turns) s = .next t ∧ rotOf t core pos = some r ∧ r.turns = turns ∧ r.holder = noHolder ∧ r.since = s.now) ∧
  (∀ (s : State) (core pos : Nat) (r : Rot) (slice : Nat), rotOf s core pos = some r →
    (r.turns.find? fun t => t.1 == r.holder) = some (r.holder, slice) →
    (s.now < r.since + slice → exec (.sliceEnd core pos) s = .next s) ∧
    (r.since + slice ≤ s.now → (∀ c ∈ s.ctxs, c.core = core → c.pos = pos → stoppableWhole s c = true) →
      exec (.sliceEnd core pos) s = .next (nextTenant (takeSeat s core pos) r))) ∧
  (∀ (s : State) (cl : Nat), cl < 16 → (∀ c ∈ s.ctxs, c.core / 4 ≠ cl ∨ 64 ≤ c.core) → ∃ t, exec (.clusterRetirement cl) s = .next t ∧
    t.ncl = wd ((s.ncl.toNat / 256 + 1) % 256 * 256 + (s.ncl.toNat % 32 - 1)) ∧
    t.seats = s.seats.filter (fun x => x.core / 4 != cl || decide (64 ≤ x.core)) ∧ t.mem = s.mem) ∧
  ∀ (s : State) (core pos dst : Nat) (x : Seat), pos < 4 → (∀ t ∈ s.seats, t.spans core pos = false ∧ (t.core = core → pos ∉ t.lent)) →
    (∀ r ∈ s.rots, r.core = core → r.pos ≠ pos) → s.seat? core dst = some x → (s.part x.part).loose = true → ∃ t y, exec (.beatLend core pos dst) s = .next t ∧ t.seat? core dst = some y ∧
      y.lent = x.lent ++ [pos]

/-- Major 0x13, with the answers of a chain's home, and the stream registers of major 0x1E. -/
def Obligations.VectorLength : Prop :=
  (∀ (s : State) (f : H2), s.c.vill = false → f.d.toNat < 16 →
    (∃ t, exec (.qset f) s = .next t ∧ Retired s t ∧ t.mem = s.mem ∧ (∀ n, t.reg n = s.reg n) ∧
      (∀ n, n ≠ f.d.toNat → t.c.stream n = s.c.stream n) ∧ t.c.stream f.d.toNat =
        { base := s.reg f.a.toNat, stride := s.reg f.b.toNat, pos := 0, valid := true, stale := false, held := [], ahead := [] }) ∧
    (∃ t, exec (.qsetImm f) s = .next t ∧ Retired s t ∧ t.mem = s.mem ∧ (∀ n, n ≠ f.d.toNat → t.c.stream n = s.c.stream n) ∧
      (t.c.stream f.d.toNat).base = s.reg f.a.toNat ∧ (t.c.stream f.d.toNat).stride.toInt = f.imm.toInt ∧
      (t.c.stream f.d.toNat).pos = 0 ∧ (t.c.stream f.d.toNat).valid = true) ∧
    ((s.c.stream f.d.toNat).valid = true → ∃ t, exec (.qadv f) s = .next t ∧ Retired s t ∧ t.mem = s.mem ∧
      (∀ n, n ≠ f.d.toNat → t.c.stream n = s.c.stream n) ∧
      (t.c.stream f.d.toNat).pos.toNat = ((s.c.stream f.d.toNat).pos.toNat + (s.reg f.a.toNat).toNat) % 2 ^ 48 ∧
      (t.c.stream f.d.toNat).base = (s.c.stream f.d.toNat).base ∧ (t.c.stream f.d.toNat).valid = true) ∧
    ((s.c.stream f.d.toNat).valid = false → Traps (.qadv f) s s 0x08 (wd f.d.toNat))) ∧
  (∀ (s : State) (f : H2), s.c.vill = false →
    let q := s.c.stream f.a.toNat
    (q.valid = true → Sets (.qinfoB f) s f.d q.base ∧ Sets (.qinfoS f) s f.d q.stride ∧
      ∃ t, exec (.qinfo f) s = .next t ∧ Retired s t ∧ t.mem = s.mem ∧ (∀ n, n ≠ f.d.toNat → t.reg n = s.reg n) ∧ (f.d ≠ 0 →
        (t.reg f.d.toNat).getLsbD 63 = true ∧ (t.reg f.d.toNat).getLsbD 62 = q.stale ∧ (t.reg f.d.toNat).toNat % 2 ^ 48 = q.pos.toNat ∧
        (t.reg f.d.toNat).toNat / 2 ^ 58 % 16 = min 8 q.held.length)) ∧
    (q.valid = false → ∀ i ∈ [Instr.qinfo f, .qinfoB f, .qinfoS f], Traps i s s 0x08 (wd f.a.toNat))) ∧
  (∀ (s : State) (f : H3), s.vlmax < 2 ^ 22 →
    let a := s.reg f.a.toNat
    let g := min a.toNat s.vlmax
    ∃ t, exec (.vsetl f) s = .next t ∧ Retired s t ∧ t.c.avl = a ∧ t.c.vlen = g ∧ t.c.chv = false ∧ (f.d ≠ 0 → t.reg f.d.toNat = wd g) ∧
      (∀ n, n ≠ f.d.toNat → t.reg n = s.reg n) ∧ t.c.vcfg = s.c.vcfg ∧ t.c.v = s.c.v ∧ t.mem = s.mem) ∧
  (∀ (s : State) (f : H3), s.c.chv = false → s.vlmax < 2 ^ 22 →
    let avl := s.c.avl - wd s.c.vlen
    let g := min avl.toNat s.vlmax
    ∃ t, exec (.vnext f) s = .next t ∧ Retired s t ∧ t.c.avl = avl ∧ t.c.vlen = g ∧ t.c.chv = false ∧ (f.d ≠ 0 → t.reg f.d.toNat = wd g) ∧
      (∀ n, n ≠ f.d.toNat → t.reg n = s.reg n) ∧ t.mem = s.mem) ∧
  (∀ (s : State) (f : H3) (c : Chain),
    let n := f.imm.toNat % 256
    let a := s.reg f.a.toNat
    let dl := (s.reg f.dl.toNat).toNat
    (chainOf s s.c.part n = some c → s.uns = false ∨ c.reach s < 4 → dl ≤ s.tick.toNat + s.myPart.whz.toNat →
      Asks (.vsetlChained f) s s c.home (.chain s.c.part n) (.chRead (min a.toNat s.vlmax) s.c.es.toNat dl)) ∧
    (chainOf s s.c.part n = some c → s.uns = true → 4 ≤ c.reach s → dl ≤ s.tick.toNat + s.myPart.whz.toNat →
      ∃ t, exec (.vsetlChained f) s = .next t ∧ Retired s t ∧ t.c.ws = wd wsNOVERDICT ∧ t.c.avl = a ∧ t.c.vlen = 0 ∧
        (f.d ≠ 0 → t.reg f.d.toNat = 0) ∧ t.mem = s.mem) ∧
    (chainOf s s.c.part n = none → dl ≤ s.tick.toNat + s.myPart.whz.toNat → Traps (.vsetlChained f) s s 0x08 (wd n)) ∧
    (s.tick.toNat + s.myPart.whz.toNat < dl → Traps (.vsetlChained f) s s 0x09 (wd dl)) ∧
    (s.c.chv = true → chainOf s s.c.part s.c.chn = some c → s.uns = false ∨ c.reach s < 4 →
      Asks (.vnext f) s s c.home (.chain s.c.part s.c.chn) (.chRead 0 s.c.es.toNat s.now)) ∧
    (s.c.chv = true → chainOf s s.c.part s.c.chn = none → Traps (.vnext f) s s 0x08 (wd s.c.chn))) ∧
  (∀ (s : State) (w : Wait) (r : Ans) (d chn : Nat) (next : Bool) (len : Word), s.c.alive = true → s.c.line.isSome → s.c.wait = some w → w.stamp = r.stamp →
    w.obj.isSome = true → w.op = .grant d next len chn → chn < 64 → d < 32 → s.vlmax < 2 ^ 22 → r ∈ s.answers → r.ctx = s.c.id → r.ctx ≤ engineId → r.arrive ≤ s.tick.toNat →
    r.trap = none → r.code < 8 → redGroup s r.ctx r.stamp = none →
    let avl := if next then s.c.avl - wd s.c.vlen else len
    let es := if next then s.c.es + wd s.c.vlen else s.c.es
    let g := if r.code = wsNOVERDICT ∨ r.code = wsGONE then 0 else min (min avl.toNat s.vlmax) (r.r1.toNat - es.toNat)
    ∃ t, exec (.verdictReceived r) s = .next t ∧ t.c.pc = s.c.nextPc ∧ t.c.wait = none ∧ t.c.ws = wd r.code ∧ t.c.avl = avl ∧ t.c.vlen = g ∧
      (d ≠ 0 → t.reg d = wd g) ∧ (∀ n, n ≠ d → t.reg n = s.reg n) ∧ t.c.chv = (!next || decide (avl ≠ 0)) ∧
      (s.c.resuming = false → t.c.es = if next = true ∧ avl = 0 then 0 else es)) ∧
  (∀ (s : State) (f : H3), ∃ t, exec (.vcfg f) s = .next t ∧ Retired s t ∧ t.c.et = f.ty.toNat ∧ t.c.grp = 2 ^ (f.imm.toNat % 4) ∧
    t.c.space = f.imm.toNat / 4 % 8 ∧ t.c.vill = false ∧ t.c.vlen = min s.c.vlen t.vlmax ∧ (∀ n, t.reg n = s.reg n) ∧ t.mem = s.mem) ∧
  (∀ (s : State) (f : H3), s.vlmax < 2 ^ 22 → s.lanes < 2 ^ 12 → s.dlen < 2 ^ 8 → s.c.gang.length < 8 →
    Sets (.vlanes f) s f.d (wd (s.vlmax + s.lanes * 2 ^ 32 + s.dlen * 2 ^ 48 + s.c.gang.length * 2 ^ 60))) ∧
  ∀ (s : State) (f : H3),
    let n := (s.reg f.b.toNat).toNat
    let dl := (s.reg f.dl.toNat).toNat
    let seats := gangSeats (s.reg f.a.toNat) n
    let before := { detachSeats s s.c.id with c := { s.c with gang := [] } }
    (s.tick.toNat + s.myPart.whz.toNat < dl → Traps (.vgang f) s s 0x09 (wd dl)) ∧
    (dl ≤ s.tick.toNat + s.myPart.whz.toNat →
      (7 < n ∨ ¬seats.Nodup ∨ (∃ x ∈ seats, gangAllowed s x = false) → Traps (.vgang f) s s 0x08 (s.reg f.a.toNat)) ∧
      (n ≤ 7 → seats.Nodup → (∀ x ∈ seats, gangAllowed s x = true) →
        ((∀ x ∈ seats, gangFree before x = true) → ∃ t, exec (.vgang f) s = .next t ∧ Retired s t ∧ t.c.gang = seats ∧ t.c.ws = 0 ∧
          t.c.vlen = 0 ∧ (f.d ≠ 0 → t.reg f.d.toNat = 0) ∧ ∀ x ∈ seats, (t.seat? x.1 x.2).map Seat.gangOf = some (some s.c.id)) ∧
        ((∃ x ∈ seats, gangFree before x = false) →
          (dl ≤ s.tick.toNat → ∃ t, exec (.vgang f) s = .next t ∧ Retired s t ∧ t.c.gang = [] ∧ t.c.ws = 1 ∧ t.c.vlen = 0 ∧
            (f.d ≠ 0 → ∀ j, (t.reg f.d.toNat).getLsbD j = (seats[j]?.any fun x => !gangFree before x))) ∧
          (s.tick.toNat < dl → ∃ t, exec (.vgang f) s = .next t ∧ t.c.pc = s.c.pc ∧ t.c.gang = [] ∧ t.c.wait.isSome = true))))

/-- Majors 0x14 and the integer forms of 0x16. -/
def Obligations.VectorIntegers : Prop :=
  ∀ (s : State) (f : H2), VecForm s f.ty ([f.d, f.a] ++ if f.sub = 0 then [f.b] else []) → tyFloat f.ty.toNat = false →
    VecSpace s (tyWidth f.ty.toNat) s.c.grp →
    let w := tyWidth f.ty.toNat
    let does := fun (i : Instr) (P : Nat → Nat → Nat → Nat → Prop) => Maps i s w s.c.grp f.d.toNat f.mask
      (fun e x => P (s.elem w f.a.toNat e) (s.operandB f w e) (s.elem w f.d.toNat e) x) fun _ => 0
    (∀ p ∈ [(Instr.vadd f, 0), (.vsub f, 1), (.vrsub f, 2), (.vand f, 3), (.vor f, 4), (.vxor f, 5), (.vandn f, 6), (.vshl f, 7), (.vshr f, 8),
        (.vsra f, 9), (.vmin f, 10), (.vmax f, 11), (.vmul f, 12), (.vmulh f, 13), (.vadds f, 14), (.vsubs f, 15)],
      does p.1 fun a b _ x => vecSays p.2 f.ty.toNat a b x) ∧
    does (.vmac f) (fun a b c x => x = (a * b + c) % 2 ^ w) ∧ does (.vnmsc f) fun a b c x => (x : Int) = ((c : Int) - a * b) % 2 ^ w

/-- Majors 0x15, 0x16 and 0x19 on floating TYPEs. -/
def Obligations.VectorFloats : Prop :=
  (∀ (s : State) (f : H2), VecForm s f.ty ([f.d, f.a] ++ if f.sub = 0 then [f.b] else []) → tyFloat f.ty.toNat = true →
    VecSpace s (tyWidth f.ty.toNat) s.c.grp →
    let w := tyWidth f.ty.toNat
    let t := tyFmt f.ty.toNat
    let does := fun (i : Instr) (r : Nat → Nat → Nat → Nat × Nat) =>
      let at_ := fun e => r (s.elem w f.a.toNat e) (s.operandB f w e) (s.elem w f.d.toNat e)
      Maps i s w s.c.grp f.d.toNat f.mask (fun e x => x = (at_ e).1 % 2 ^ w) fun e => (at_ e).2
    does (.vfadd f) (fun a b _ => fAdd t s.rm a b) ∧ does (.vfsub f) (fun a b _ => fSub t s.rm a b) ∧
    does (.vfmul f) (fun a b _ => fMul t s.rm a b) ∧ does (.vfdiv f) (fun a b _ => fDiv t s.rm a b) ∧
    does (.vfmin f) (fun a b _ => fMinMax t false a b) ∧ does (.vfmax f) (fun a b _ => fMinMax t true a b) ∧
    does (.vfsgn f) (fun a b _ => (a % 2 ^ (w - 1) + b / 2 ^ (w - 1) * 2 ^ (w - 1), 0)) ∧
    does (.vfma f) (fun a b c => fFma t s.rm false false a b c) ∧ does (.vfms f) (fun a b c => fFma t s.rm false true a b c) ∧
    does (.vfnma f) (fun a b c => fFma t s.rm true false a b c) ∧ does (.vfnms f) (fun a b c => fFma t s.rm true true a b c)) ∧
  (∀ (s : State) (f : H2), VecForm s f.ty [f.d, f.a] → tyFloat f.ty.toNat = true → VecSpace s (tyWidth f.ty.toNat) s.c.grp →
    let w := tyWidth f.ty.toNat
    let t := tyFmt f.ty.toNat
    let does := fun (i : Instr) (r : Nat → Nat × Nat) =>
      Maps i s w s.c.grp f.d.toNat f.mask (fun e x => x = (r (s.elem w f.a.toNat e)).1 % 2 ^ w) fun e => (r (s.elem w f.a.toNat e)).2
    does (.vfsqrt f) (fSqrt t s.rm) ∧ does (.vfabs f) (fun a => (a % 2 ^ (w - 1), 0)) ∧ does (.vfneg f) (fun a => (a ^^^ 2 ^ (w - 1), 0)) ∧
    does (.vfrcp f) (fnRcp t) ∧ does (.vfrsq f) (fnRsq t) ∧ does (.vfexp2 f) (fnExp2 t) ∧ does (.vflog2 f) (fnLog2 t) ∧
    does (.vfexp f) (fnExp t) ∧ does (.vftanh f) (fnTanh t) ∧ does (.vfsig f) (fnSig t)) ∧
  -- 1 / 4, 1 / √4, 2³, log₂ 8, e⁰, tanh 0, 1 / (1 + e⁰), √9, and the poles
  fnRcp fp32 0x40800000 = (0x3E800000, 0) ∧ fnRsq fp32 0x40800000 = (0x3F000000, 0) ∧ fnExp2 fp32 0x40400000 = (0x41000000, 0) ∧
  fnLog2 fp32 0x41000000 = (0x40400000, 0) ∧ fnExp fp32 0 = (0x3F800000, 0) ∧ fnTanh fp32 0x80000000 = (0x80000000, 0) ∧
  fnSig fp32 0 = (0x3F000000, 0) ∧ fSqrt fp32 0 0x41100000 = (0x40400000, 0) ∧ fnLog2 fp32 0 = (0xFF800000, fDZ) ∧
  fnRsq fp32 0xBF800000 = (0x7FC00000, fNV)

/-- The compares of major 0x17 and major 0x1D. -/
def Obligations.VectorCompares : Prop :=
  (∀ (s : State) (f : H2), VecForm s f.ty ([f.a] ++ if f.sub = 0 then [f.b] else []) → f.d.toNat < 8 →
    let w := tyWidth f.ty.toNat
    let a := fun e => s.elem w f.a.toNat e
    let b := fun e => s.operandB f w e
    let does := fun (i : Instr) (ints : Int → Int → Bool) (floats : Option Ordering → Bool) =>
      (tyFloat f.ty.toNat = false → MapsMask i s f.d.toNat f.mask fun e => ints (tyInt f.ty.toNat (a e)) (tyInt f.ty.toNat (b e))) ∧
      (tyFloat f.ty.toNat = true → MapsMask i s f.d.toNat f.mask fun e =>
        floats (cmpV (fDec (tyFmt f.ty.toNat) (a e)) (fDec (tyFmt f.ty.toNat) (b e))))
    does (.vcmpEq f) (fun x y => decide (x = y)) (fun o => o == some .eq) ∧ does (.vcmpNe f) (fun x y => decide (x ≠ y)) (fun o => o != some .eq) ∧
    does (.vcmpLt f) (fun x y => decide (x < y)) (fun o => o == some .lt) ∧
    does (.vcmpLe f) (fun x y => decide (x ≤ y)) (fun o => o == some .lt || o == some .eq) ∧
    does (.vcmpGt f) (fun x y => decide (y < x)) (fun o => o == some .gt) ∧
    does (.vcmpGe f) (fun x y => decide (y ≤ x)) (fun o => o == some .gt || o == some .eq) ∧
    does (.vcmpUn f) (fun _ _ => false) (fun o => o.isNone)) ∧
  ∀ (s : State) (f : H1), s.c.vill = false → f.d.toNat < 8 →
    let a := fun e => (s.c.mask f.a.toNat).testBit e
    let b := fun e => (s.c.mask f.b.toNat).testBit e
    let does := fun (i : Instr) (P : Nat → Bool) => MapsMask i s f.d.toNat 0 P
    does (.mand f) (fun e => a e && b e) ∧ does (.mor f) (fun e => a e || b e) ∧ does (.mxor f) (fun e => a e != b e) ∧
    does (.mandn f) (fun e => a e && !b e) ∧ does (.mnot f) (fun e => !a e) ∧ does (.mset f) (fun _ => true) ∧
    does (.mclr f) (fun _ => false) ∧ does (.mmov f) a ∧
    Sets (.mpop f) s f.d (wd ((List.range s.c.vlen).filter a).length) ∧
    SetsSome (.mfirst f) s f.d fun x => (∀ e < s.c.vlen, a e = false) ∧ x = ones ∨
      x.toNat < s.c.vlen ∧ a x.toNat = true ∧ ∀ e < x.toNat, a e = false

/-- Major 0x18. -/
def Obligations.VectorConversions : Prop :=
  ∀ (s : State) (f : H2), VecReady s →
    let t := f.ty.toNat
    let src := f.imm.toNat % 16
    let k := f.imm.toNat / 16
    let fm := s.c.f[k]?.getD 0
    let n := fun w => groupRegs s.c.grp w s.c.ew
    let n8 := n 8
    let ws := tyWidth src
    let wt := tyWidth t
    let x := fun e => s.elem ws f.a.toNat e
    let scl := fun (e : Nat) => if hasScl fm then scaleExp (s.elem 8 f.b.toNat (e / 32)) else some 0
    (max wt ws = s.c.ew → groupOk (n wt) f.d.toNat = true → groupOk (n ws) f.a.toNat = true →
      (wt = ws ∨ overlaps f.d.toNat (n wt) f.a.toNat (n ws) = false) → VecSpace s wt (n wt) →
      Maps (.vcvt f) s wt (n wt) f.d.toNat f.mask (fun e y => y = (convTy t src s.rm (x e)).1 % 2 ^ wt) fun e => (convTy t src s.rm (x e)).2) ∧
    (fmtValid fm = true → fmtCLS fm < 2 → wt = s.c.ew → VecSpace s wt (n wt) → hasScl fm = true ∨ f.b = 0 →
      groupsOk [(f.d.toNat, n wt)] ((f.a.toNat, n8) :: (if hasEsc fm then [(f.a.toNat + n8, n8)] else []) ++
        if hasScl fm then [(f.b.toNat, n8)] else []) = true →
      let y := fun e => dequantVal s fm f.a.toNat (f.a.toNat + n8) e
      let r := fun e => dequantRound (tyFmt t) s.rm ((y e).1.scaled (scl e))
      Maps (.vdq f) s wt (n wt) f.d.toNat f.mask (fun e z => z = (r e).1 % 2 ^ wt) fun e => (r e).2 ||| (y e).2) ∧
    (fmtValid fm = true → fmtCLS fm < 2 → max ws 8 = s.c.ew → hasEsc fm = false → s.rm ≠ 4 → VecSpace s 8 n8 → hasScl fm = true ∨ f.b = 0 →
      groupsOk [(f.d.toNat, n8)] ((f.a.toNat, n ws) :: if hasScl fm then [(f.b.toNat, n8)] else []) = true →
      let y := fun e => (valueTy src (x e)).scaled ((scl e).map fun z => -z)
      let r := fun e => if fmtCLS fm = 1 then convNarrowInt fm s.rm 0 (y e) else convNarrow fm s.rm 0 false (y e)
      Maps (.vqnt f) s 8 n8 f.d.toNat f.mask (fun e z => z = (r e).code % 2 ^ 8) fun e => (r e).flags) ∧
    (fmtValid fm = true → fmtCLS fm = 0 → ws = s.c.ew → VecSpace s 8 n8 → groupsOk [(f.d.toNat, n8)] [(f.a.toNat, n ws)] = true →
      ∃ u, exec (.vbsc f) s = .next u ∧ Retired s u ∧ u.mem = s.mem ∧ (∀ r, u.reg r = s.reg r) ∧
        ∀ j, 32 * j < s.c.vlen →
          let es := s.c.actives f.mask (32 * j) (min s.c.vlen (32 * j + 32))
          (es ≠ [] → u.elem 8 f.d.toNat j = scaleCode fm (es.map fun e => valueTy src (x e)) % 2 ^ 8) ∧
          (es = [] → u.elem 8 f.d.toNat j = s.elem 8 f.d.toNat j)) ∧
    (fmtValid fm = false ∨ 2 ≤ fmtCLS fm → ∀ i ∈ [Instr.vdq f, .vqnt f, .vbsc f], Traps i s s 0x01 (headTval s)) ∧
    (s.c.ew ≠ max wt ws → Traps (.vcvt f) s s 0x01 (headTval s))

/-- Major 0x1A. -/
def Obligations.VectorReductions : Prop :=
  ∀ (s : State) (f : H2), VecForm s f.ty [f.d, f.a, f.b] → VecSpace s (tyWidth f.ty.toNat) s.c.grp →
    let ty := f.ty.toNat
    let w := tyWidth ty
    let r0 := s.elem w f.b.toNat 0
    let xs := (s.c.actives f.mask 0 s.c.vlen).map fun e => s.elem w f.a.toNat e
    let leaves := (List.range s.c.vlen).map fun e => if s.c.active f.mask e then some (s.elem w f.a.toNat e) else none
    (∀ (tree : Bool), ∀ p ∈ [(Instr.vrsum f tree, 0), (.vrmin f tree, 1), (.vrmax f tree, 2), (.vrand f tree, 3), (.vror f tree, 4),
        (.vrxor f tree, 5)],
      let o := redOp p.2 ty s.rm
      let r := if tree then redTreeOf o r0 leaves else redOrdered o r0 xs
      ∃ t, exec p.1 s = .next t ∧ Retired s t ∧ t.mem = s.mem ∧ (∀ n, t.reg n = s.reg n) ∧ t.c.m = s.c.m ∧
        (s.c.vlen = 0 → t.c.v = s.c.v ∧ t.c.fps = s.c.fps) ∧
        (0 < s.c.vlen → t.elem w f.d.toNat 0 = r.1 % 2 ^ w ∧ t.c.fps = s.c.fps ||| wd (r.2 % 64) ∧
          (p.2 = 0 → tyFloat ty = false → t.elem w f.d.toNat 0 = (r0 + xs.sum) % 2 ^ w)) ∧
        ∀ e, 0 < e → e < s.groupCap w s.c.grp → t.elem w f.d.toNat e = s.elem w f.d.toNat e) ∧
    (f.d ≠ f.a → f.d ≠ f.b → ∀ p ∈ [(Instr.vscanAdd f, 0), (.vscanMin f, 1), (.vscanMax f, 2)],
      let o := redOp p.2 ty s.rm
      let upto := fun e => (s.c.actives f.mask 0 (e + 1)).foldl (fun x i => (o x (s.elem w f.a.toNat i)).1) r0
      ∃ t, exec p.1 s = .next t ∧ Retired s t ∧ t.mem = s.mem ∧ (∀ n, t.reg n = s.reg n) ∧
        (∀ e < s.c.vlen, s.c.active f.mask e = true → t.elem w f.d.toNat e = upto e % 2 ^ w) ∧
        ∀ e < s.groupCap w s.c.grp, s.c.vlen ≤ e ∨ s.c.active f.mask e = false → t.elem w f.d.toNat e = s.elem w f.d.toNat e) ∧
    (f.d = f.a ∨ f.d = f.b → ∀ i ∈ [Instr.vscanAdd f, .vscanMin f, .vscanMax f], Traps i s s 0x01 (headTval s))

/-- Majors 0x1B and 0x1C. -/
def Obligations.VectorMoves : Prop :=
  ∀ (s : State) (f : H2),
    let w := tyWidth f.ty.toNat
    let vl := s.c.vlen
    let a := fun e => s.elem w f.a.toNat e
    let by_ := if f.sub = 1 then (s.reg f.b.toNat).toNat else f.imm.toNat
    let act := (List.range vl).filter fun e => s.c.active f.mask e
    VecSpace s w s.c.grp →
    (VecForm s f.ty [f.d, f.a] → f.d ≠ f.a → s.segments = [{ lo := 0, n := s.lanes }] →
      let does := fun (i : Instr) (P : Nat → Nat → Prop) => Maps i s w s.c.grp f.d.toNat f.mask P fun _ => 0
      (VecForm s f.ty [f.b] → f.d ≠ f.b → does (.vperm f) (fun e x => x = if s.elem w f.b.toNat e < vl then a (s.elem w f.b.toNat e) else 0)) ∧
      does (.vslup f) (fun e x => x = if by_ ≤ e then a (e - by_) else s.elem w f.d.toNat e) ∧
      does (.vsldn f) (fun e x => x = if e + by_ < vl then a (e + by_) else 0) ∧
      does (.vexpd f) (fun e x => x = a (act.findIdx (· == e))) ∧ does (.vxchg f) (fun e x => x = a e) ∧
      ∃ t, exec (.vcomp f) s = .next t ∧ Retired s t ∧ t.mem = s.mem ∧ (∀ r, t.reg r = s.reg r) ∧
        (∀ e < act.length, t.elem w f.d.toNat e = a (act.getD e 0)) ∧
        ∀ e < s.groupCap w s.c.grp, act.length ≤ e → t.elem w f.d.toNat e = s.elem w f.d.toNat e) ∧
    (∀ n, VecForm s f.ty [f.d, f.a] → f.d ≠ f.a → 0 < n → s.lanes = 2 * n → s.segments = [{ lo := 0, n := n }, { lo := n, n := n }] → vl % (2 * n) = 0 →
      Maps (.vxchg f) s w s.c.grp f.d.toNat f.mask (fun e x => x = if e % (2 * n) < n then a (e + n) else a (e - n)) fun _ => 0) ∧
    (VecForm s f.ty [f.d] →
      let does := fun (i : Instr) (mask : BitVec 4) (P : Nat → Nat → Prop) => Maps i s w s.c.grp f.d.toNat mask P fun _ => 0
      (VecForm s f.ty [f.a] → does (.vmov f) f.mask fun e x => x = a e) ∧
      does (.vbcast f) f.mask (fun _ x => x = (s.reg f.a.toNat).toNat % 2 ^ w) ∧
      does (.vbcastImm f) f.mask (fun _ x => (x : Int) = f.imm.toInt % 2 ^ w) ∧ does (.vidx f) f.mask (fun e x => x = e % 2 ^ w) ∧
      does (.vm2v f) f.mask (fun e x => x = ((s.c.mask f.a.toNat).testBit e).toNat) ∧
      (VecForm s f.ty [f.a, f.b] → does (.vmerge f) 0 fun e x => x = if s.c.active f.mask e then a e else s.elem w f.b.toNat e) ∧
      ∃ t, exec (.vsetx f) s = .next t ∧ Retired s t ∧ t.mem = s.mem ∧ ∀ e < s.groupCap w s.c.grp, t.elem w f.d.toNat e =
        if e = (s.reg f.b.toNat).toNat ∧ e < vl then (s.reg f.a.toNat).toNat % 2 ^ w else s.elem w f.d.toNat e) ∧
    (VecForm s f.ty [f.a] → ∃ t, exec (.vgetx f) s = .next t ∧ Retired s t ∧ t.mem = s.mem ∧ t.c.v = s.c.v ∧ (f.d ≠ 0 → t.reg f.d.toNat =
      if (s.reg f.b.toNat).toNat < vl then extendTy f.ty.toNat (a (s.reg f.b.toNat).toNat) else 0))

/-- The checks of R307, and R453. -/
def Obligations.VectorTraps : Prop :=
  (∀ (s : State) (f : H2) (g : H1) (tree : Bool),
    let two := [Instr.vadd f, .vsub f, .vrsub f, .vand f, .vor f, .vxor f, .vandn f, .vshl f, .vshr f, .vsra f, .vmin f, .vmax f, .vmul f, .vmulh f,
      .vadds f, .vsubs f, .vfadd f, .vfsub f, .vfmul f, .vfdiv f, .vfmin f, .vfmax f, .vfsqrt f, .vfabs f, .vfneg f, .vfsgn f, .vfma f, .vfms f,
      .vfnma f, .vfnms f, .vmac f, .vnmsc f, .vfrcp f, .vfrsq f, .vfexp2 f, .vflog2 f, .vfexp f, .vftanh f, .vfsig f, .vmov f, .vbcast f,
      .vbcastImm f, .vidx f, .vm2v f, .vperm f, .vslup f, .vsldn f, .vcomp f, .vexpd f, .vxchg f, .vrsum f tree, .vrmin f tree,
      .vrmax f tree, .vrand f tree, .vror f tree, .vrxor f tree, .vscanAdd f, .vscanMin f, .vscanMax f, .vmerge f, .vsetx f]
    (s.c.vill = true → (∀ i ∈ two ++ [Instr.vcmpEq f, .vcmpNe f, .vcmpLt f, .vcmpLe f, .vcmpGt f, .vcmpGe f, .vcmpUn f, .vcvt f, .vgetx f,
        .vld f, .vlds f, .vpf f, .vst f, .vsts f, .vldx f, .vstx f, .vldl f, .vldlIndexed f, .vstl f, .vstlIndexed f, .qset f, .qsetImm f,
        .qadv f, .qinfo f, .qinfoB f, .qinfoS f], Traps i s s 0x01 (headTval s)) ∧
      ∀ i ∈ [Instr.mand g, .mor g, .mxor g, .mandn g, .mnot g, .mset g, .mclr g, .mmov g, .mpop g, .mfirst g], Traps i s s 0x01 (headTval s)) ∧
    (tyWidth f.ty.toNat ≠ s.c.ew ∨ f.d.toNat % s.c.grp ≠ 0 ∨ 32 < f.d.toNat + s.c.grp → ∀ i ∈ two, Traps i s s 0x01 (headTval s))) ∧
  ∀ (s : State) (f : H2) (g tv : Nat), s.c.vill = false → s.c.resuming = false → (∀ e ∈ s.c.prog, e.ord ≠ 0) → s.c.stop = none →
    s.c.perr = some (g, tv) → g / 256 * 256 < s.c.vlen →
    tyWidth f.ty.toNat = s.c.ew → (∀ r ∈ [f.d, f.a, f.b], r.toNat % s.c.grp = 0 ∧ r.toNat + s.c.grp ≤ 32) → s.c.tst.getLsbD 2 = false →
    ∀ i ∈ [Instr.vadd f, .vmul f, .vfadd f, .vfma f], ∃ t e, exec i s = .next t ∧ t.c.cause = 0x0B ∧ t.c.tval = wd tv ∧ t.c.es = wd (g / 256 * 256) ∧
      t.c.esk = 4 ∧ t.c.epc = s.c.pc.setWidth 64 ∧ t.c.perr = none ∧ t.mem = s.mem ∧ (t.part 0).evs = (s.part 0).evs ++ [e] ∧ e.kind = 7 ∧
      e.who = s.c.place ∧ e.data = tv

/-- Majors 0x1F to 0x24: the run of every form over its elements. -/
def Obligations.VectorMemory : Prop :=
  ∀ (s : State) (f : H2), s.c.hold = none → s.c.stop = none → s.c.stopping = none → s.c.perr = none → s.c.vill = false →
    tyWidth f.ty.toNat = s.c.ew →
    let w := s.c.ew / 8
    let g := s.c.grp
    let ok := fun (l : List (BitVec 5 × Nat)) => ∀ x ∈ l, x.1.toNat % g = 0 ∧ x.1.toNat + x.2 ≤ 32
    let q := { s.c.stream f.a.toNat with pos := s.c.capPos.getD (s.c.stream f.a.toNat).pos }
    let es := s.c.actives f.mask s.c.startElem s.c.vlen
    let runs := fun (v : State) (i : Instr) (p : VPlan) (pos : Option (BitVec 48)) (o : State × List Nat) (fin : State → State) =>
      let all := es.flatMap p.accesses
      let fault := fun (x : Acc × Elt) => (eltFault v x.1 p.w x.2).map fun c => (c, x.2.tv)
      let backs := if v.c.resuming then [] else (v.c.entry0.map Prog.backs).getD []
      let r := vecElems p (o.1.setHold fun h => { h with pos := pos, backs := h.backs ++ backs }) o.2
      (∀ c tv, meetsSO v p all = true → all.findSome? fault = some (c, tv) →
        exec i s = .next (markSO true (trapAt (checkedFault v tv all) c (wd tv)))) ∧
      (meetsSO v p all = false ∨ all.findSome? fault = none →
        (∀ u, r = .done u → exec i s = .next (vecMemEnd u fin)) ∧
        (∀ c k tv rest u, r = .fault c k tv rest u → exec i s = .next (markSO (meetsSO v p all) (vecStop p u c k tv rest))) ∧
        ∀ l u, r = .hold l u → exec i s = .next (u.setHold fun h => { h with todo := some l }))
    let adv := advanceStream f.a.toNat q.pos s.c.vlen
    let index := fun (v : State) (e : Nat) => [indexElt v q f.b.toNat e]
    let field := fun (n e : Nat) => (List.range n).map (streamElt s f.a.toNat q w e)
    (q.valid = true →
      (ok [(f.d, g)] → runs s (.vld f) (loadPlan s w f.d.toNat (field 1)) (some q.pos) (s, es) adv) ∧
      (ok [(f.d, f.imm.toNat * g)] → runs s (.vlds f) (loadPlan s w f.d.toNat (field f.imm.toNat)) (some q.pos) (s, es) adv) ∧
      (ok [(f.b, g)] → let p := storePlan s f.mask w f.b.toNat (field 1); runs s (.vst f) p (some q.pos) (uoOrder p s es) adv) ∧
      (ok [(f.b, f.imm.toNat * g)] → let p := storePlan s f.mask w f.b.toNat (field f.imm.toNat)
        runs s (.vsts f) p (some q.pos) (uoOrder p s es) adv) ∧
      (ok [(f.d, g), (f.b, g)] → runs s (.vldx f) (loadPlan s w f.d.toNat (index s)) none (s, es) id ∧
        let p := storePlan s f.mask w f.d.toNat (index s)
        runs s (.vstx f) p none (uoOrder p s es) id) ∧
      ∀ v, (2 ≤ f.imm.toNat / 64 % 4 → fillsOut s = false ∧ v = releaseAt s f.sub.toNat) → (f.imm.toNat / 64 % 4 < 2 → v = s) →
        (∀ p ∈ [(Instr.vamoAdd f, 0), (.vamoFadd f, 1), (.vamoAnd f, 2), (.vamoOr f, 3), (.vamoXor f, 4), (.vamoMin f, 5), (.vamoMax f, 6),
            (.vamoSwap f, 7)], ok [(f.d, g), (f.b, g)] → f.d ≠ f.b →
          let a := atomicPlan v f p.2 f.d.toNat true (index v)
          runs v p.1 a none (v, es) (acquireElts f a v)) ∧
        (let n : BitVec 5 := f.imm.setWidth 5
         ok [(f.d, g), (f.b, g), (n, g)] → [f.d, f.b, n].Nodup →
          let a := atomicPlan v f 8 n.toNat true (index v)
          runs v (.vamoCas f) a none (v, es) (acquireElts f a v)) ∧
        (∀ p ∈ [(Instr.vredAddIndexed f, 0), (.vredFaddIndexed f, 1), (.vredAndIndexed f, 2), (.vredOrIndexed f, 3), (.vredXorIndexed f, 4),
            (.vredMinIndexed f, 5), (.vredMaxIndexed f, 6)], ok [(f.d, g), (f.b, g)] →
          let a := atomicPlan v f p.2 f.d.toNat false (index v)
          runs v p.1 a none (redOrder p.2 a v es) id) ∧
        ∀ p ∈ [(Instr.vredAddStream f, 0), (.vredFaddStream f, 1), (.vredAndStream f, 2), (.vredOrStream f, 3), (.vredXorStream f, 4),
            (.vredMinStream f, 5), (.vredMaxStream f, 6)], ok [(f.d, g)] →
          let a := atomicPlan v f p.2 f.d.toNat false fun e => [streamElt v f.a.toNat q w e 0]
          runs v p.1 a (some q.pos) (redOrder p.2 a v es) adv) ∧
    (ok [(f.d, g)] → runs s (.vldl f) (loadPlan s w f.d.toNat fun e => [laneOffset s f false e]) none (s, es) id ∧
      runs s (.vstl f) (storePlan s f.mask w f.d.toNat fun e => [laneOffset s f false e]) none (s, es) id ∧
      (ok [(f.b, g)] → runs s (.vldlIndexed f) (loadPlan s w f.d.toNat fun e => [laneOffset s f true e]) none (s, es) id ∧
        runs s (.vstlIndexed f) (storePlan s f.mask w f.d.toNat fun e => [laneOffset s f true e]) none (s, es) id)) ∧
    ((s.c.stream f.a.toNat).valid = false → ok [(f.d, g)] → Traps (.vld f) s s 0x08 (wd f.a.toNat)) ∧
    ∀ (u : State) (c k tv : Nat), u.c.tst.getLsbD 2 = false → Trapped u (vecMemTrap u c k tv) c (wd tv) ∧ (vecMemTrap u c k tv).c.es = wd k ∧
      (vecMemTrap u c k tv).c.esk = wd (if c = 0x0C then 2 else 1) ∧ (vecMemTrap u c k tv).mem = u.mem

/-- Vector memory instructions that reach local memory, byte by byte. -/
def Obligations.VectorLocalAccess : Prop :=
  ∀ (s : State) (f : H2), VecReady s → tyWidth f.ty.toNat = s.c.ew → VecSpace s s.c.ew s.c.grp → s.c.hold = none → s.c.stopping = none →
    Quiet s s.c.part s.c.core →
    let w := s.c.ew / 8
    let g := s.c.grp
    let q := s.c.stream f.a.toNat
    let fieldAt_ := fun (e j : Nat) => (((q.base.toNat : Int) + (q.pos.toInt + e) * q.stride.toInt + j * w) % 2 ^ 64).toNat
    let at_ := fun (e : Nat) => fieldAt_ e 0
    let index := fun (e : Nat) => (BitVec.ofNat s.c.ew (s.elem s.c.ew f.b.toNat e)).toInt
    let ix := fun (e : Nat) => (((q.base.toNat : Int) + index e) % 2 ^ 64).toNat
    let lane := fun (e : Nat) => ((s.reg f.a.toNat).toNat + e / s.lanes * w) % 2 ^ 64
    let laneX := fun (e : Nat) => (((s.reg f.a.toNat).toNat + index e : Int) % 2 ^ 64).toNat
    let core := fun (a : Nat) => keyCore s.c.core a
    let slice := fun (e a : Nat) => keyLane s.c.core (s.mySeat.laneBase s.c.slot + e % s.lanes) a
    let active := fun (e : Nat) => e < s.c.vlen ∧ s.c.active f.mask e = true
    let bytes := fun (u : State) (k : Nat) => u.bytesAt k w
    let group := fun (r : BitVec 5) (n : Nat) => r.toNat % g = 0 ∧ r.toNat + n * g ≤ 32
    let good := fun (a : Nat) => a % w = 0 ∧ OwnCsp s s.c.part s.c.core a w
    let apart := fun (k : Nat → Nat) => ∀ e e', active e → active e' → e ≠ e' → k e ≠ k e'
    let moved := fun (t : State) => (t.c.stream f.a.toNat).pos = q.pos + BitVec.ofNat 48 s.c.vlen
    let loads := fun (i : Instr) (k : Nat → Nat) => Maps i s s.c.ew g f.d.toNat f.mask (fun e x => x = bytes s (k e)) fun _ => 0
    let stores := fun (i : Instr) (r : BitVec 5) (k : Nat → Nat) => ∃ t, exec i s = .next t ∧ Retired s t ∧ (∀ n, t.reg n = s.reg n) ∧ t.c.v = s.c.v ∧
      (∀ e, active e → bytes t (k e) = s.elem s.c.ew r.toNat e) ∧ ∀ x, (∀ e, active e → x < k e ∨ k e + w ≤ x) → t.byteAt x = s.byteAt x
    let atom := fun (i : Instr) (fn : Nat) (b : BitVec 5) (keep : Bool) (k : Nat → Nat) => ∃ t, exec i s = .next t ∧ Retired s t ∧
      (∀ n, t.reg n = s.reg n) ∧ (keep = false → t.c.v = s.c.v) ∧
      (∀ e, active e →
        bytes t (k e) = atomicFn fn f.ty.toNat (bytes s (k e)) (s.elem s.c.ew b.toNat e) (s.elem s.c.ew f.d.toNat e) % 2 ^ s.c.ew ∧
        (keep = true → t.elem s.c.ew f.d.toNat e = bytes s (k e))) ∧
      ∀ x, (∀ e, active e → x < k e ∨ k e + w ≤ x) → t.byteAt x = s.byteAt x
    (s.c.space = 1 → q.valid = true → f.a.toNat < 16 →
      ((∀ e, active e → good (at_ e)) →
        (group f.d 1 → loads (.vld f) (fun e => core (at_ e)) ∧ ∃ t, exec (.vld f) s = .next t ∧ moved t) ∧
        (apart at_ →
          (group f.b 1 → stores (.vst f) f.b (fun e => core (at_ e)) ∧ ∃ t, exec (.vst f) s = .next t ∧ moved t) ∧
          (group f.d 1 → (2 ≤ f.imm.toNat / 64 % 4 → fillsOut s = false) →
            ∀ p ∈ [(Instr.vredAddStream f, 0), (.vredFaddStream f, 1), (.vredAndStream f, 2), (.vredOrStream f, 3), (.vredXorStream f, 4),
                (.vredMinStream f, 5), (.vredMaxStream f, 6)],
              atom p.1 p.2 f.d false (fun e => core (at_ e)) ∧ ∃ t, exec p.1 s = .next t ∧ moved t))) ∧
      ((∀ e, active e → ∀ j < f.imm.toNat, good (fieldAt_ e j)) →
        (group f.d f.imm.toNat → ∃ t, exec (.vlds f) s = .next t ∧ Retired s t ∧ (∀ n, t.reg n = s.reg n) ∧ t.mem = s.mem ∧ moved t ∧
          ∀ j < f.imm.toNat, ∀ e < s.groupCap s.c.ew g, (active e → t.elem s.c.ew (f.d.toNat + j * g) e = bytes s (core (fieldAt_ e j))) ∧
            (¬active e → t.elem s.c.ew (f.d.toNat + j * g) e = s.elem s.c.ew (f.d.toNat + j * g) e)) ∧
        (group f.b f.imm.toNat → (∀ e e' j j', active e → active e' → j < f.imm.toNat → j' < f.imm.toNat → (e, j) ≠ (e', j') →
            fieldAt_ e j ≠ fieldAt_ e' j') →
          ∃ t, exec (.vsts f) s = .next t ∧ Retired s t ∧ (∀ n, t.reg n = s.reg n) ∧ t.c.v = s.c.v ∧ moved t ∧
            (∀ e, active e → ∀ j < f.imm.toNat, bytes t (core (fieldAt_ e j)) = s.elem s.c.ew (f.b.toNat + j * g) e) ∧
            ∀ x, (∀ e, active e → ∀ j < f.imm.toNat, x < core (fieldAt_ e j) ∨ core (fieldAt_ e j) + w ≤ x) → t.byteAt x = s.byteAt x)) ∧
      ((∀ e, active e → good (ix e)) → group f.d 1 → group f.b 1 → let k := fun e => core (ix e)
        loads (.vldx f) k ∧
        (apart ix → stores (.vstx f) f.d k ∧
          ((2 ≤ f.imm.toNat / 64 % 4 → fillsOut s = false) →
            (f.d ≠ f.b → ∀ p ∈ [(Instr.vamoAdd f, 0), (.vamoFadd f, 1), (.vamoAnd f, 2), (.vamoOr f, 3), (.vamoXor f, 4), (.vamoMin f, 5),
                (.vamoMax f, 6), (.vamoSwap f, 7)], atom p.1 p.2 f.d true k) ∧
            (let n : BitVec 5 := f.imm.setWidth 5
             group n 1 → [f.d, f.b, n].Nodup → atom (.vamoCas f) 8 n true k) ∧
            ∀ p ∈ [(Instr.vredAddIndexed f, 0), (.vredFaddIndexed f, 1), (.vredAndIndexed f, 2), (.vredOrIndexed f, 3),
                (.vredXorIndexed f, 4), (.vredMinIndexed f, 5), (.vredMaxIndexed f, 6)], atom p.1 p.2 f.d false k))) ∧
      ∀ k, active k → group f.d 1 → s.c.tst.getLsbD 2 = false → (∀ e < k, active e → good (at_ e)) →
        (at_ k % w ≠ 0 ∨ ownsPos s s.c.part s.c.core (at_ k / 0xC0000) = false) →
        ∃ t, exec (.vld f) s = .next t ∧ t.c.cause = (if at_ k % w ≠ 0 then 0x04 else 0x08) ∧ t.c.tval = wd (at_ k) ∧ t.c.es = wd k ∧
          t.c.esk = 1 ∧ t.c.epc = s.c.pc.setWidth 64 ∧ t.mem = s.mem ∧ (t.c.stream f.a.toNat).pos = q.pos ∧
          ∀ e < s.groupCap s.c.ew g, t.elem s.c.ew f.d.toNat e =
            if e < k ∧ s.c.active f.mask e = true then bytes s (core (at_ e)) else s.elem s.c.ew f.d.toNat e) ∧
    (s.c.gang = [] → group f.d 1 → s.mySeat.laneBase s.c.slot + s.lanes ≤ 256 → s.mySeat.part = s.c.part → s.mySeat ∈ s.seats → s.mySeat.core = s.c.core →
      let fits := fun (a : Nat) => a % w = 0 ∧ a + w ≤ 2 ^ 11 ∧ s.mySeat.pos ≤ a / 512 ∧ a / 512 < s.mySeat.pos + s.mySeat.size
      ((∀ e, active e → fits (lane e)) →
        loads (.vldl f) (fun e => slice e (lane e)) ∧ stores (.vstl f) f.d fun e => slice e (lane e)) ∧
      ((∀ e, active e → fits (laneX e)) → group f.b 1 →
        loads (.vldlIndexed f) (fun e => slice e (laneX e)) ∧
        (apart (fun e => slice e (laneX e)) → stores (.vstlIndexed f) f.d fun e => slice e (laneX e))))

/-- Majors 0x25 to 0x27, and the Spillway's instructions of 0x29. -/
def Obligations.MatrixArray : Prop :=
  (∀ (s : State) (f : H2) (fm : Word) (x : Seat), s.c.vill = false → fmtUse s f.d.toNat [0, 1, 2, 3] = some fm → FromZero s →
    s.c.hold = none → s.seat? s.c.core s.c.pos = some x →
    let a := s.reg f.a.toNat
    let ls := tileLines fm 0
    let latched := fun (u : State) (bs : List Byte) => ∃ t b, exec (.mwld f) s = .next t ∧ Retired s t ∧ t.mem = u.mem ∧
      (∀ n, t.reg n = s.reg n) ∧ t.c.a = s.c.a ∧
      t.mySeat.bank = some b ∧ b.owner = s.c.id ∧ b.addr = a ∧ b.fmt = fm ∧ b.rows = 256 ∧ b.codes = kindBytes ls bs 0 (tileUnits fm) ∧
      b.scales = kindBytes ls bs 1 (tileUnits fm) ∧ b.lists = kindBytes ls bs 2 (tileUnits fm) ∧
      t.c.latch = some { addr := a, fmt := fm, complete := true }
    (a.toNat % 256 ≠ 0 → exec (.mwld f) s = .next (vecMemTrap s 0x04 0 a.toNat)) ∧
    (∀ bs u, a.toNat % 256 = 0 → tileBad s a.toNat (tileElts s a.toNat ls) = none → readTile s a.toNat [] ls = .done bs u → u.c = s.c →
      u.seats = s.seats → latched u bs) ∧
    ∀ o, Quiet s s.c.part s.c.core → a.toNat = windowAddr 1 o → o % 256 = 0 → (∀ l ∈ ls, OwnCsp s s.c.part s.c.core (o + l.off) 64) →
      latched s (ls.flatMap fun l => (List.range 64).map fun i => s.byteAt (keyCore s.c.core (o + l.off) + i))) ∧
  (∀ (s : State) (f : H2), s.c.vill = false →
    let fm := s.c.f[f.a.toNat]?.getD 0
    let ok := (s.c.desc f.d.toNat).any fun d => unfOk d fm (s.reg f.b.toNat)
    (ok = true → ∃ t, exec (.unfCfg f) s = .next t ∧ Retired s t ∧ t.mem = s.mem ∧ (∀ n, t.reg n = s.reg n) ∧ t.c.kcur = 0 ∧
      t.c.unf = some { desc := s.c.descImg f.d.toNat, fmt := fm, geo := s.reg f.b.toNat }) ∧
    (ok = false → Traps (.unfCfg f) s s 0x01 (headTval s))) ∧
  (∀ (s : State) (f : H2) (cap : MmCap), mmKept s = none → mmCapture s f = some cap →
    let cols := s.c.actives f.mask 0 s.c.vlen
    let rows := s.c.grp * s.dlen
    let lane := s.mySeat.laneBase s.c.slot
    (cols = [] → ∃ t, exec (.mmla f) s = .next t ∧ Retired s t ∧ t.c.kcur = s.c.kcur + 256 ∧ t.c.a = s.c.a ∧ t.mem = s.mem) ∧
    (∀ b, s.mySeat.bank = some b → b.holds s.c.id cap.latch.addr cap.latch.fmt 256 = true → cap.latch.complete = true → FromZero s →
      s.dlen ≤ 32 → s.lanes ≤ 2048 → cellsWf (0 : BitVec 36) s.c.a = true →
      ∀ r : Nat → ARow, (∀ m < rows, unfRow s cap.unf s.c.kcur m = .ok (r m)) →
      let after := fun (new : Nat → Nat → BitVec 36) => ∃ t, exec (.mmla f) s = .next t ∧ Retired s t ∧ t.c.kcur = s.c.kcur + 256 ∧ t.mem = s.mem ∧
        (∀ n, t.reg n = s.reg n) ∧ ∀ m < rows, ∀ n < s.lanes, t.acc f.d.toNat m n = if n ∈ cols then new m n else s.acc f.d.toNat m n
      let ints := fun m => (r m).codes.map fun c => (c.map (intCode cap.unf.fmt)).getD 0
      (fmtCLS cap.latch.fmt = 1 → (∀ m < rows, ∀ n ∈ cols, (columnSum b (ints m) (lane + n)).2 = []) → after fun m n =>
        (satAdd36 (s.acc f.d.toNat m n) (((ints m).zip ((List.range 256).map fun k => intCode b.fmt (weightCode b k (lane + n)))).map
          fun p => p.1 * p.2).sum).1) ∧
      (fmtCLS cap.latch.fmt ≠ 1 → after fun m n => BitVec.ofNat 36
        (floatPass (s.acc f.d.toNat m n).toNat (rowBlocks cap.unf.fmt (r m)).1 (columnBlocks b (lane + n)).1)))) ∧
  (∀ (s : State) (f : H1) (x : Seat), s.c.alive = true → s.seat? s.c.core s.c.pos = some x →
    (∃ t, exec (.spwDrain f) s = .next t ∧ t.c.pc = s.c.nextPc ∧ t.mySeat.spill = [] ∧ t.mem = s.mem ∧ (∀ n, t.reg n = s.reg n) ∧
      ∀ e, x.spill = [e] → s.c.ownsSpill x e = true →
        let key := aKey e.reg (e.row - x.dbase s.c.slot) (e.col - x.laneBase s.c.slot)
        cellsWf (0 : BitVec 36) s.c.a = true → getCell 0 key t.c.a = (satAdd36 (getCell 0 key s.c.a) (e.count * 2 ^ 20)).1) ∧
    (1 ≤ s.c.priv.toNat → x.size ≤ 4 → ∃ t, exec (.spwMode f) s = .next t ∧ t.c.pc = s.c.nextPc ∧ (f.d ≠ 0 → t.reg f.d.toNat = x.spwmode) ∧ t.mySeat.spill = [] ∧
      t.mySeat.spwmode.toNat = max 1 (min ((s.reg f.a.toNat).toNat / 256 % 256) (16 * x.size)) * 256 + (s.reg f.a.toNat).toNat % 2)) ∧
  ∀ (s : State) (f : H1), Sets (.spwSt f) s f.d s.mySeat.spwstWord

/-- Major 0x28 and `acx`. -/
def Obligations.Accumulators : Prop :=
  (∀ (s : State) (f : H2), s.c.vill = false → s.c.et ∈ [0, 3, 7, 11, 14] → f.d.toNat % s.c.grp = 0 → f.d.toNat + s.c.grp ≤ 32 →
    1 ≤ s.lanes → s.lanes ≤ 2048 → s.dlen ≤ 32 → s.c.vlen ≤ s.lanes * s.dlen * s.c.grp → cellsWf (0 : BitVec 36) s.c.a = true →
    let ty := f.ty.toNat
    let w := tyWidth ty
    let acc := fun (u : State) (e : Nat) => u.acc f.d.toNat (e / s.lanes) (e % s.lanes)
    let after := fun (i : Instr) (new : Nat → BitVec 36) => ∃ t, exec i s = .next t ∧ Retired s t ∧ t.mem = s.mem ∧ (∀ n, t.reg n = s.reg n) ∧
      t.c.v = s.c.v ∧ ∀ e < s.lanes * s.dlen * s.c.grp, acc t e = if e < s.c.vlen ∧ s.c.active f.mask e = true then new e else acc s e
    after (.acz f) (fun _ => 0) ∧
    (∃ t, exec (.acz f) s = .next t ∧ ∀ n, t.c.sat.getLsbD n = (s.c.sat.getLsbD n && !(decide (f.d.toNat ≤ n) && decide (n < f.d.toNat + s.c.grp)))) ∧
    (FromZero s → f.a.toNat % groupRegs s.c.grp w 32 = 0 → f.a.toNat + groupRegs s.c.grp w 32 ≤ 32 →
      let x := fun e => s.elem w f.a.toNat e
      after (.aci f) (fun e => if tyFloat ty then BitVec.ofNat 36 (fConv (tyFmt ty) fp36 0 (x e)).1 else BitVec.ofInt 36 (tyInt ty (x e))) ∧
      (tyFloat ty = false → after (.aciAdd f) fun e => (satAdd36 (acc s e) (tyInt ty (x e))).1) ∧
      (tyFloat ty = true → after (.aciAdd f) fun e => BitVec.ofNat 36
        (fAdd fp36 0 (acc s e).toNat (BitVec.ofNat 36 (fConv (tyFmt ty) fp36 0 (x e)).1).toNat).1))) ∧
  (∀ (s : State) (f : H2), s.c.vill = false → s.c.et ∈ [0, 3, 7, 11, 14] → f.a.toNat % s.c.grp = 0 → f.a.toNat + s.c.grp ≤ 32 →
    SetsSome (.aciSat f) s f.d (fun x => ∀ i, x.getLsbD i = (decide (i < s.c.grp) && s.c.sat.getLsbD (f.a.toNat + i))) ∧
    let ty := f.ty.toNat
    let w := tyWidth ty
    let n := groupRegs s.c.grp w 32
    let fp := (tyFloat ty || ty == 13) != nbit f.imm.toNat 7
    let sh := f.imm.toNat % 32
    ∀ fm, (if ty = 13 then fmtUse s f.b.toNat [0, 1] else some 0) = some fm → hasScl fm = false → hasEsc fm = false → fp = false ∨ sh = 0 →
      FromZero s → s.mySeat.spill = [] → ty ≠ 13 ∨ s.rm ≠ 4 → f.d.toNat % n = 0 → f.d.toNat + n ≤ 32 → VecSpace s w n →
      let r := fun e => acxOne ty s.rm 0 (nbit f.imm.toNat 6) fm (acxVal fp sh (s.acc f.a.toNat (e / s.lanes) (e % s.lanes)))
      Maps (.acx f) s w n f.d.toNat f.mask (fun e x => x = (r e).1 % 2 ^ w) fun e => (r e).2) ∧
  ∀ (x : BitVec 36) (d : Int), (satAdd36 x d).1.toInt = max (-(2 ^ 35)) (min (2 ^ 35 - 1) (x.toInt + d)) ∧
    ((satAdd36 x d).2 = true ↔ x.toInt + d < -(2 ^ 35) ∨ 2 ^ 35 - 1 < x.toInt + d)

/-- Majors 0x2A and 0x2B, where `t` is the state once the accesses are made, and how majors 0x2C and 0x2D and their engine complete. -/
def Obligations.DescriptorsAndFormats : Prop :=
  (∀ (s t : State) (f : H2) (img : List Byte), (s.reg f.a.toNat).toNat % 128 = 0 → loadLines s s.agent (s.reg f.a.toNat).toNat 2 = .ok img t →
    let a := s.reg f.a.toNat
    let answers := fun (code : Nat) (u : State) =>
      if code = 0 then exec (.dld f) s = .next ((u.setDesc f.d.toNat img).setReg f.b.toNat 0).adv
      else if f.b ≠ 0 then exec (.dld f) s = .next (t.setReg f.b.toNat (wd code)).adv
      else Traps (.dld f) s t 0x08 a
    (parseDesc img = none → answers 1 t) ∧
    ∀ d, parseDesc img = some d →
      let mine := t.binds.filter fun b => b.part == t.c.part
      (d.bk = 0 → answers 0 t) ∧
      (d.bk = 1 →
        if d.space = 0 ∧ (∀ x ∈ d.dims, 0 ≤ x.str) ∧ ∃ b ∈ mine, b.base = d.base ∧ b.alt = d.alt ∧ b.span = (d.high + 1).toNat then answers 0 t
        else if bindRefused t d = true then answers 2 t
        else if 64 ≤ mine.length then answers 3 t
        else answers 0 { t with binds := t.binds ++
          [{ part := t.c.part, base := d.base, alt := d.alt, span := (d.high + 1).toNat, cur := false, desc := img, torn := false }] }) ∧
      (d.bk = 2 →
        if (∃ b ∈ mine, b.base = d.base) ∧ ∀ x ∈ t.copies, x.shadows t.c.part d.base = false then
          answers 0 { t with binds := t.binds.filter fun b => !(b.part == t.c.part && b.base == d.base) }
        else answers 4 t)) ∧
  (∀ (s t u : State) (f : H2) (_ : s.c.hold = none),
    let a := s.reg f.a.toNat
    let img := s.c.descImg f.b.toNat
    (a.toNat % 128 ≠ 0 → Traps (.dld f) s s 0x04 a ∧ Traps (.dst f) s s 0x04 a) ∧
    (a.toNat % 128 = 0 → storeFault s a.toNat 64 = none → storeFault s (a.toNat + 64) 64 = none →
      ((∀ x v, resolve s s.agent .store a.toNat 64 = .ok (x, v) → ∃ p, x = .near p) → storeMem s s.agent a.toNat (img.take 64) = .ok () t →
        storeMem t s.agent (a.toNat + 64) ((img.drop 64).take 64) = .ok () u → exec (.dst f) s = .next u.adv) ∧
      ∀ d pa k k' v v' w, resolve s s.agent .store a.toNat 64 = .ok (.far d pa k, v) →
        resolve v s.agent .store (a.toNat + 64) 64 = .ok (.far d (pa + 64) k', v') → farAccess v' s.agent d pa k 128 1 0 8 0 0 img = .ok w u →
        exec (.dst f) s = .next u.adv) ∧
    (a.toNat % 128 = 0 → ∀ c, storeFault s a.toNat 64 = none → storeFault s (a.toNat + 64) 64 = some c →
      exec (.dst f) s = .next (trapScalar (faultWalk s s.agent (sluiceFor s s.agent (a + 64).toNat)) c (a + 64)))) ∧
  ∀ (s t : State) (f : H2),
    let a := s.reg f.a.toNat + BitVec.ofInt 64 (8 * f.imm.toInt)
    (a.toNat % 8 ≠ 0 → Traps (.fmtLd f) s s 0x04 a ∧ Traps (.fmtSt f) s s 0x04 a) ∧
    (a.toNat % 8 = 0 →
      (∀ bs, loadMem s s.agent a.toNat 8 = .ok bs t → ∃ u, exec (.fmtLd f) s = .next u ∧ Retired t u ∧ u.mem = t.mem ∧ (∀ n, u.reg n = t.reg n) ∧
        (∀ n, n ≠ f.d.toNat → u.c.f[n]? = t.c.f[n]?) ∧
        (f.d.toNat < 16 → u.c.f[f.d.toNat]? = some
          (let x := wd (leNat bs); if x.toNat / 2 ^ 28 = 0 ∧ x.toNat / 2 ^ 13 % 8 = 0 ∧ x.toNat / 2 ^ 4 % 8 = 0 then x else 0))) ∧
      (storeMem s s.agent a.toNat (leBytes 8 (s.c.f[f.b.toNat]?.getD 0).toNat) = .ok () t → exec (.fmtSt f) s = .next t.adv)) ∧
  -- copies and `pub` complete
  (∀ (s : State) (f : H3) (d src : Desc), copyDescs s f.d.toNat f.a.toNat = some (d, src) → s.c.hold = none → s.c.stopping = none →
    (FromZero s → CopyInCsp s s.c.part s.c.core d src 0 → ∃ t, exec (.tcopy f) s = .next t ∧ Retired s t) ∧
    ∀ b, bindOfDst s d = some b → ∃ t, exec (.tcopySh f) s = .next t ∧ Retired s t ∧ t.nextCopy = s.nextCopy + 1) ∧
  (∀ (s : State) (f : H3) (d src : Desc) (b : Buf), copyDescs s f.a.toNat f.b.toNat = some (d, src) →
    (s.reg f.dl.toNat).toNat ≤ s.tick.toNat + s.myPart.whz.toNat → (s.reg f.c.toNat).toNat ≤ s.tick.toNat + s.myPart.whz.toNat →
    bufOf s s.c.part (f.imm.toNat % 256) = some b → b.closed = false → 0 ≤ d.low → d.high < 2 ^ b.lgsz →
    ∃ t, exec (.tcopyCb f) s = .next t ∧ t.mem = s.mem ∧ (s.uns = false → t.c.wait.isSome = true)) ∧
  (∀ (s : State) (x : Copy) (slot : Nat), s.copies = [x] → x.slot = none → freeCopySlot s x.core x.pos = some slot → (s.part x.part).ckPhase = 0 →
    ∃ t y, exec (.copyHandoff x.id) s = .next t ∧ t.copies = [y] ∧ y.slot = some slot) ∧
  (∀ (s : State) (x : Copy) (d src : Desc), copyById s x.id = some x → parseDesc x.dst = some d → parseDesc x.src = some src →
    x.due s.now = true → d.count ≤ x.next → ∃ t, exec (.copyCompletion x.id) s = .next t ∧ ∀ y ∈ t.copies, y.id ≠ x.id) ∧
  ∀ (s : State) (f : H1) (d : Desc) (b : Bind), s.c.desc f.a.toNat = some d → d.space = 0 → bindAt s s.c.part d.base = some b →
    s.c.hold = none → fillsOut s = false → s.copies = [] → ∃ t, exec (.pub f) s = .next t ∧ Retired s t ∧
      (f.d ≠ 0 → t.reg f.d.toNat = if b.torn then 1 else 0)

/-- Major 0x2C, COPY_HANDOFF, COPY_COMPLETION and `pub`. -/
def Obligations.TensorCopies : Prop :=
  (∀ (s : State) (f : H3), copyDescs s f.d.toNat f.a.toNat = none →
    Traps (.tcopy f) s s 0x01 (headTval s) ∧ Traps (.tcopySh f) s s 0x01 (headTval s)) ∧
  (∀ (s : State) (f : H3) (d src : Desc), copyDescs s f.d.toNat f.a.toNat = some (d, src) → s.c.hold = none → s.c.stop = none →
    s.c.stopping = none → s.c.perr = none →
    let p := copyPlan s d src
    let es := span s.c.startElem d.count
    let all := es.flatMap p.accesses
    let fault := fun (x : Acc × Elt) => (eltFault s x.1 p.w x.2).map fun c => (c, x.2.tv)
    let o := uoOrder p s es
    let backs := if s.c.resuming then [] else (s.c.entry0.map Prog.backs).getD []
    let r := vecElems p (o.1.setHold fun h => { h with pos := none, backs := h.backs ++ backs }) o.2
    (∀ c tv, meetsSO s p all = true → all.findSome? fault = some (c, tv) →
      exec (.tcopy f) s = .next (markSO true (trapAt (checkedFault s tv all) c (wd tv)))) ∧
    (meetsSO s p all = false ∨ all.findSome? fault = none →
      (∀ u, r = .done u → exec (.tcopy f) s = .next (vecMemEnd u id)) ∧
      (∀ c k tv rest u, r = .fault c k tv rest u → exec (.tcopy f) s = .next (markSO (meetsSO s p all) (vecStop p u c k tv rest))) ∧
      ∀ l u, r = .hold l u → exec (.tcopy f) s = .next (u.setHold fun h => { h with todo := some l })) ∧
    (FromZero s → CopyInCsp s s.c.part s.c.core d src 0 →
      ∃ t, exec (.tcopy f) s = .next t ∧ Retired s t ∧ (∀ n, t.reg n = s.reg n) ∧ t.c.v = s.c.v ∧ CopiedInCsp s t s.c.core d src 0) ∧
    (∀ (k a sva dva : Nat) (bs : List Byte) (u v w : State), gathered u = [] → srcAddr d src k = some a →
      spaceVa src.space a = some sva → spaceVa d.space (dstAddr d k) = some dva → loadMem u s.agent sva d.bytes = .ok bs v →
      storeMem v s.agent dva (leBytes d.bytes (leNat bs)) = .ok () w → w.poison = [] → p.act k u = .ok w w) ∧
    (bindOfDst s d = none → Traps (.tcopySh f) s s 0x08 (wd d.base)) ∧
    ∀ b, bindOfDst s d = some b → ∃ t, exec (.tcopySh f) s = .next t ∧ Retired s t ∧ t.mem = s.mem ∧ (∀ n, t.reg n = s.reg n) ∧
      t.nextCopy = s.nextCopy + 1 ∧ ∃ x ∈ t.copies, x.id = s.nextCopy ∧ x.ctx = s.c.id ∧ x.dst = s.c.descImg f.d.toNat ∧
        x.src = s.c.descImg f.a.toNat ∧ x.next = 0 ∧ x.part = s.c.part ∧ ∃ side, x.kind = .shadow b.base side) ∧
  (∀ (s : State) (id : Nat), ∃ t, exec (.copyHandoff id) s = .next t ∧ t.mem = s.mem ∧ t.c = s.c) ∧
  (∀ (s : State) (x : Copy) (l : List Copy) (slot : Nat), copyById s x.id = some x → x.slot = none →
    freeCopySlot s x.core x.pos = some slot → (s.part x.part).ckPhase = 0 →
    s.copies.filter (fun y => sameSeat x y && y.slot.isNone) = x :: l →
    ∃ t y, exec (.copyHandoff x.id) s = .next t ∧ copyById t x.id = some y ∧ y.slot = some slot ∧ s.now ≤ y.at_ ∧ y.dst = x.dst ∧
      y.src = x.src ∧ y.next = x.next) ∧
  (∀ (s : State) (id : Nat) (x : Copy) (d src : Desc), copyById s id = some x → parseDesc x.dst = some d → parseDesc x.src = some src →
    (x.due s.now = false → exec (.copyCompletion id) s = .next s) ∧
    (x.due s.now = true →
      let r := copyOn s x d src (d.count - x.next)
      let u := copyClean r.1 r.2 d
      (d.count ≤ r.2.next → ∃ t, exec (.copyCompletion id) s = .next t ∧ t.mem = r.1.mem ∧ t.c.pc = r.1.c.pc ∧ t.c.s = r.1.c.s ∧
        t.c.v = r.1.c.v ∧ ∀ y ∈ t.copies, y.id ≠ id) ∧
      (r.2.next < d.count → exec (.copyCompletion id) s = .next (setCopy u r.2))) ∧
    (x.due s.now = true → x.got = none → CopyInCsp s x.part x.core d src x.next →
      ∃ t, exec (.copyCompletion id) s = .next t ∧ t.c.pc = s.c.pc ∧ t.c.s = s.c.s ∧ t.c.v = s.c.v ∧ (∀ y ∈ t.copies, y.id ≠ id) ∧
        CopiedInCsp s t x.core d src x.next) ∧
    ∀ (a sva dva : Nat) (bs : List Byte) (u v : State),
      let y := { x with far := none, ans := none }
      x.got = none → srcAddr d src x.next = some a → spaceVa src.space a = some sva → spaceVa d.space (dstAddr d x.next) = some dva →
      engineRead s x (if src.space = 0 then x.srcVa s sva else sva) d.bytes = .ok bs u → engineWrite u y (y.dstVa u dva) bs = .ok () v →
      copyOne s x d src = (v, { y with next := x.next + 1, got := none }, true)) ∧
  (∀ (s : State) (f : H3),
    let n := f.imm.toNat % 256
    let dl := (s.reg f.dl.toNat).toNat
    let fill := (s.reg f.c.toNat).toNat
    let within := fun (x : Nat) => x ≤ s.tick.toNat + s.myPart.whz.toNat
    (copyDescs s f.a.toNat f.b.toNat = none → Traps (.tcopyCb f) s s 0x01 (headTval s)) ∧
    ∀ d src, copyDescs s f.a.toNat f.b.toNat = some (d, src) →
      (¬within dl → Traps (.tcopyCb f) s s 0x09 (wd dl)) ∧ (within dl → ¬within fill → Traps (.tcopyCb f) s s 0x09 (wd fill)) ∧
      (within dl → within fill →
        (∀ b, bufOf s s.c.part n = some b → b.closed = false → 0 ≤ d.low → d.high < 2 ^ b.lgsz →
          (s.uns = false ∨ b.reach s < 4 → Asks (.tcopyCb f) s s b.home (.buf s.c.part n) (.cbClaim 1 dl fill)) ∧
          (s.uns = true → 4 ≤ b.reach s → EndsWith (.tcopyCb f) s f.d 0 wsNOVERDICT ones ones)) ∧
        (∀ b, bufOf s s.c.part n = some b → b.closed = true ∨ d.low < 0 ∨ 2 ^ b.lgsz ≤ d.high → Traps (.tcopyCb f) s s 0x08 (wd n)) ∧
        (bufOf s s.c.part n = none → Traps (.tcopyCb f) s s 0x08 (wd n)))) ∧
  (∀ (s : State) (b : Buf) (d n fill slot : Nat) (dst src : List Byte), bufOf s s.c.part n = some b →
    ∃ x ∈ (endCopyClaim s d dst src n fill wsMET (wd slot)).copies, x.id = s.nextCopy ∧ x.src = src ∧ x.next = 0 ∧
      (slot < 2 ^ 64 → x.kind = .slot n slot fill ∧ x.dst = leBytes 8 ((b.base + slot * 2 ^ b.lgsz) % 2 ^ 56) ++ dst.drop 8)) ∧
  ∀ (s : State) (f : H1), s.c.hold = none →
    let named := (s.c.desc f.a.toNat).bind fun d => if d.space = 0 then bindAt s s.c.part d.base else none
    (named = none → Sets (.pub f) s f.d 2) ∧
    ∀ b, named = some b → (fillsOut s = true → exec (.pub f) s = .next s) ∧
      (fillsOut s = false → shadowQueued s = false →
        let v := if 3 ≤ f.sub.toNat then settleEngines (releaseAt s f.sub.toNat) else releaseAt s f.sub.toNat
        let mine := s.copies.filter fun x => x.shadows b.part b.base && x.slot.isSome
        (mine = [] → b.torn = false → ∃ t, exec (.pub f) s = .next t ∧ Retired s t ∧ t.mem = s.mem ∧ (f.d ≠ 0 → t.reg f.d.toNat = 0) ∧
          (∀ n, n ≠ f.d.toNat → t.reg n = s.reg n) ∧ bindAt t b.part b.base = some { b with cur := !b.cur }) ∧
        (mine = [] → b.torn = true → exec (.pub f) s = .next (v.setReg f.d.toNat 1).adv) ∧
        (mine ≠ [] → (∀ x ∈ s.copies, x.shadows b.part b.base = true → x.fault ≠ none) → exec (.pub f) s = .next (v.setReg f.d.toNat 1).adv) ∧
        ((∃ x ∈ mine, x.fault = none) → ∃ t, exec (.pub f) s = .next t ∧ t.c.pc = s.c.pc ∧ t.binds = s.binds ∧ t.mem = s.mem ∧
          ∀ n, t.reg n = s.reg n))

/-- Major 0x2E. -/
def Obligations.TileCache : Prop :=
  (∀ (s : State) (f : H3),
    let id := (s.reg f.b.toNat).toNat % 2 ^ 16
    let s0 := 128 * 2 ^ (f.imm.toNat % 4)
    let mine := s.wins.filter fun w => w.part == s.c.part
    let u := releaseAt s 3
    let ends := fun (code : Nat) => exec (.tcReg f) s = .next (u.setReg f.d.toNat (wd code)).adv
    (s.c.desc f.a.toNat = none → Traps (.tcReg f) s s 0x01 (headTval s)) ∧
    ∀ d, s.c.desc f.a.toNat = some d → (fillsOut s = true → exec (.tcReg f) s = .next s) ∧ (fillsOut s = false →
      let pages := windowPages u (d.base / 4096 * 4096) ((d.base % 4096 + d.size + 4095) / 4096)
      if id = 0 ∨ ∃ w ∈ mine, w.id = id then ends 1
      else if d.space ≠ 0 ∨ denseFrom d.bytes d.dims = false then ends 2
      else if d.r0 % s0 ≠ 0 ∨ d.ext1 % (512 / s0) ≠ 0 then ends 3
      else if ∃ p ∈ pages.filterMap (fun x => x), ∃ w ∈ mine, ∃ q ∈ w.pages, q.1 = p.1 then ends 4
      else if ∃ p ∈ pages, ∀ q, p = some q → q.2.2 = false then ends 5
      else if 256 ≤ mine.length then ends 6
      else ∃ w : Win, exec (.tcReg f) s = .next ({ u with wins := s.wins ++ [w] }.setReg f.d.toNat 0).adv ∧ w.part = s.c.part ∧ w.id = id ∧
        w.base = d.base ∧ w.size = d.bytes * d.count ∧ w.s0 = s0 ∧ w.gen = 0 ∧
        w.pages = (pages.filterMap fun x => x).map fun p => (p.1, p.2.1))) ∧
  (∀ (s : State) (f : H3) (id : Nat), id = (s.reg f.a.toNat).toNat % 2 ^ 16 →
    (winById s id = none → ∀ i ∈ [Instr.tcDrop f, .tcCln f, .tcInv f],
      (fillsOut s = true → exec i s = .next s) ∧ (fillsOut s = false → exec i s = .next ((releaseAt s 3).setReg f.d.toNat 1).adv)) ∧
    ∀ w, winById s id = some w → (tensorBusy s w = true → ∀ i ∈ [Instr.tcDrop f, .tcCln f], exec i s = .next s) ∧ (fillsOut s = false →
      let mine := fun (k : TcKey) => k.part == s.c.part && k.ten == id
      let does := fun (i : Instr) (P : State → Prop) => ∃ t, exec i s = .next t ∧ Retired s t ∧ (f.d ≠ 0 → t.reg f.d.toNat = 0) ∧
        (∀ n, n ≠ f.d.toNat → t.reg n = s.reg n) ∧ t.stale = s.stale.filter (fun x => !mine x.tile) ∧ P t
      (tensorBusy s w = false → does (.tcDrop f) (fun t => t.mem = s.mem ∧ winById t id = none ∧ t.tcl = s.tcl.filter (fun l => !mine l.tile) ∧
        t.l1 = s.l1.filter fun y => !mine y.tile) ∧
      does (.tcCln f) (fun t => t.mem = s.mem ∧ t.wins = s.wins ∧ t.tcl = s.tcl)) ∧
      does (.tcInv f) fun t => winById t id = some { w with gen := (w.gen + 1) % 16 } ∧ t.l1 = s.l1.filter (fun y => !mine y.tile) ∧
        (s.redir = [] → Memory.wf s.mem = true →
          (∀ x ∈ s.stale, mine x.tile = true → x.old.length = 128 ∧ ∀ y ∈ s.stale, mine y.tile = true → y.sec = x.sec → y = x) →
          (∀ x ∈ s.stale, mine x.tile = true → ∀ i < 128, t.byteAt (x.sec * 128 + i) = x.old.getD i 0) ∧
          ∀ k, (∀ x ∈ s.stale, mine x.tile = true → k / 128 ≠ x.sec) → t.byteAt k = s.byteAt k))) ∧
  ∀ (s : State) (f : H3), s.c.hold = none →
    let va := (s.reg f.a.toNat).toNat
    let off := (s.reg f.b.toNat).toNat
    let wide := f.imm.toNat % 256
    let high := f.imm.toNat / 256 % 16
    let lo := s.mySeat.pos * 0xC0000
    (winAt s va = none → Traps (.tcHalo f) s s 0x08 (wd va)) ∧
    ∀ w d, winAt s va = some (w, d) →
      let addrs := haloAddrs w d va wide high
      (w.s0 < wide * d.bytes ∨ 512 / w.s0 < high → Traps (.tcHalo f) s s 0x01 (headTval s)) ∧
      (wide * d.bytes ≤ w.s0 → high ≤ 512 / w.s0 →
        (off % 64 ≠ 0 ∨ off < lo ∨ lo + s.mySeat.size * 0xC0000 < off + addrs.length * d.bytes → Traps (.tcHalo f) s s 0x08 (wd off)) ∧
        (off % 64 = 0 → lo ≤ off → off + addrs.length * d.bytes ≤ lo + s.mySeat.size * 0xC0000 →
          (∀ c a, haloFault s d.bytes addrs = some (c, a) → Traps (.tcHalo f) s (faultWalk s s.agent (sluiceFor s s.agent a)) c (wd a)) ∧
          (haloFault s d.bytes addrs = none → watchHit s s.c.part .store (windowAddr 1 off) (addrs.length * d.bytes) = true →
            Traps (.tcHalo f) s s 0x0F (wd (windowAddr 1 off))) ∧
          (∀ vs u n, haloFault s d.bytes addrs = none → watchHit s s.c.part .store (windowAddr 1 off) (addrs.length * d.bytes) = false →
            haloRead s d.bytes [] addrs = (.ok vs u, n) → u.c = s.c → Memory.wf u.mem = true →
            ∃ t, exec (.tcHalo f) s = .next t ∧ Retired s t ∧ (∀ r, t.reg r = s.reg r) ∧
              (∀ i < vs.length * d.bytes, t.byteAt (keyCore s.c.core off + i) =
                BitVec.ofNat 8 ((vs.getD (i / d.bytes) 0).toNat / 2 ^ (8 * (i % d.bytes)))) ∧
              ∀ k, k < keyCore s.c.core off ∨ keyCore s.c.core off + vs.length * d.bytes ≤ k → t.byteAt k = u.byteAt k) ∧
          (Quiet s s.c.part s.c.core → s.tlb = [] → (∀ x, some x ∈ addrs → ∃ k, Readable s x d.bytes k) →
            ∃ t, exec (.tcHalo f) s = .next t ∧ Retired s t ∧ (∀ r, t.reg r = s.reg r) ∧
              (∀ i < addrs.length, ∀ j < d.bytes, (addrs[i]? = some none → t.byteAt (keyCore s.c.core off + i * d.bytes + j) = 0) ∧
                ∀ x k, addrs[i]? = some (some x) → Readable s x d.bytes k →
                  t.byteAt (keyCore s.c.core off + i * d.bytes + j) = s.byteAt (k + j)) ∧
              ∀ k, k < keyCore s.c.core off ∨ keyCore s.c.core off + addrs.length * d.bytes ≤ k → t.byteAt k = s.byteAt k)))

/-- Majors 0x2F's group instructions and the reducer's steps. -/
def Obligations.GroupsAndReductions : Prop :=
  (∀ (s t : State) (f : H3) (r : List Byte),
    let a := s.reg f.a.toNat
    let g := f.imm.toNat % 64
    let n := grpNmem r
    (a.toNat % 64 ≠ 0 → Traps (.mgrpDef f) s s 0x04 a) ∧
    (a.toNat % 64 = 0 → loadLines s s.agent a.toNat 4 = .ok r t →
      let answers := fun (x : Nat) => exec (.mgrpDef f) s = .next (t.setReg f.d.toNat (wd x)).adv
      let home := grpMember r (grpHome r) = t.dev
      if grpOk r (boundOf t 4) = false then answers 0x100
      else if ∀ i < n, grpMember r i ≠ t.dev then answers 0x200
      else if grpWaits t t.c.part g false = true then answers 0x300
      else if home ∧ meetOf t (.group t.c.part g) = none ∧ entryFree t t.c.part 0 = false then answers 0x400
      else ∃ u, exec (.mgrpDef f) s = .next u ∧ Retired t u ∧ u.mem = t.mem ∧ ∃ me < n, grpMember r me = t.dev ∧
        (f.d ≠ 0 → u.reg f.d.toNat = wd me) ∧
        grpOf u t.c.part g = some { part := t.c.part, g := g, record := r, me := me, reds := [] } ∧
        (home → ∃ m, meetOf u (.group t.c.part g) = some m ∧ m.memb.toNat = 2 ^ n - 1 ∧ m.arr = 0 ∧ m.joined = 0 ∧ m.gen = 0 ∧
          m.grace = grpGrace r ∧ m.digest = grpDigest r ∧ m.waits = []) ∧
        (¬home → meetOf u (.group t.c.part g) = none))) ∧
  (∀ (s : State) (f : H3),
    let g := f.imm.toNat % 64
    let dl := (s.reg f.dl.toNat).toNat
    (grpOf s s.c.part g = none → Sets (.mgrpDrop f) s f.d 1 ∧ Traps (.mgrpJoin f) s s 0x08 (wd g)) ∧
    (redShapeOk s f = false → Traps (.mldRed f) s s 0x01 (headTval s)) ∧
    (redShapeOk s f = true → grpOf s s.c.part g = none → Traps (.mldRed f) s s 0x08 (wd g)) ∧
    ∀ x, grpOf s s.c.part g = some x →
      let home := grpMember x.record (grpHome x.record)
      (grpWaits s s.c.part g true = true → Sets (.mgrpDrop f) s f.d 3) ∧
      (grpWaits s s.c.part g true = false → ∃ t, exec (.mgrpDrop f) s = .next t ∧ Retired s t ∧ t.mem = s.mem ∧
        (f.d ≠ 0 → t.reg f.d.toNat = 0) ∧ grpOf t s.c.part g = none ∧ meetOf t (.group s.c.part g) = none) ∧
      (s.uns = false → fillsOut s = true → exec (.mgrpJoin f) s = .next s) ∧
      (s.uns = false → fillsOut s = false → Asks (.mgrpJoin f) s s home (.group s.c.part g) (.mtJoin x.me (grpDigest x.record))) ∧
      (s.uns = true → EndsWith (.mgrpJoin f) s f.d 0 wsNOVERDICT ones ones) ∧
      (redShapeOk s f = true → grpLen x.record ≠ s.c.vlen ∨ grpTy x.record ≠ f.ty.toNat → Traps (.mldRed f) s s 0x08 (wd g)) ∧
      (redShapeOk s f = true → grpLen x.record = s.c.vlen → grpTy x.record = f.ty.toNat →
        (s.tick.toNat + s.myPart.whz.toNat < dl → Traps (.mldRed f) s s 0x09 (wd dl)) ∧
        (dl ≤ s.tick.toNat + s.myPart.whz.toNat → s.uns = true → EndsWith (.mldRed f) s f.b f.c wsNOVERDICT ones ones) ∧
        (dl ≤ s.tick.toNat + s.myPart.whz.toNat → s.uns = false → fillsOut s = true → exec (.mldRed f) s = .next s) ∧
        (dl ≤ s.tick.toNat + s.myPart.whz.toNat → s.uns = false → fillsOut s = false →
          Asks (.mldRed f) s s home (.group s.c.part g) (.mtArrive x.me dl true (grpDigest x.record)) ∧
          ∃ t y, exec (.mldRed f) s = .next t ∧ grpOf t s.c.part g = some y ∧ ∃ r ∈ y.reds, ∃ a ∈ r.arrivals, a.ctx = s.c.id ∧ a.stamp = s.now ∧
            a.vec = (List.range s.c.vlen).map fun e =>
              BitVec.ofNat 32 (fConv (tyFmt f.ty.toNat) fp32 0 (s.elem (tyWidth f.ty.toNat) f.a.toNat e)).1))) ∧
  (∀ (s : State) (f : H3),
    let w := tyWidth f.ty.toNat / 8
    (∀ h, s.c.hold = some h →
      ((∃ x ∈ h.many, x.2 = none) → exec (.mst f) s = .next s) ∧
      ((∀ x ∈ h.many, x.2 ≠ none) → SetsSome (.mst f) s f.d fun m => ∀ i < 64, m.getLsbD i =
        decide (∃ p ∈ h.aux.zip h.many, p.1.toNat = i ∧ (p.2.2.map FAns.st) ≠ some 0))) ∧
    (s.c.hold = none →
      (∀ c v, mstFault s f = some (c, v) → Traps (.mst f) s s c v) ∧
      ∀ x, mstFault s f = none → grpOf s s.c.part (f.imm.toNat % 64) = some x →
        let es := s.c.actives f.mask 0 s.c.vlen
        (es = [] ∨ mstMembers x = [] → Sets (.mst f) s f.d 0) ∧
        (es ≠ [] → mstMembers x ≠ [] → ∃ t h, exec (.mst f) s = .next t ∧ t.c.hold = some h ∧ t.c.pc = s.c.pc ∧ t.mem = s.mem ∧
          (∀ n, t.reg n = s.reg n) ∧ h.aux = (mstMembers x).map wd ∧ h.many.length = (mstMembers x).length ∧
          ∀ k < (mstMembers x).length, ∃ v ∈ t.resvs, h.many[k]? = some (v.tag, none) ∧ v.flit.payload.take 16 =
            leBytes 8 (((s.reg f.a.toNat).toNat + es.headD 0 * w) % 2 ^ 64) ++ leBytes 8 (s.elem (8 * w) f.b.toNat (es.headD 0))))) ∧
  ∀ (s : State) (part g child : Nat) (vec : List (BitVec 32)) (x : Grp) (r : Red),
    (grpOf s part g = none → exec (.reductionPartial part g child vec) s = .next s ∧ exec (.reductionResult part g vec) s = .next s) ∧
    (grpOf s part g = some x → grpLen x.record ≠ vec.length →
      exec (.reductionPartial part g child vec) s = .next s ∧ exec (.reductionResult part g vec) s = .next s) ∧
    (grpOf s part g = some x → grpLen x.record = vec.length → x.reds = [r] →
      (r.sent = false → r.verdict = none →
        ∃ t, exec (.reductionPartial part g child vec) s = .next t ∧ t.mem = s.mem ∧ t.c = s.c ∧
          grpOf t part g = some { x with early := x.early ++ [(child, vec)] }) ∧
      ∀ (a : Arrival) (v : RedV) (w : Wait) (vd d1 d2 g' n : Nat), r.verdict = some v → r.result = none → r.arrivals = [a] →
        s.c.alive = true → s.c.entering = false → a.ctx = s.c.id → s.c.wait = some w → w.op = .reduce vd d1 d2 g' → w.limit = none →
        w.stamp = a.stamp → VecSpace s 32 n → vec.length ≤ s.groupCap 32 n →
        let ends := fun (i : Instr) (new : Nat → Nat) => ∃ t, exec i s = .next t ∧ t.c.pc = s.c.nextPc ∧ t.c.wait = none ∧
          t.c.ws = wd (v.code % 8) ∧ t.mem = s.mem ∧ (d2 ≠ 0 → d2 < 32 → t.reg d2 = v.joined) ∧
          (d1 ≠ 0 → d1 < 32 → d1 ≠ d2 → t.reg d1 = v.absent) ∧ ∀ e < vec.length, t.elem 32 vd e = new e % 2 ^ 32
        let ps := effectiveTree x.record v.pres
        (r.sent = false → a.known = true → r.parts = [] → x.early = [] → a.vec.length = vec.length → effectiveKids ps x.me = [child] →
          ps.getD x.me 64 = x.me →
          ends (.reductionPartial part g child vec) fun e => (fAdd fp32 0 (a.vec.getD e 0).toNat (vec.getD e 0).toNat).1) ∧
        (r.sent = true → ends (.reductionResult part g vec) fun e => (vec.getD e 0).toNat))

/-- Major 0x30 and the lease unit's steps. -/
def Obligations.Leases : Prop :=
  (∀ (s : State) (f : H3),
    let term := (s.reg f.b.toNat).toNat
    let req : LeaseReq := { ctx := s.c.id, d := f.d.toNat, part := s.c.part, k := (s.reg f.a.toNat).toNat, term := term,
                            taker := f.imm.toNat % 16, giver := f.imm.toNat / 16 % 16, stamp := s.now }
    let id := freeLeaseId s s.c.part
    (s.tick.toNat + s.myPart.whz.toNat < term → Traps (.bwl f) s s 0x09 (wd term)) ∧
    (term ≤ s.tick.toNat + s.myPart.whz.toNat → s.c.alive = true →
      (unitBusy s = true → (s.leaseQ = [] ∨ ∃ r l, s.leaseQ = .ask r :: l) → ∃ t, exec (.bwl f) s = .next t ∧
        t.leaseQ = s.leaseQ ++ [.ask req] ∧ t.leases = s.leases ∧ t.c.pc = s.c.pc ∧ t.c.wait ≠ none) ∧
      (unitBusy s = false → s.leaseQ = [] →
        (∀ n, leaseReason s req = some n → s.c.line.isSome = true → ∃ t, exec (.bwl f) s = .next t ∧ Retired s t ∧ t.c.wait = none ∧
          t.mem = s.mem ∧ (f.d ≠ 0 → ∃ i < 16, t.reg f.d.toNat = wd (n * 2 ^ 16 + i * 2 ^ 8)) ∧ t.leases = s.leases) ∧
        (leaseReason s req = none → ∃ t l, exec (.bwl f) s = .next t ∧ t.c.pc = s.c.pc ∧ t.c.wait ≠ none ∧ t.mem = s.mem ∧
          (∀ n, t.reg n = s.reg n) ∧ leaseOf t s.c.part id = some l ∧ l.state = 1 ∧ l.drained = false ∧ l.taker = req.taker ∧
          l.giver = req.giver ∧ l.term = term ∧ l.k = reducedCount s s.c.part req.k req.giver req.taker ∧
          l.upTo = (s.link req.giver).sentN ∧ l.inc = (s.part s.c.part).inc ∧ l.ctx = some (s.c.id, f.d.toNat))))) ∧
  (∀ (s : State) (f : H3),
    let id := f.imm.toNat % 16
    let d := f.imm.toNat % 16
    let now := clockNow s
    (leaseOf s s.c.part id = none → Sets (.bwr f) s f.d 1 ∧ Sets (.bwq f) s f.d 0) ∧
    (∀ l, leaseOf s s.c.part id = some l →
      (l.inc ≠ (s.part s.c.part).inc → Sets (.bwr f) s f.d 1 ∧ Sets (.bwq f) s f.d 0) ∧
      (l.inc = (s.part s.c.part).inc →
        let does := fun (l' : Lease) => ∃ t, exec (.bwr f) s = .next t ∧ Retired s t ∧ t.mem = s.mem ∧ (f.d ≠ 0 → t.reg f.d.toNat = 0) ∧
          leaseOf t s.c.part id = some l'
        let named := { l with end_ := 2, endAt := now }
        (l.state ≠ 4 → returned s l = true ∨ (l.state = 3 ∧ l.endAt ≠ now) → Sets (.bwr f) s f.d 2) ∧
        (s.leaseQ = [] → l.end_ ≠ 2 →
          (l.state = 1 → does (if l.end_ = 0 ∨ (l.endAt = now ∧ 2 < endRow l.end_) then named else l)) ∧
          (l.state = 2 → does { named with state := 3, drained := false, upTo := (s.link l.taker).sentN }) ∧
          (l.state = 3 → l.endAt = now → does (if l.end_ = 0 ∨ 2 < endRow l.end_ then named else l))) ∧
        (l.state = 4 → Sets (.bwr f) s f.d 1) ∧
        Sets (.bwq f) s f.d (wd (l.state + l.end_ * 2 ^ 4 + l.taker * 2 ^ 8 + l.giver * 2 ^ 12 + l.kGot % 256 * 2 ^ 16)))) ∧
    SetsSome (.bwqD f) s f.d fun x =>
      let stands := fun (p : Lease → Nat) => ((s.leases.filter fun l => l.part == s.c.part && l.state == 2 && p l == d).length) % 16
      x.toNat % 2 ^ 8 = (s.link d).w % 256 ∧ x.toNat / 2 ^ 8 % 2 ^ 8 = shareOf s s.c.part d % 256 ∧
      x.toNat / 2 ^ 16 % 2 ^ 8 = guaranteed s d % 256 ∧ x.toNat / 2 ^ 24 % 2 ^ 8 = ceilingOf s d % 256 ∧ x.getLsbD 32 = (s.link d).up ∧
      x.toNat / 2 ^ 33 % 2 ^ 4 = stands Lease.taker ∧ x.toNat / 2 ^ 37 % 2 ^ 4 = stands Lease.giver) ∧
  (∀ (s : State) (part id : Nat) (l : Lease), leaseOf s part id = some l →
    let becomes := fun (i : Instr) (l' : Lease) => ∃ t, exec i s = .next t ∧ t.mem = s.mem ∧ t.c = s.c ∧ leaseOf t part id = some l'
    let reverts := fun (code : Nat) =>
      { l with state := 3, end_ := code, endAt := clockNow s, drained := false, upTo := (s.link l.taker).sentN }
    let drained := { l with drained := true, drainAt := s.now }
    (drainDue s l = false → exec (.leaseDrainComplete part id) s = .next s) ∧
    (drainDue s l = true → becomes (.leaseDrainComplete part id) drained ∧ ∃ t, exec (.leaseDrainComplete part id) s = .next t ∧
      (l.state = 1 → l.giver < 10 → l.taker < 10 → Leaves t l.giver (LeaseFlit 0 l.k) ∧ Leaves t l.taker (LeaseFlit 1 l.k)) ∧
      (l.state = 3 → l.taker < 10 → (s.link l.taker).up = true → Leaves t l.taker (LeaseFlit 3 l.kGot))) ∧
    (l.state = 2 → s.leaseQ = [] → becomes (.leaseRevocation part id) (reverts 3) ∧ (l.term ≤ s.now → becomes (.leaseTerm part id) (reverts 1)) ∧
      ∀ d, l.giver = d → starvedNow s d = true → becomes (.starvationReclaim d) (reverts 4)) ∧
    (l.state = 2 → s.now < l.term → exec (.leaseTerm part id) s = .next s) ∧
    (∀ d, starvedNow s d = false → exec (.starvationReclaim d) s = .next s) ∧
    (l.state = 3 → l.drained = false → exec (.leaseReversionComplete part id) s = .next s) ∧
    (l.giver < 10 → l.taker < 10 → l.giver ≠ l.taker → part < 64 → s.leaseQ = [] → l.inc = (s.part part).inc →
      let moved := fun (t : State) (n : Nat) => (t.link l.giver).w = (s.link l.giver).w - n ∧ (t.link l.taker).w = (s.link l.taker).w + n ∧
        shareOf t part l.giver = shareOf s part l.giver - n ∧ shareOf t part l.taker = shareOf s part l.taker + n
      (∀ k, l.state = 1 → l.drained = true → s.now < l.start + 2 ^ 16 → s.now ≤ l.term → l.end_ = 0 → 0 < k → k ≤ l.k →
        ∃ t, exec (.leaseGrant part id k) s = .next t ∧ moved t k ∧ leaseOf t part id = some { l with kGot := k, ctx := none, state := 2 } ∧
          ∀ d, l.ctx = some (s.c.id, d) → s.c.alive = true → s.c.entering = false → d ≠ 0 → d < 32 → t.c.pc = s.c.nextPc ∧ t.c.wait = none ∧
            t.reg d = wd (k % 256 + id % 16 * 2 ^ 8 + (if k < l.k then 1 else 0) * 2 ^ 16 + l.k % 256 * 2 ^ 24)) ∧
      (∀ k, l.state = 1 → l.start + 2 ^ 16 ≤ s.now → l.ctx = none →
        ∃ t, exec (.leaseGrant part id k) s = .next t ∧ moved t 0 ∧ t.leases = s.leases.erase l) ∧
      (l.state = 3 → l.drained = true → ∃ t, exec (.leaseReversionComplete part id) s = .next t ∧
        (t.link l.giver).w = (s.link l.giver).w + l.kGot ∧ (t.link l.taker).w = (s.link l.taker).w - l.kGot ∧
        shareOf t part l.giver = shareOf s part l.giver + l.kGot ∧ shareOf t part l.taker = shareOf s part l.taker - l.kGot ∧
        leaseOf t part id = some { l with state := 4 }))) ∧
  ∀ (s : State) (d k : Nat), d < 10 →
    let l := s.link d
    let n := if retuningLink s d = true then 0 else min k (min (144 - (l.inbound + l.resvRx)) l.cap)
    let m := min k l.inbound
    (∃ t, exec (.leaseRequestAtPeer d k) s = .next t ∧ t.mem = s.mem ∧ t.c = s.c ∧ (t.link d).inbound = l.inbound + n ∧
      Leaves t d (LeaseFlit 2 n)) ∧
    exec (.leaseReleaseNotice d k) s = .next (s.setLink d fun l => { l with inbound := l.inbound - m, resvRx := l.resvRx + m })

/-- Major 0x31, ROUTING_ITEM_DELIVERY and ROUTING_ANSWER. -/
def Obligations.RoutingEngine : Prop :=
  (∀ (s : State) (f : H3),
    let x := s.side
    let side := fun (t : State) => sideOf t s.c.part (dieOfCore s.c.core)
    let gives := fun (i : Instr) (r : Word) (P : State → Prop) => ∃ t, exec i s = .next t ∧ Retired s t ∧ (f.d ≠ 0 → t.reg f.d.toNat = r) ∧
      (∀ n, n ≠ f.d.toNat → t.reg n = s.reg n) ∧ P t
    let same := fun (t : State) => t.mem = s.mem ∧ side t = x
    (∀ c y, x.going = some c → c ≠ s.c.id → s.ctx? c = some y →
      ∀ i ∈ [Instr.rtOpen f, .rtAdd f, .rtGo f, .rtStat f, .rtClose f], ∃ t, exec i s = .next t ∧ t.c.pc = s.c.pc ∧ t.mem = s.mem ∧
        t.c.hold ≠ none ∧ (∀ n, t.reg n = s.reg n) ∧ (side t).lists = x.lists ∧ (side t).counters = x.counters ∧ s.c.id ∈ (side t).queue) ∧
    (x.going = none → x.queue = [] → let v := setSide s { x with queue := [s.c.id] }
      (let a := s.reg f.a.toNat
       let n := (s.reg f.b.toNat).toNat
       (n < 1 ∨ 256 < n ∨ a.toNat % 64 ≠ 0 → gives (.rtOpen f) 1 same) ∧
       (1 ≤ n → n ≤ 256 → a.toNat % 64 = 0 → x.isOpen = true → gives (.rtOpen f) 2 same) ∧
       ∀ bs u, 1 ≤ n → n ≤ 256 → a.toNat % 64 = 0 → x.isOpen = false →
         loadLines v s.agent a.toNat ((2 * n + 63) / 64) = .ok bs u → u.c = s.c → u.e1 = s.e1 → u.e2 = s.e2 → u.sides = v.sides →
         let m := (List.range n).map fun i => leNat ((bs.drop (2 * i)).take 2)
         ((∃ d ∈ m, inDomain s d = false) → gives (.rtOpen f) 3 fun t => t.mem = u.mem ∧ side t = x) ∧
         ((∀ d ∈ m, inDomain s d = true) → gives (.rtOpen f) 0 fun t => t.mem = u.mem ∧ (side t).isOpen = true ∧ (side t).map = m ∧
           (∀ l ∈ (side t).lists, l.2 = []) ∧ (∀ d, d ∈ m ↔ ∃ l ∈ (side t).lists, l.1 = d) ∧ ((side t).lists.map Prod.fst).Nodup ∧
           ∀ i < 6, (side t).counters[i]? = some 0)) ∧
      (let w := s.reg f.b.toNat
       let a := (s.reg f.a.toNat).toNat
       let e := w.toNat % 256
       let dev := x.map.getD e 0
       let full := ∃ l, x.lists.find? (fun l => l.1 == dev) = some l ∧ 1024 ≤ l.2.length
       (x.isOpen = false → gives (.rtAdd f) 1 same) ∧
       (x.isOpen = true → x.map.length ≤ e ∨ w.toNat / 2 ^ 54 ≠ 0 → gives (.rtAdd f) 2 same) ∧
       (x.isOpen = true → e < x.map.length → w.toNat < 2 ^ 54 →
         (full → gives (.rtAdd f) 3 same) ∧ (¬full → a % 64 ≠ 0 → gives (.rtAdd f) 4 same) ∧
         (¬full → a % 64 = 0 → gives (.rtAdd f) 0 fun t => t.mem = s.mem ∧
           (side t).counters[0]?.getD 0 = x.counters[0]?.getD 0 + 1 ∧ (∀ i, 0 < i → (side t).counters[i]? = x.counters[i]?) ∧
           (side t).map = x.map ∧
           (∀ d, d ≠ dev → (side t).lists.find? (fun l => l.1 == d) = x.lists.find? fun l => l.1 == d) ∧
           ∀ l, x.lists.find? (fun l => l.1 == dev) = some l → ∃ it : RItem,
             (side t).lists.find? (fun l => l.1 == dev) = some (dev, l.2 ++ [it]) ∧ it.payload = a ∧ it.got = [] ∧ it.tag = none ∧
             it.header.toNat = e + w.toNat / 2 ^ 48 % 64 * 2 ^ 10 + s.dev % 2 ^ 16 * 2 ^ 16 + w.toNat / 2 ^ 16 % 2 ^ 16 * 2 ^ 32 +
               w.toNat / 2 ^ 32 % 2 ^ 16 * 2 ^ 48 + w.toNat / 2 ^ 8 % 256 * 2 ^ 64))) ∧
      (let u := sendSide (setSide (releaseAt v 4) { x with queue := [s.c.id], going := some s.c.id, delivered := 0 }) s.c.part (dieOfCore s.c.core)
       (x.isOpen = false → gives (.rtGo f) 0 same) ∧
       (x.isOpen = true → fillsOut s = true → ∃ t, exec (.rtGo f) s = .next t ∧ t.c.pc = s.c.pc ∧ t.c.hold ≠ none ∧ t.mem = s.mem ∧
         (side t).lists = x.lists ∧ (side t).going = none) ∧
       (x.isOpen = true → fillsOut s = false → x.items = 0 → gives (.rtGo f) 0 fun t => t.mem = s.mem ∧ (side t).lists = x.lists) ∧
       (x.isOpen = true → fillsOut s = false → u.c = s.c → (side u).items = 0 →
         gives (.rtGo f) (wd (side u).delivered) fun t => t.mem = u.mem ∧ (side t).going = none ∧ (side t).counters = (side u).counters) ∧
       (x.isOpen = true → fillsOut s = false → u.c = s.c → (side u).items ≠ 0 → ∃ t, exec (.rtGo f) s = .next t ∧ t.c.pc = s.c.pc ∧
         t.c.hold ≠ none ∧ side t = { side u with queue := [] })) ∧
      (let i := (s.reg f.a.toNat).toNat
       gives (.rtStat f) (if 5 < i then BitVec.allOnes 64 else x.counters[i]?.getD 0) same) ∧
      (x.isOpen = false → gives (.rtClose f) 1 same) ∧
      (x.isOpen = true → gives (.rtClose f) 0 fun t => t.mem = s.mem ∧ (side t).isOpen = false ∧ (side t).lists = []))) ∧
  (∀ (s : State) (f : H3),
    let n := f.imm.toNat % 256
    let dl := (s.reg f.dl.toNat).toNat
    let e := (s.reg f.a.toNat).toNat
    let within := dl ≤ s.tick.toNat + s.myPart.whz.toNat
    (¬within → Traps (.rtRecv f) s s 0x09 (wd dl)) ∧
    (bufOf s s.c.part n = none → Traps (.rtOpenRx f) s s 0x08 (wd n) ∧ Traps (.rtCloseRx f) s s 0x08 (wd n) ∧
      (within → Traps (.rtRecv f) s s 0x08 (wd n))) ∧
    ∀ b, bufOf s s.c.part n = some b →
      let bound := fun (i : Instr) (b' : Buf) => ∃ t, exec i s = .next t ∧ Retired s t ∧ t.mem = s.mem ∧ (f.d ≠ 0 → t.reg f.d.toNat = 0) ∧
        bufOf t s.c.part n = some b'
      (s.uns = true → 4 ≤ b.reach s → Sets (.rtOpenRx f) s f.d ones ∧ Sets (.rtCloseRx f) s f.d ones) ∧
      (s.uns = false ∨ b.reach s < 4 → b.home = s.dev →
        (if 255 < e then Sets (.rtOpenRx f) s f.d 1
         else if b.lgsz < 10 ∨ b.host = true then Sets (.rtOpenRx f) s f.d 2
         else if ∃ x ∈ s.bufs, x.part = b.part ∧ x.n ≠ b.n ∧ x.expert = some e ∧ x.home = s.dev then Sets (.rtOpenRx f) s f.d 3
         else if b.expert ≠ none ∧ b.expert ≠ some e then Sets (.rtOpenRx f) s f.d 4
         else bound (.rtOpenRx f) { b with expert := some e, claims := [] }) ∧
        (if b.expert = none then Sets (.rtCloseRx f) s f.d 1
         else if ∃ w ∈ b.recvs, w.routed = true then Sets (.rtCloseRx f) s f.d 2
         else bound (.rtCloseRx f) { b with expert := none })) ∧
      (b.home = s.dev → within → b.expert = none → Traps (.rtRecv f) s s 0x08 (wd n)) ∧
      (s.uns = false ∨ b.reach s < 4 → b.home ≠ s.dev → Asks (.rtOpenRx f) s s b.home (.buf s.c.part b.n) (.query 3 e) ∧
        Asks (.rtCloseRx f) s s b.home (.buf s.c.part b.n) (.query 4 0)) ∧
      (within → b.home ≠ s.dev ∨ b.expert ≠ none →
        (s.uns = false ∨ b.reach s < 4 → Asks (.rtRecv f) s s b.home (.buf s.c.part n) (.cbRecv (f.imm.toNat / 256) dl true)) ∧
        (s.uns = true → 4 ≤ b.reach s → EndsWith (.rtRecv f) s f.d f.b wsNOVERDICT ones ones))) ∧
  (∀ (s : State) (f : Flit), f.kind = 6 → f.ddev.toNat = s.dev → f.sdev.toNat ≠ s.dev →
    let i := Instr.routingItemDelivery f
    let v := takeDue (turnOf s f) f.dpart.toNat (.fabricRequest f)
    let item := applyItem v f.sdev.toNat f.dpart.toNat (f.opd.setWidth 128) f.payload
    StreamOrder i s f ∧
    (NextHere s f → takesFor s f = true → itemWaits s f = true → exec i s = .next (setStream s { streamOf s f with ahead := [f] })) ∧
    (NextHere s f → takesFor s f = true → itemWaits s f = false →
      (behindBusy v f = true ∨ (s.part f.dpart.toNat).ckPhase ≠ 0 → exec i s = .next (sendBusy v f)) ∧
      (behindBusy v f = false → (s.part f.dpart.toNat).ckPhase = 0 → (∀ u, item = (none, u) → exec i s = .next (sendBusy v f)) ∧
        ∀ op u, item = (some op, u) → u.streams = v.streams → exec i s = .next (sendAnswer u f op [] 0)))) ∧
  (∀ (s : State) (sdev part : Nat) (h : BitVec 128) (payload : List Byte),
    let buf := s.bufs.find? fun b => b.part == part && b.expert == some (h.toNat % 256) && b.home == s.dev
    let bs := leBytes 16 h.toNat ++ List.replicate 48 0 ++ payload
    (buf = none → applyItem s sdev part h payload = (some 3, s)) ∧
    ∀ b, buf = some b → payload.length = 512 →
      (bufFree b = 0 → applyItem s sdev part h payload = (some 3, s)) ∧
      let va := b.base + b.rpos * 2 ^ b.lgsz
      (bufFree b ≠ 0 → slotOk s part va (2 ^ b.lgsz) = false → applyItem s sdev part h payload = (some 3, s.postEvent part 10 0 b.n)) ∧
      (bufFree b ≠ 0 → slotOk s part va (2 ^ b.lgsz) = true → ∀ u, writeItem s part (watchWho sdev part 0 1) va bs 9 = .ok () u →
        u.bufs = s.bufs → ∃ t, applyItem s sdev part h payload = (some 0, t) ∧
          bufOf t part b.n = some { b with slots := (b.slots.set b.rpos (.reserved 0)).set b.rpos .filled, rpos := (b.rpos + 1) % b.cap, rsv := b.rsv + 1 })) ∧
  ∀ (s : State) (part die tag op : Nat),
    ((∀ r ∈ s.resvs, r.tag ≠ tag) → exec (.routingAnswer part die tag op) s = .next s) ∧
    ∀ it x, (∃ r ∈ s.resvs, r.tag = tag) → pullItem (sideOf s part die) tag = some (it, x) →
      ∃ t, exec (.routingAnswer part die tag op) s = .next t ∧ t.mem = s.mem ∧ (∀ r ∈ t.resvs, r.tag ≠ tag) ∧
        let y := sideOf t part die
        let up := fun (i : Nat) => i < 6 → y.counters[i]?.getD 0 = x.counters[i]?.getD 0 + 1
        (op = 0 → y.lists = x.lists ∧ y.delivered = x.delivered + 1 ∧ up (if hdrRank it.header = 1 then 2 else 1)) ∧
        (op = 3 → up 4 ∧ (hdrRank it.header = 1 ∨ hasSecond x it.header = false → y.lists = x.lists ∧ up 3) ∧
          (hdrRank it.header = 0 → hasSecond x it.header = true → ∀ l, x.lists.find? (fun l => l.1 == x.map.getD (hdrSec it.header) 0) = some l →
            ∃ it', y.lists.find? (fun l => l.1 == x.map.getD (hdrSec it.header) 0) = some (l.1, l.2 ++ [it']) ∧
              hdrExp it'.header = hdrSec it.header ∧ hdrSec it'.header = hdrExp it.header ∧ hdrRank it'.header = 1 ∧
              it'.payload = it.payload ∧ it'.tag = none)) ∧
        (op ≠ 0 → op ≠ 3 → y.lists = x.lists ∧ up 3)

/-- Majors 0x32 and 0x35 with their device steps. -/
def Obligations.MetersAndCheckpoints : Prop :=
  (let sealed := fun (s t : State) (p reason : Nat) =>
     let x := s.part p
     let y := t.part p
     let field := fun (i n : Nat) => leNat ((y.record.drop i).take n)
     y.snap = x.snap + 1 ∧ y.chainBefore = x.chain ∧ y.chain = digestVal (sha384 (digestBytes x.chain ++ y.record)) ∧ y.meters = x.meters ∧
     y.record.length = 320 ∧ field 0 8 = (x.snap + 1) % 2 ^ 64 ∧ field 8 8 = s.tick.toNat ∧ field 22 1 = p ∧ field 24 1 = reason ∧
     field 32 8 = x.owner.toNat ∧ ∀ i : Fin 32, field (64 + 8 * i.val) 8 = x.meters[i].toNat
   (∀ (s : State) (f : H2),
     (s.c.priv ≠ 2 → Sets (.flmRd f) s f.d ((s.part s.c.part).meters[f.imm.toNat % 32]?.getD 0)) ∧
     (s.c.priv = 2 → (s.reg f.a.toNat).toNat < 64 → Sets (.flmRd f) s f.d ((s.part (s.reg f.a.toNat).toNat).meters[f.imm.toNat % 32]?.getD 0)) ∧
     (s.c.priv = 2 → 64 ≤ (s.reg f.a.toNat).toNat → Sets (.flmRd f) s f.d ones ∧ Sets (.flmSeal f) s f.d ones) ∧
     ∀ p < 64, (s.c.priv = 1 ∧ p = s.c.part) ∨ (s.c.priv = 2 ∧ p = (s.reg f.a.toNat).toNat) → ∃ t, exec (.flmSeal f) s = .next t ∧ Retired s t ∧
       t.mem = s.mem ∧ sealed s t p 1 ∧ (f.d ≠ 0 → t.reg f.d.toNat = wd ((s.part p).snap + 1)) ∧ ∀ q, q ≠ p → t.part q = s.part q) ∧
   ∀ s : State, (meterDue s = false → exec .meterSnapshot s = .next s) ∧
     (meterDue s = true → ∃ t, exec .meterSnapshot s = .next t ∧ t.mem = s.mem ∧ t.c = s.c ∧ t.metered = s.now / 2 ^ 20 ∧
      ∀ p < 64, if (s.part p).st = .free ∧ p ≠ 0 then t.part p = s.part p else sealed s t p 0)) ∧
  (∀ (s : State) (f : H2), s.c.hold = none → s.c.resume = none →
    let out := (s.reg f.d.toNat).toNat
    let a := (s.reg f.a.toNat).toNat
    let len := (s.reg f.b.toNat).toNat
    (out % 64 ≠ 0 → Traps (.dgst f) s s 0x04 (wd out)) ∧
    (out % 64 = 0 → 0 < len → out < a + len → a < out + 64 → Sets (.dgst f) s f.d 1) ∧
    (out % 64 = 0 → len = 0 ∨ a + len ≤ out ∨ out + 64 ≤ a →
      (2 ^ 52 < len → Sets (.dgst f) s f.d 2) ∧
      ∀ x y u t, len ≤ 2 ^ 52 → digestRead s a len { sha := shaInit, blk := [], k := 0 } len = (.ok x u, y) →
        storeMem u u.agent out ((shaEnd x.sha x.blk len).bytes.take 48 ++ leBytes 8 len ++ List.replicate 8 0) = .ok () t →
        exec (.dgst f) s = .next (t.setReg f.d.toNat 0).adv)) ∧
  (∀ l : List (List Byte), (∀ p ∈ l, p.length ≤ 8) →
    let x := l.foldl Digest.take { sha := shaInit, blk := [], k := 0 }
    x.k = l.flatten.length ∧ (shaEnd x.sha x.blk l.flatten.length).bytes.take 48 = sha384 l.flatten) ∧
  (∀ (s : State) (f : H3), s.c.priv = 2 →
    let a := s.reg f.a.toNat
    let p := a.toNat
    let x := s.part p
    let does := fun (i : Instr) (phase : Nat) (P : State → Prop) => ∃ t, exec i s = .next t ∧ Retired s t ∧ t.mem = s.mem ∧
      (f.d ≠ 0 → t.reg f.d.toNat = 0) ∧ (t.part p).ckPhase = phase ∧ (t.part p).ckStart = s.now ∧ P t
    (64 ≤ p → ∀ i ∈ [Instr.ckpGo f, .ckpSt f, .ckpRb f], Sets i s f.d ones) ∧
    (p = 0 → ∀ i ∈ [Instr.ckpGo f, .ckpSt f, .ckpRb f], Sets i s f.d 1) ∧
    (0 < p → p < 64 →
      (if x.st ≠ .live ∨ x.cke = false then Sets (.ckpGo f) s f.d 2 else if x.ckPhase ≠ 0 then Sets (.ckpGo f) s f.d 3
       else does (.ckpGo f) 1 fun t => (t.part p).ckHas = x.ckHas ∧ (t.part p).ckN = x.ckN) ∧
      (if x.st ≠ .live ∨ x.ckHas = false then Sets (.ckpRb f) s f.d 2 else if x.ckPhase = 4 then Sets (.ckpRb f) s f.d 3
       else s.c.part ≠ p → does (.ckpRb f) 4 fun t => ∀ c ∈ t.ctxs, c.part ≠ p) ∧
      (x.ckPhase < 8 → x.ckLast < 16 → SetsSome (.ckpSt f) s f.d fun w => w.toNat % 8 = x.ckPhase ∧ w.getLsbD 3 = x.ckHas ∧
        w.toNat / 2 ^ 4 % 16 = x.ckLast ∧ w.toNat / 2 ^ 8 % 2 ^ 24 = x.ckN % 2 ^ 24 ∧ w.toNat / 2 ^ 32 = x.ckBlocks % 2 ^ 32))) ∧
  ∀ (s : State) (p : Nat), p < 64 →
    let x := s.part p
    let becomes := fun (i : Instr) (P : State → Prop) => ∃ t, exec i s = .next t ∧ t.mem = s.mem ∧ P t
    let abandoned := fun (t : State) => (t.part p).ckPhase = 0 ∧ (t.part p).ckLast = 2 ∧ (t.part p).ckHas = x.ckHas ∧ (t.part p).ckN = x.ckN ∧
      (t.part p).ckAll = x.ckAll ∧ (t.part p).ckList = x.ckList ∧ ∀ k ∈ t.ckpts, k.part = p → k.done = true
    (x.ckPhase = 3 → becomes (.checkpointCommitAck p true) fun t => (t.part p).ckPhase = 0 ∧ (t.part p).ckLast = 1 ∧ (t.part p).ckHas = true ∧
      (t.part p).ckN = x.ckN + 1 ∧ (t.part p).ckAll = false ∧ (t.part p).ckList = [] ∧ ∀ k ∈ t.ckpts, k.part = p → k.done = true) ∧
    (x.ckPhase = 2 ∨ x.ckPhase = 3 → becomes (.checkpointCommitAck p false) abandoned ∧
      (x.ckStart + 2 ^ 16 ≤ s.now → becomes (.checkpointTimeout p) abandoned) ∧
      (s.now < x.ckStart + 2 ^ 16 → exec (.checkpointTimeout p) s = .next s)) ∧
    (0 < p →
      (x.st = .live → x.stop = none → x.cke = true → x.ckHas = true → x.ckPhase ≠ 4 →
        becomes (.uncontainedError (.inPart p)) fun t => (t.part p).ckPhase = 4 ∧ ∀ c ∈ t.ctxs, c.part ≠ p) ∧
      (x.st = .assigned ∨ x.st = .live ∧ (x.cke = false ∨ x.ckHas = false) → x.stop = none →
        becomes (.uncontainedError (.inPart p)) fun t => ((t.part p).stop.map Stop.kill) = some true ∧ ∀ c ∈ t.ctxs, c.part ≠ p) ∧
      (x.st = .free ∨ x.st = .scrub → exec (.uncontainedError (.inPart p)) s = .next s) ∧
      ∀ slice set_ way, ((s.smap[slice]?.getD 0).extractLsb' 0 6).toNat = p → ∃ t, exec (.uncontainedError (.tag slice set_ way)) s = .next t ∧
        (∀ l ∈ t.tcl, ¬(l.slice = slice ∧ l.set_ = set_ ∧ l.way = way)) ∧
        (x.st = .live → x.stop = none → x.cke = true → x.ckHas = true → x.ckPhase ≠ 4 → (t.part p).ckPhase = 4) ∧
        (x.st = .live → x.stop = none → x.cke = false → ((t.part p).stop.map Stop.kill) = some true)) ∧
    ∀ unit, ∃ t, exec (.uncontainedError (.data unit)) s = .next t ∧ t.mem = s.mem ∧ t.c = s.c ∧ ∀ k, k ∈ t.poison ↔ k = unit ∨ k ∈ s.poison

/-- Majors 0x33 and 0x34, SCRUB_BLOCK and FUNCTION_LEVEL_RESET. -/
def Obligations.PartitionLife : Prop :=
  (∀ (s : State) (f : H3), s.c.priv = 2 →
    let a := s.reg f.a.toNat
    let p := a.toNat
    let x := s.part p
    let inside := 0 < p ∧ p < 64
    let done := fun (i : Instr) (P : State → Prop) => ∃ t, exec i s = .next t ∧ Retired s t ∧ (f.d ≠ 0 → f.d ≠ f.b → t.reg f.d.toNat = 0) ∧ P t
    let begun := fun (i : Instr) (kill : Bool) => s.c.part ≠ p → ∃ t, exec i s = .next t ∧ t.c.pc = s.c.pc ∧ t.c.hold ≠ none ∧ t.mem = s.mem ∧
      (∀ n, t.reg n = s.reg n) ∧ ((t.part p).stop.map fun y => (y.stamp, y.kill, y.flr)) = some (s.now, kill, 0) ∧
      ∀ c ∈ t.ctxs, c.part = p → kill = false ∧ midVector c = true
    (¬inside → Sets (.prtAsg f) s f.d 1 ∧ Sets (.prtStop f) s f.d 1 ∧ Sets (.prtSt f) s f.d ones) ∧
    (64 ≤ p → ∃ t, exec (.prtKill f) s = .next t ∧ Retired s t ∧ (f.d ≠ 0 → t.reg f.d.toNat = ones) ∧ (f.b ≠ 0 → t.reg f.b.toNat = ones)) ∧
    (p = 0 → Sets (.prtKill f) s f.d 1) ∧
    (inside →
      (x.st = .free → done (.prtAsg f) fun t => t.mem = s.mem ∧ (t.part p).st = .assigned ∧ (t.part p).owner = s.reg f.b.toNat ∧
        (t.part p).inc = (if x.inc = 255 then 1 else x.inc + 1) ∧ (t.part p).flrc = 0 ∧ (t.part p).snap = x.snap + 1 ∧
        ∀ q, q ≠ p → t.part q = s.part q) ∧
      (x.st = .stopped ∨ x.st = .scrub → Sets (.prtAsg f) s f.d 2) ∧ (x.st = .assigned ∨ x.st = .live → Sets (.prtAsg f) s f.d 3) ∧
      SetsSome (.prtSt f) s f.d (fun w => w.toNat % 8 = x.st.code ∧ w.getLsbD 3 = x.kz ∧ w.toNat / 2 ^ 8 % 256 = min 255 ((x.stop.map Stop.flr).getD x.flrc) ∧
        w.toNat / 2 ^ 16 % 256 = x.inc.toNat ∧ w.toNat / 2 ^ 32 = x.scrt % 2 ^ 32) ∧
      (s.c.hold ≠ none → (x.stop ≠ none → exec (.prtStop f) s = .next s ∧ exec (.prtKill f) s = .next s) ∧
        (x.stop = none → Sets (.prtStop f) s f.d 0 ∧ done (.prtKill f) fun t => t.mem = s.mem ∧ (f.b ≠ 0 → t.reg f.b.toNat = wd x.scrStart))) ∧
      (s.c.hold = none →
        (x.st ≠ .assigned → x.st ≠ .live → Sets (.prtStop f) s f.d 2) ∧ (x.st = .free ∨ x.st = .scrub → Sets (.prtKill f) s f.d 2) ∧
        (x.st = .assigned ∨ x.st = .live → x.stop = none → begun (.prtStop f) false ∧ begun (.prtKill f) true) ∧
        (x.st = .stopped → done (.prtKill f) fun t => (t.part p).st = .scrub ∧ (t.part p).key = 0 ∧ (t.part p).kz = true ∧
          (f.b ≠ 0 → t.reg f.b.toNat = wd (s.now + 1)) ∧ (t.part p).scrStart = s.now + 1 ∧ (t.part p).scrDone = 0 ∧
          (t.part p).scrt = 16 * (cspUnits x).length + 512 * (granulesOf x).length)))) ∧
  (∀ (s : State) (p : Nat) (st : Stop), p < 64 → (s.part p).stop = some st → st.kill = false → st.cleared = false →
    st.stamp + 1260 ≤ s.now → (∀ l ∈ s.leases, l.part ≠ p) → dueDone s p = true →
    let t := progressStop s p
    (t.part p).st = .stopped ∧ (t.part p).stop = none ∧ (t.part p).flrc = st.flr ∧ (∀ c ∈ t.ctxs, c.part ≠ p) ∧ (∀ x ∈ t.seats, x.part ≠ p) ∧
    (∀ x ∈ t.meets, x.part ≠ p) ∧ (∀ x ∈ t.locks, x.part ≠ p) ∧ (∀ x ∈ t.bufs, x.part ≠ p) ∧ (∀ x ∈ t.chains, x.part ≠ p) ∧
    (∀ x ∈ t.graphs, x.part ≠ p) ∧ (∀ x ∈ t.binds, x.part ≠ p) ∧ (∀ x ∈ t.wins, x.part ≠ p) ∧ (∀ x ∈ t.grps, x.part ≠ p) ∧
    (∀ x ∈ t.copies, x.part ≠ p) ∧ ∀ x ∈ t.saved, x.part ≠ p) ∧
  (∀ (s t : State) (f : H3) (r : List Byte), s.c.priv = 2 →
    let a := s.reg f.a.toNat
    let b := s.reg f.b.toNat
    let p := a.toNat
    (64 ≤ p → Sets (.prtNew f) s f.d ones) ∧ (p < 64 → b.toNat % 1024 ≠ 0 → Traps (.prtNew f) s s 0x04 b) ∧
    (p < 64 → b.toNat % 1024 = 0 → loadLines s s.agent b.toNat 16 = .ok r t →
      let answers := fun (n : Nat) => exec (.prtNew f) s = .next (t.setReg f.d.toNat (wd n)).adv
      let x := t.part p
      if p = 0 then answers 1 else if x.st ≠ .assigned ∨ x.stop ≠ none then answers 2 else if recWellFormed t r = false then answers 3
      else if recHeld t p r = true then answers 4 else if saveShort t p r = true then answers 5 else if x.kz = true then answers 6
      else t.rots = [] → t.stale = [] → t.c.alive = true → (∀ x ∈ t.seats, 0 < x.size) → ∃ u c q l, exec (.prtNew f) s = .next u ∧ Retired t u ∧ u.mem = t.mem ∧ (f.d ≠ 0 → u.reg f.d.toNat = 0) ∧
        (u.part p).st = .live ∧ (u.part p).entry = fieldAt r 48 7 ∧ (u.part p).ranges = recRanges r ∧ (u.part p).whz = 2 ^ 20 ∧
        (u.part p).tvec = 0 ∧ recSeats r = q :: l ∧ c ∈ u.ctxs ∧ c.part = p ∧ c.priv = 1 ∧ c.pc.toNat = fieldAt r 48 7 ∧ c.reg 1 = a ∧
        c.core = q.core ∧ c.pos = q.pos ∧ c.slot = 0 ∧ c.alive = true)) ∧
  (∀ (s t : State) (f : H2) (img : List Byte), s.c.priv = 2 →
    let a := s.reg f.a.toNat
    let b := s.reg f.b.toNat
    let p := a.toNat
    let x := s.part p
    let inside := 0 < p ∧ p < 64
    let changes := fun (i : Instr) (P : State → Prop) => ∃ u, exec i s = .next u ∧ Retired s u ∧ u.mem = s.mem ∧ P u
    (¬inside → Sets (.keyZ f) s f.d 1 ∧ Sets (.scbGo f) s f.d 1 ∧ Sets (.scbSt f) s f.d ones) ∧
    (inside →
      (x.st = .assigned ∨ x.st = .live → Sets (.keyZ f) s f.d 2) ∧
      (x.st ≠ .assigned → x.st ≠ .live → changes (.keyZ f) fun u => (f.d ≠ 0 → u.reg f.d.toNat = 0) ∧ (u.part p).key = 0 ∧ (u.part p).kz = true) ∧
      (x.st = .scrub → Sets (.scbGo f) s f.d 3) ∧ (x.st ≠ .scrub → x.st ≠ .stopped ∨ x.kz = false → Sets (.scbGo f) s f.d 2) ∧
      (x.st = .stopped → x.kz = true → changes (.scbGo f) fun u => (u.part p).st = .scrub ∧ (u.part p).scrStart = s.now + 1 ∧ (u.part p).scrDone = 0 ∧
        (u.part p).scrt = 16 * (cspUnits x).length + 512 * (granulesOf x).length ∧ (f.b ≠ 0 → u.reg f.b.toNat = wd (s.now + 1)) ∧
        (f.d ≠ 0 → f.d ≠ f.b → u.reg f.d.toNat = 0)) ∧
      Sets (.scbSt f) s f.d (wd (4096 * (if x.st = .scrub then min x.scrDone (s.now - x.scrStart) else x.scrDone)))) ∧
    (¬inside → Sets (.keyLd f) s f.d 1) ∧ (inside → b.toNat % 64 ≠ 0 → Traps (.keyLd f) s s 0x04 b) ∧
    (inside → b.toNat % 64 = 0 → loadLines s s.agent b.toNat 1 = .ok img t →
      let answers := fun (n : Nat) => exec (.keyLd f) s = .next (t.setReg f.d.toNat (wd n)).adv
      if (t.part p).st ≠ .assigned then answers 2 else if img.take 32 = (img.drop 32).take 32 then answers 3
      else ∃ u, exec (.keyLd f) s = .next u ∧ Retired t u ∧ u.mem = t.mem ∧ (f.d ≠ 0 → u.reg f.d.toNat = 0) ∧
        (u.part p).key = BitVec.ofNat 512 (leNat img) ∧ (u.part p).kz = false)) ∧
  ∀ (s : State) (p : Nat), p < 64 →
    let x := s.part p
    (scrubDue s p = false → exec (.scrubBlock p) s = .next s) ∧
    (∀ key pa, scrubDue s p = true → scrubPlace s x x.scrDone = some (key, pa) → pa.any (switching s) = false → Memory.wf s.mem = true →
      ∃ t, exec (.scrubBlock p) s = .next t ∧ t.c = s.c ∧ (t.part p).scrDone = x.scrDone + 1 ∧ (∀ k, key ≤ k → k < key + 4096 → t.byteAt k = 0) ∧
        ∀ k, k < key ∨ key + 4096 ≤ k → (∀ q j, pa = some q → j < 4 → k < skewKey q j ∨ skewKey q j + 4096 ≤ k) → t.byteAt k = s.byteAt k) ∧
    let resets := fun (P : State → Prop) => ∃ t, exec (.functionLevelReset (p + 1)) s = .next t ∧ t.mem = s.mem ∧ (t.part p).tdisp = 0 ∧ P t
    (x.st = .free → resets fun t => (t.part p).flrc = x.flrc ∧ t.c = s.c) ∧
    (x.st = .stopped ∨ x.st = .scrub ∧ scrubEnds s x = false → resets fun t => (t.part p).flrc = min 255 (x.flrc + 1)) ∧
    (x.st = .scrub → scrubEnds s x = true → resets fun t => (t.part p).flrc = x.flrc) ∧
    (x.st = .assigned ∨ x.st = .live → x.stop = none → resets fun t =>
      ((t.part p).stop.map fun y => (y.stamp, y.kill, y.byReset, y.flr)) = some (s.now, false, true, 1) ∧
      ∀ c ∈ t.ctxs, c.part = p → midVector c = true) ∧
    (x.st = .assigned ∨ x.st = .live → ∀ y, x.stop = some y → resets fun t => (t.part p).stop = some { y with flr := min 255 (y.flr + 1) })

/-- NOTIFY, HOST_MEMORY_REQUEST, TDISP_REQUEST, SPDM_GET_MEASUREMENTS, DEVICE_RESET, LIFE_CYCLE_CHANGE, the thermal steps and the
migration steps. A throttle between 100 and 105 degrees is the model's reading (NOTES). -/
def Obligations.HostAndDevice : Prop :=
  (∀ (s : State) (p : Nat), p < 64 →
    let vf := p + 1
    let x := s.part p
    let does := fun (i : Instr) (P : State → Prop) => ∃ t, exec i s = .next t ∧ P t
    let silent := s.boot ≠ .running ∨ (x.st = .free ∧ p ≠ 0)
    (∀ (v : BitVec 32) (ro : Bool),
      (silent → exec (.notify vf v ro) s = .next s) ∧
      (¬silent → x.ckPhase ≠ 0 ∨ (ro = false ∧ hostPosted s vf = true) →
        exec (.notify vf v ro) s = .next { s with later := s.later ++ [.notify vf v ro] }) ∧
      (¬silent → x.ckPhase = 0 → ro = true ∨ hostPosted s vf = false → does (.notify vf v ro) fun t => (t.part p).ntf = x.ntf + 1 ∧
        (t.part p).ronc = (if ro = true then x.ronc + 1 else x.ronc) ∧
        ((∀ b ∈ s.bufs, b.part = p → b.n = v.toNat % 256 → b.host = false) → t.c = s.c ∧ t.bufs = s.bufs ∧ t.mem = s.mem))) ∧
    (∀ (addr len : Nat) (data : List Byte), ¬silent → x.ckPhase = 0 → s.redir = [] → addr + len ≤ hbmEnd → 0 < len → Memory.wf s.mem = true →
      let read := Instr.hostMemoryRequest vf addr false data len
      let write := Instr.hostMemoryRequest vf addr true data len
      (hostCut s p read = true ∨ hostReach s p addr len = false → exec read s = .next { s with out := s.out ++ [.completion none] }) ∧
      (hostCut s p write = true ∨ hostReach s p addr len = false → exec write s = .next s) ∧
      (hostCut s p read = false → hostReach s p addr len = true → hostWaiting s addr len = true ∨ hostPosted s vf = true →
        exec read s = .next { takeDue s p read with later := s.later ++ [.hostMemoryRequest vf addr false [] len] }) ∧
      (hostReach s p addr len = true → hostWaiting s addr len = false →
        (hostCut s p read = false → hostPosted s vf = false → poisoned s addr len = false → does read fun t => t.mem = s.mem ∧ t.c = s.c ∧
          t.out = s.out ++ [.completion (some ((List.range len).map fun i => s.byteAt (addr + i)))]) ∧
        (hostCut s p write = false → (∀ i < len, switching s (addr + i) = false) → data.length = len → does write fun t => (∀ i < len, t.byteAt (addr + i) = data.getD i 0) ∧
          ∀ k, k < addr ∨ addr + len ≤ k → t.byteAt k = s.byteAt k))) ∧
    (¬silent → x.ckPhase = 0 → hostPosted s vf = true → exec (.hostMemoryRequest vf (2 ^ 52 + 8) false [] 8) s =
      .next { s with later := s.later ++ [.hostMemoryRequest vf (2 ^ 52 + 8) false [] 8] }) ∧
    (¬silent → x.ckPhase = 0 → hostPosted s vf = false → does (.hostMemoryRequest vf (2 ^ 52 + 8) false [] 8) fun t => t.mem = s.mem ∧
      t.out = s.out ++ [.completion (if hostCut s p (.hostMemoryRequest vf (2 ^ 52 + 8) false [] 8) = true then none
        else some (leBytes 4 x.ronc.toNat ++ leBytes 4 x.ntf.toNat))]) ∧
    (∀ k, let ok := (k = 1 ∧ x.tdisp = 0) ∨ (k = 2 ∧ x.tdisp = 1) ∨ k = 0; (ok → does (.tdispRequest vf k) fun t => (t.part p).tdisp = k ∧ t.mem = s.mem ∧ t.c = s.c) ∧ (¬ok → exec (.tdispRequest vf k) s = .next s)) ∧
    ∀ (r : Option Nat) (nonce : Nat), does (.spdmGetMeasurements r (16 + p) nonce) fun t => t.mem = s.mem ∧ t.c = s.c ∧ ∃ sig,
      t.out = s.out ++ [if r = none ∨ r = some vf then
          .spdm (16 + p) (some (x.record ++ digestBytes x.chainBefore ++ digestBytes x.chain)) sig (some .rawBitStream)
        else .spdm (16 + p) none sig none]) ∧
  (∀ (s : State) (r : Option Nat) (k nonce : Nat), 2 ≤ k → k ≤ 4 → ∃ t sig, exec (.spdmGetMeasurements r k nonce) s = .next t ∧
    t.out = s.out ++ [.spdm k (some (digestBytes (s.meas[k - 1]?.getD 0))) sig (some .mutableFirmware)]) ∧
  (∀ (s : State) (addr len : Nat) (data : List Byte) (vf : Nat), hostKey ≤ addr → addr + len ≤ 2 ^ 52 → 0 < len → data.length = len → Memory.wf s.mem = true →
    exec (.hostMemoryRequest vf addr false data len) s = .next s ∧
    ∃ t, exec (.hostMemoryRequest vf addr true data len) s = .next t ∧ (∀ i < len, t.byteAt (addr + i) = data.getD i 0) ∧
      ∀ k, k < addr ∨ addr + len ≤ k → t.byteAt k = s.byteAt k) ∧
  (∀ s : State, Memory.wf s.mem = true →
    let wiped := fun (t : State) => (∀ p < 64, (t.part p).st = .free ∧ (t.part p).kz = true ∧ (t.part p).key = 0) ∧
      (∀ k, t.byteAt k = if isHost k = true then s.byteAt k else 0) ∧ t.ctxs.length = 1 ∧ t.dev = s.dev ∧ t.bootCount = s.bootCount + 1
    (∃ t, exec .deviceReset s = .next t ∧ wiped t ∧ t.life = s.life ∧ t.boot = .booting 0 ∧ t.tick = 0 ∧ ∀ i : Fin 8, t.meas[i] = 0) ∧
    (∃ t, exec .thermalShutdown s = .next t ∧ wiped t ∧ t.life = s.life ∧ t.boot = .thermalHold) ∧
    (s.boot = .thermalHold → exec .coolingRestored s = .next { s with boot := .booting 0 }) ∧
    (s.boot ≠ .thermalHold → exec .coolingRestored s = .next s) ∧
    ∀ (signed : Bool) (k : Nat),
      (signed = true → (s.life, k) ∈ [(0, 1), (1, 2), (2, 3), (3, 1)] → ∃ t, exec (.lifeCycleChange signed k) s = .next t ∧ wiped t ∧ t.life = k ∧
        t.meas = s.meas ∧ t.tick = s.tick) ∧
      (signed = false ∨ (s.life, k) ∉ [(0, 1), (1, 2), (2, 3), (3, 1)] → exec (.lifeCycleChange signed k) s = .next s)) ∧
  (∀ (s : State) (temp : Nat), ∃ t, exec (.thermalThrottle temp) s = .next t ∧ t.c = s.c ∧ t.mem = s.mem ∧
    (105 ≤ temp → t.throttle = min 7 (s.throttle + 1)) ∧ (temp < 100 → t.throttle = s.throttle - 1)) ∧
  ∀ (s : State) (src dst : Nat), Memory.wf s.mem = true →
    let from_ := storageOf s src * 65536
    let copied := fun (t : State) (b : Nat) => (∀ i < 65536, t.byteAt (b * 65536 + i) = s.byteAt (from_ + i)) ∧
      ∀ k, k < b * 65536 ∨ b * 65536 + 65536 ≤ k → t.byteAt k = s.byteAt k
    (src < 2 ^ 23 → src ≠ dst → spareBlock s dst = true → (∀ m ∈ s.migrs, m.src ≠ src ∧ m.dst ≠ src) →
      ∃ t, exec (.migrationStart src dst) s = .next t ∧ copied t dst ∧
        t.migrs = s.migrs ++ [{ src := src, dst := dst, dirty := [], switching := false }]) ∧
    (src = dst ∨ 2 ^ 23 ≤ src ∨ spareBlock s dst = false ∨ (∃ m ∈ s.migrs, m.src = src ∨ m.dst = src) →
      exec (.migrationStart src dst) s = .next s) ∧
    ((∀ m ∈ s.migrs, m.src ≠ src) → exec (.migrationSwitch src) s = .next s ∧ exec (.migrationDone src) s = .next s) ∧
    ∀ m, s.migrs.find? (fun m => m.src == src) = some m →
      (m.switching = true → exec (.migrationSwitch src) s = .next s ∧ ∃ t, exec (.migrationDone src) s = .next t ∧
        (∀ y ∈ t.migrs, y.src ≠ src) ∧ (m.waiting = [] → copied t m.dst ∧
          ∀ i < 65536, t.byteAt (hbmKey t (src * 65536 + i)) = s.byteAt (hbmKey s (src * 65536 + i))) ∧
        ∀ pa bs, m.waiting = [(pa, bs)] → (closedFrame s pa = true → copied t m.dst) ∧
          (closedFrame s pa = false → src < 2 ^ 23 → pa / 65536 = src → pa % 128 + bs.length ≤ 128 → ∀ i < bs.length, t.byteAt (hbmKey t (pa + i)) = bs.getD i 0)) ∧
      (m.switching = false → exec (.migrationDone src) s = .next s ∧
        (m.dirty.length ≤ 16 → ∃ t, exec (.migrationSwitch src) s = .next t ∧ t.mem = s.mem ∧
          t.migrs.find? (fun m => m.src == src) = some { m with switching := true, since := s.now }) ∧
        (16 < m.dirty.length → ∃ t, exec (.migrationSwitch src) s = .next t ∧ copied t m.dst ∧
          t.migrs.find? (fun m => m.src == src) = some { m with dirty := [] }))

/-- The steps of the fabric's transport and of the common tick. -/
def Obligations.FabricAndLinks : Prop :=
  (∀ (s : State) (f : Flit),
    let p := f.dpart.toNat
    let i := Instr.fabricRequest f
    let v := takeDue (turnOf s f) p i
    (isRequestHere s f = false → exec i s = .next s) ∧
    (isRequestHere s f = true → StreamOrder i s f) ∧
    (isRequestHere s f = true → NextHere s f → takesFor s f = true →
      (behindBusy v f = true ∨ (s.part p).ckPhase ≠ 0 → exec i s = .next (sendBusy v f)) ∧
      (behindBusy v f = false → (s.part p).ckPhase = 0 →
        (f.kind = 7 → mstRefused v f = false → ∀ stops l u, mstStore v f (2 ^ f.lgw.toNat) (mstElems f) = (stops, l, u) → u.poison = [] →
          u.streams = v.streams → (stops = false → l = [] → f.fn = 1 → exec i s = .next (sendAnswer u f 0 [] 0)) ∧
          (stops = true → exec i s = .next (sendAnswer u f 3 [] 0))) ∧
        (f.kind = 1 → 2 < f.op.toNat → exec i s = .next (sendAnswer v f 3 [] 0)) ∧
        (f.kind = 1 → f.op.toNat ≤ 2 →
          let w := if f.op = 1 ∧ f.len ≠ 0 then f.len.toNat else 2 ^ f.lgw.toNat
          let a := f.addr.toNat
          let granted := ∃ m ∈ s.imports, m.dev = f.sdev.toNat ∧ m.part = f.spart.toNat ∧ m.base ≤ a ∧ a + w ≤ m.base + m.size ∧
            (f.op ≠ 0 → m.wr = true)
          let o := (s.part (ownerOf s (a / 2 ^ 21))).st
          (¬granted ∨ o = .stopped ∨ o = .scrub ∨ hbmEnd < a + w → exec i s = .next (sendAnswer v f 3 [] 0)) ∧
          (granted → o ≠ .stopped → o ≠ .scrub → a + w ≤ hbmEnd →
            (f.op ≠ 0 → (∃ x ∈ pieces a w (w / 128 + 2), switching s x.1 = true) → exec i s = .next (sendBusy v f)) ∧
            (s.redir = [] → Memory.wf s.mem = true →
              (f.op = 0 → poisoned s a w = false → ∃ u, u.mem = s.mem ∧ u.c = s.c ∧
                exec i s = .next (sendAnswer u f 0 (leBytes w (s.bytesAt a w)) 0)) ∧
              (f.op = 0 → poisoned s a w = true → exec i s = .next (sendAnswer v f 4 [] 0)) ∧
              (f.op = 1 → (∀ x ∈ pieces a w (w / 128 + 2), switching s x.1 = false) → ∃ u, exec i s = .next (sendAnswer u f 0 [] 0) ∧
                (∀ k < w, u.byteAt (a + k) = BitVec.ofNat 8 (flitData f / 2 ^ (8 * k))) ∧
                ∀ k, k < a ∨ a + w ≤ k → u.byteAt k = s.byteAt k))))))) ∧
  (∀ (s : State) (f : Flit) (tag : Nat) (h : Hold), tag = f.tag.toNat → s.c.hold = some h →
    let here := f.kind = 2 ∧ f.ddev.toNat = s.dev ∧ freshAnswer s f = true ∧ ∃ r ∈ s.resvs, r.tag = tag
    let answered := fun (i : Instr) (a : FAns) => sideWith s tag = none → ∃ t, exec i s = .next t ∧ t.mem = s.mem ∧ t.c.pc = s.c.pc ∧
      (∀ n, t.reg n = s.reg n) ∧ (∀ r ∈ t.resvs, r.tag ≠ tag) ∧
      (h.tag = some tag → t.c.hold.map Hold.ans = some (some a)) ∧ (h.tag ≠ some tag → t.c.hold.map Hold.ans = some h.ans)
    (¬here → exec (.fabricAnswer f) s = .next s) ∧
    (here → f.op ≠ 1 → (∀ r ∈ s.resvs, r.tag = tag → r.msg = none) → answered (.fabricAnswer f) { st := f.op.toNat, val := flitData f }) ∧
    (here → f.op = 1 → ∀ r, s.resvs.find? (fun r => r.tag == tag) = some r → r.msg = none →
      ∃ t, exec (.fabricAnswer f) s = .next t ∧ t.c = s.c ∧ t.mem = s.mem ∧ t.resvs.find? (fun r => r.tag == tag) =
        some { r with start := s.now, busyUntil := if r.flit.oseq = f.oseq then some (s.now + f.retry.toNat) else r.busyUntil }) ∧
    ((∃ r ∈ s.resvs, r.tag = tag ∧ r.start + 2 ^ 16 ≤ s.now ∧ r.msg = none) → mstQueued s tag = false →
      (∀ r ∈ s.resvs, r.tag = tag → r.host = none) → answered (.requestTimeout tag) { st := 5, val := 0 }) ∧
    ((∀ r ∈ s.resvs, r.tag = tag → s.now < r.start + 2 ^ 16) → exec (.requestTimeout tag) s = .next s)) ∧
  (∀ (s : State) (tag : Nat),
    ((∀ r ∈ s.resvs, r.tag = tag → retryDue s r = false) → exec (.busyRetry tag) s = .next s) ∧
    (∀ r, s.resvs.find? (fun r => r.tag == tag && retryDue s r) = some r → ∃ u,
      exec (.busyRetry tag) s = .next (sendFlit u r.flit.spart.toNat r.flit) ∧ u.c = s.c ∧ u.mem = s.mem ∧ u.links = s.links ∧
      u.out = s.out ++ r.msg.toList.map (Out.msg r.flit.ddev.toNat) ∧
      u.resvs = updFirst (fun x => x == r) (fun r => { r with busyUntil := none }) s.resvs)) ∧
  (∀ (s : State) (dev part inc : Nat), ∃ t, exec (.incarnationNotice dev part inc) s = .next t ∧ t.c = s.c ∧ t.mem = s.mem ∧
    incOf t dev part = BitVec.ofNat 8 inc ∧ ∀ e q, (e, q) ≠ (dev, part) → incOf t e q = incOf s e q) ∧
  (∀ (s : State) (d peer e1 e2 rtt : Nat) (set : LinkSetup),
    let i := Instr.linkTraining d peer e1 e2 rtt set
    let u := applySetup s d set
    (∀ a, set.far = some a → exec i s = .next (newRoutes { s with farDown := s.farDown.filter fun x => x != (a, d) })) ∧
    (∀ a b c, set.place = some (a, b, c) → bringUp s = true → (∀ k < 10, (s.link k).rtt = 0) → u.dev = a % 2 ^ 16 ∧
      u.e1 = max 1 (min 64 b) ∧ u.e2 = max 1 (min 64 c)) ∧
    (set.far = none → trainOk u d peer e1 e2 = false → exec i s = .next u) ∧
    (set.far = none → trainOk u d peer e1 e2 = true → (s.link d).queue = [] → (∀ l ∈ s.links.toList, l.escQ = []) → s.unrouted = [] →
      ∃ t, exec i s = .next t ∧ t.c = s.c ∧ t.mem = s.mem ∧ (t.link d).up = true ∧
        (∀ n, set.tick = some n → bringUp u = true → u.tickSet = false → t.tick = BitVec.ofNat 64 n ∧ t.tickSet = true) ∧
        (set.tick = none ∨ bringUp u = false ∨ u.tickSet = true → t.tick = s.tick) ∧
        (t.link d).peer = peer ∧ (t.link d).txSeq = 0 ∧ (t.link d).rxSeq = 0 ∧ (t.link d).rtt = max 1 rtt ∧
        (t.link d).w = trainedW s d ∧ (t.link d).inbound = 48 - (s.link d).resvRx ∧
        t.tgb.toNat / 2 ^ 24 % 256 = (u.e1 / 2 + u.e2 / 2 + 2) % 256 ∧ t.inputs = s.inputs ++ [.timeFlitExchange] ∧
        ((s.link d).rtt = 0 → ((List.range 64).map fun p => allotOf t p d).sum = 40 - (u.link d).tr))) ∧
  (∀ (s : State) (d : Nat), d < 10 →
    let l := s.link d
    let does := fun (i : Instr) (P : Link → Prop) => ∃ t, exec i s = .next t ∧ t.c = s.c ∧ t.mem = s.mem ∧ P (t.link d)
    let sends := fun (i : Instr) (nak : Bool) => ∃ t f, exec i s = .next t ∧ t.out = s.out ++ [.flit d f] ∧ f.kind = 0 ∧ f.nak = nak ∧
      f.ack = l.rxSeq - 1
    (∀ f : Flit,
      let bad := fun (i : Instr) => does i (fun x => x.nakSent = true ∧ x.rxSeq = l.rxSeq) ∧ (l.nakSent = false → sends i true)
      (l.up = false → exec (.flitReceived d f) s = .next s) ∧
      (l.up = true → f.crc ≠ flitCrc f → bad (.flitReceived d f) ∧ does (.flitReceived d f) fun x => x.retry = l.retry) ∧
      (l.up = true → f.crc = flitCrc f → f.nak = false → l.queue = [] → l.escQ = [] →
        (∀ rest, ackedRest f.ack l.retry = some rest → f.kind = 0 → f.rsv = 0 → does (.flitReceived d f) fun x =>
          x.retry = rest ∧ x.replays = 0 ∧ x.lastAck = s.now) ∧
        (f.kind ≠ 0 ∨ f.rsv ≠ 0 → f.seq ≠ l.rxSeq → bad (.flitReceived d f)) ∧
        (f.seq = l.rxSeq → f.kind ≠ 0 → f.ddev.toNat = s.dev → f.rsv = 0 →
          let takes := fun (is : List Instr) => ∃ t, exec (.flitReceived d f) s = .next t ∧ t.c = s.c ∧ t.mem = s.mem ∧
            (t.link d).rxSeq = l.rxSeq + 1 ∧ (t.link d).nakSent = false ∧ t.inputs = s.inputs ++ is
          (f.cls = 2 → f.kind = 2 → f.op = 1 → takes [.fabricAnswer f]) ∧
          (f.kind.toNat < 8 → f.cls = 2 → ¬(f.kind = 2 ∧ f.op = 1) → takes []) ∧
          (f.cls ≠ 2 →
            (f.kind = 1 ∨ f.kind = 7 → takes [.fabricRequest f]) ∧ (f.kind = 2 → takes [.fabricAnswer f]) ∧
            (f.kind = 6 → takes [.routingItemDelivery f]) ∧
            (f.kind = 4 → f.op = 0 → takes [.leaseReleaseNotice d (f.opd.toNat % 256)]) ∧
            (f.kind = 4 → f.op = 1 → takes [.leaseRequestAtPeer d (f.opd.toNat % 256)]))))) ∧
    (replayDue s d = false → exec (.replayTimeout d) s = .next s) ∧
    (replayDue s d = true → l.replays < 16 → does (.replayTimeout d) (fun x => x.replays = l.replays + 1 ∧ x.lastAck = s.now ∧ x.up = true) ∧
      ∃ t, exec (.replayTimeout d) s = .next t ∧ t.out = s.out ++ (t.link d).retry.map (Out.flit d) ∧
        (t.link d).retry.map (fun f => (f.seq, f.tag, f.payload)) = l.retry.map fun f => (f.seq, f.tag, f.payload)) ∧
    (replayDue s d = true → 16 ≤ l.replays → does (.replayTimeout d) fun x => x.up = false) ∧
    (∀ a, exec (.linkDown (.far a d)) s = .next (newRoutes { s with farDown := (a, d) :: s.farDown.filter fun x => x != (a, d) })) ∧
    (l.up = false → exec (.linkDown (.here d)) s = .next s) ∧
    (l.up = true → does (.linkDown (.here d)) (fun x => x.up = false) ∧
      ∀ p id y, leaseOf s p id = some y → y.state = 2 → y.taker = d → ∃ t, exec (.linkDown (.here d)) s = .next t ∧
        leaseOf t p id = some { y with state := 3, end_ := 5, endAt := (s.now, s.cycle), drained := false, upTo := l.sentN }) ∧
    (idleDue s d = true → does (.idleFlit d) (fun x => x.lastTx = s.now) ∧ sends (.idleFlit d) false) ∧
    (idleDue s d = false → exec (.idleFlit d) s = .next s) ∧
    (escapeDue s d = false → exec (.escapeMove d) s = .next s) ∧
    (∀ q, stuckQueue s d = some (queueNo q) → l.queue = [q] → ∃ t f, exec (.escapeMove d) s = .next t ∧ t.c = s.c ∧ t.mem = s.mem ∧
      (t.link d).queue = [] ∧ f.esc = true ∧ f.payload = q.2.payload ∧ f.ddev = q.2.ddev ∧ f.tag = q.2.tag ∧
      ((q.1, f) ∈ t.unrouted ∨ ∃ e < 10, Out.flit e f ∈ t.out ∨ (q.1, f) ∈ (t.link e).escQ))) ∧
  ∀ s : State,
    let sign := fun (x : Int) => if 0 < x then (1 : Int) else if x < 0 then -1 else 0
    let corrected := fun (t : State) (x : Int) => if lastCycle s = true then t.adjNext = x else t.tickAdj = x
    (∃ t, exec .timeFlitExchange s = .next t ∧ t.c = s.c ∧ t.mem = s.mem ∧ corrected t (sign s.ppsOff) ∧
      t.ppsOff = s.ppsOff - sign s.ppsOff ∧
      (∀ d, treeUp s = some d → (s.link d).up = true → Leaves t d fun f =>
        f.kind = 3 ∧ f.cls = 3 ∧ f.op = 0 ∧ f.opd = BitVec.ofNat 192 s.now) ∧
      (anyDown s = true → t.tgb.toNat / 2 ^ 24 % 256 = longestRoute s % 256) ∧
      (anyDown s = false → (∃ d < 10, (s.link d).up = true) → t.tgb.toNat / 2 ^ 24 % 256 = (s.e1 / 2 + s.e2 / 2 + 2) % 256)) ∧
    (∀ (t1 t2 t3 d : Nat) (rtt : Option Nat),
      let o := (((t2 : Int) - t1) - ((s.now : Int) - t3)).tdiv 2
      ∃ t, exec (.timeFlitAnswer t1 t2 { t3 := t3, d := d, rtt := rtt }) s = .next t ∧ t.c = s.c ∧ t.mem = s.mem ∧ corrected t (sign o) ∧
        (∀ n, rtt = some n → d < 10 → (s.link d).up = true → (t.link d).rtt = max 1 n) ∧
        (1 < o.natAbs → t.uns = true ∧ t.goodTime = 0) ∧ (o.natAbs ≤ 1 → 1 ≤ s.goodTime → t.uns = false) ∧
        (o.natAbs ≤ 1 → s.goodTime = 0 → t.uns = s.uns ∧ t.goodTime = 1)) ∧
    (∃ t, exec .ppsPulse s = .next t ∧ t.c = s.c ∧ t.mem = s.mem ∧ t.pps = s.pps + 1 ∧ (s.refPresent = false → t.ppsOff = s.ppsOff) ∧
      (s.refPresent = true → t.ppsOff.natAbs ≤ 50000000 ∧ ((s.now : Int) + t.ppsOff) % 100000000 = 0)) ∧
    exec .referenceLost s = .next { s with refPresent := false, ppsOff := 0 } ∧ exec .referenceAcquired s = .next { s with refPresent := true }
end

