-- ==== Sys2Proof/Laws/Memory.lean ====
section
/-! SUPPORT. Sparse lists: a key that has been written reads as written, every other key as before, and the canonical form is
kept. Every operation that writes memory keeps `Memory.wf`. -/
namespace Sys2Proof.Machine

/-! ## Sparse lists -/

section
variable {β : Type} [DecidableEq β]

omit [DecidableEq β] in
theorem risesFrom_mono {lo lo' : Nat} {l : List (Nat × β)} (h : risesFrom lo l = true) (hl : lo' ≤ lo) : risesFrom lo' l = true := by
  cases l with
  | nil => rfl
  | cons p t =>
    simp only [risesFrom, Bool.and_eq_true, decide_eq_true_eq] at h ⊢
    exact ⟨by omega, h.2⟩

omit [DecidableEq β] in
/-- A key below every listed one is not listed. -/
theorem getCell_of_lt (d : β) {k lo : Nat} {l : List (Nat × β)} (h : risesFrom lo l = true) (hk : k < lo) : getCell d k l = d := by
  cases l with
  | nil => rfl
  | cons p t =>
    simp only [risesFrom, Bool.and_eq_true, decide_eq_true_eq] at h
    rw [getCell, if_pos (by omega)]

/-- Rising keys are kept by a write. -/
theorem risesFrom_setCell (d : β) (k : Nat) (x : β) : ∀ (l : List (Nat × β)) (lo : Nat), risesFrom lo l = true → lo ≤ k →
    risesFrom lo (setCell d k x l) = true := by
  intro l
  induction l with
  | nil => intro lo _ hk; unfold setCell; split <;> simp [risesFrom, hk]
  | cons p t ih =>
    intro lo h hk
    obtain ⟨k', y⟩ := p
    simp only [risesFrom, Bool.and_eq_true, decide_eq_true_eq] at h
    unfold setCell
    split
    · split
      · simp [risesFrom, h]
      · simp only [risesFrom, Bool.and_eq_true, decide_eq_true_eq]; exact ⟨hk, by omega, h.2⟩
    · split
      · split
        · exact risesFrom_mono h.2 (by omega)
        · subst_vars; simp only [risesFrom, Bool.and_eq_true, decide_eq_true_eq]; exact ⟨hk, h.2⟩
      · simp only [risesFrom, Bool.and_eq_true, decide_eq_true_eq]; exact ⟨h.1, ih (k' + 1) h.2 (by omega)⟩

/-- What a write leaves in the list was there before, or is the written entry and not the value of an unlisted key. -/
theorem mem_setCell (d : β) (k : Nat) (x : β) : ∀ (l : List (Nat × β)) (p : Nat × β), p ∈ setCell d k x l → p ∈ l ∨ p.2 = x ∧ x ≠ d := by
  intro l
  induction l with
  | nil =>
    intro p hp; unfold setCell at hp; split at hp
    · simp at hp
    · simp only [List.mem_singleton] at hp; subst hp; exact .inr ⟨rfl, ‹_›⟩
  | cons q t ih =>
    intro p hp
    obtain ⟨k', y⟩ := q
    unfold setCell at hp
    split at hp
    · split at hp
      · exact .inl hp
      · rcases List.mem_cons.1 hp with h | h
        · subst h; exact .inr ⟨rfl, ‹_›⟩
        · exact .inl h
    · split at hp
      · split at hp
        · exact .inl (List.mem_cons_of_mem _ hp)
        · rcases List.mem_cons.1 hp with h | h
          · subst h; exact .inr ⟨rfl, ‹_›⟩
          · exact .inl (List.mem_cons_of_mem _ h)
      · rcases List.mem_cons.1 hp with h | h
        · subst h; exact .inl (List.mem_cons_self)
        · rcases ih p h with h | h
          · exact .inl (List.mem_cons_of_mem _ h)
          · exact .inr h

/-- No entry equals what an unlisted key reads as, after a write either. -/
theorem all_setCell (d : β) (k : Nat) (x : β) (l : List (Nat × β)) (h : l.all (fun p => decide (p.2 ≠ d)) = true) :
    (setCell d k x l).all (fun p => decide (p.2 ≠ d)) = true := by
  simp only [List.all_eq_true, decide_eq_true_eq] at h ⊢
  intro p hp
  rcases mem_setCell d k x l p hp with h' | ⟨h', hx⟩
  · exact h p h'
  · rw [h']; exact hx

/-- A write keeps the canonical form. -/
theorem cellsWf_setCell (d : β) (k : Nat) (x : β) (l : List (Nat × β)) (h : cellsWf d l = true) : cellsWf d (setCell d k x l) = true := by
  simp only [cellsWf, Bool.and_eq_true] at h ⊢
  exact ⟨risesFrom_setCell d k x l 0 h.1 (Nat.zero_le k), all_setCell d k x l h.2⟩

omit [DecidableEq β] in
theorem risesFrom_filter (p : Nat × β → Bool) : ∀ (l : List (Nat × β)) (lo : Nat), risesFrom lo l = true → risesFrom lo (l.filter p) = true := by
  intro l
  induction l with
  | nil => intro lo _; rfl
  | cons q t ih =>
    intro lo h
    simp only [risesFrom, Bool.and_eq_true, decide_eq_true_eq] at h
    rw [List.filter_cons]
    split
    · simp only [risesFrom, Bool.and_eq_true, decide_eq_true_eq]; exact ⟨h.1, ih _ h.2⟩
    · exact risesFrom_mono (ih _ h.2) (by omega)

/-- Removing entries keeps the canonical form. -/
theorem cellsWf_filter (d : β) (p : Nat × β → Bool) (l : List (Nat × β)) (h : cellsWf d l = true) : cellsWf d (l.filter p) = true := by
  simp only [cellsWf, Bool.and_eq_true, List.all_eq_true] at h ⊢
  exact ⟨risesFrom_filter p l 0 h.1, fun x hx => h.2 x (List.mem_filter.1 hx).1⟩

/-- A key that has been written reads as written. -/
theorem getCell_setCell_same (d : β) (k : Nat) (x : β) : ∀ (l : List (Nat × β)) (lo : Nat), risesFrom lo l = true →
    getCell d k (setCell d k x l) = x := by
  intro l
  induction l with
  | nil => intro lo _; unfold setCell; split <;> simp_all [getCell]
  | cons p t ih =>
    intro lo h
    obtain ⟨k', y⟩ := p
    simp only [risesFrom, Bool.and_eq_true, decide_eq_true_eq] at h
    unfold setCell
    split
    · split
      · rename_i hx; rw [getCell, if_pos ‹_›, hx]
      · simp [getCell]
    · split
      · split
        · rename_i hx; rw [getCell_of_lt d h.2 (by omega), hx]
        · simp [getCell]
      · rw [getCell, if_neg ‹_›, if_neg ‹_›]; exact ih _ h.2

/-- Every other key reads as before. -/
theorem getCell_setCell_ne (d : β) (k j : Nat) (x : β) (hj : j ≠ k) : ∀ (l : List (Nat × β)) (lo : Nat), risesFrom lo l = true →
    getCell d j (setCell d k x l) = getCell d j l := by
  intro l
  induction l with
  | nil =>
    intro lo _; unfold setCell; split
    · rfl
    · simp only [getCell]; split
      · rfl
      · simp [hj]
  | cons p t ih =>
    intro lo h
    obtain ⟨k', y⟩ := p
    simp only [risesFrom, Bool.and_eq_true, decide_eq_true_eq] at h
    unfold setCell
    split
    · split
      · rfl
      · rename_i hk _
        by_cases h1 : j < k
        · rw [getCell, if_pos h1, getCell, if_pos (by omega)]
        · rw [getCell, if_neg h1, if_neg hj]
    · split
      · rename_i hk
        subst hk
        split
        · by_cases h1 : j < k
          · rw [getCell_of_lt d h.2 (by omega), getCell, if_pos h1]
          · rw [getCell, if_neg h1, if_neg hj]
        · by_cases h1 : j < k
          · rw [getCell, if_pos h1, getCell, if_pos h1]
          · rw [getCell, if_neg h1, if_neg hj, getCell, if_neg h1, if_neg hj]
      · simp only [getCell]
        rw [ih _ h.2]

end

theorem cellsWf_rises {β : Type} [DecidableEq β] {d : β} {l : List (Nat × β)} (h : cellsWf d l = true) : risesFrom 0 l = true := by
  simp only [cellsWf, Bool.and_eq_true] at h
  exact h.1

/-! ## Bytes at rising keys -/

theorem wf_setCells (bs : List Byte) : ∀ (m : List Host.Cell) (k : Nat), Memory.wf m = true → Memory.wf (setCells m k bs) = true := by
  induction bs with
  | nil => intro m k h; exact h
  | cons b t ih => intro m k h; exact ih _ _ (cellsWf_setCell unwritten k b m h)

/-- Bytes outside the written ones read as before. -/
theorem getCell_setCells_out (bs : List Byte) : ∀ (m : List Host.Cell) (k j : Nat), Memory.wf m = true → j < k ∨ k + bs.length ≤ j →
    getCell unwritten j (setCells m k bs) = getCell unwritten j m := by
  induction bs with
  | nil => intro m k j _ _; rfl
  | cons b t ih =>
    intro m k j h hj
    rw [List.length_cons] at hj
    change getCell unwritten j (setCells (setCell unwritten k b m) (k + 1) t) = _
    rw [ih _ _ _ (cellsWf_setCell unwritten k b m h) (by omega)]
    exact getCell_setCell_ne unwritten k j b (by omega) m 0 (cellsWf_rises h)

/-- The written bytes read as written. -/
theorem getCell_setCells_in (bs : List Byte) : ∀ (m : List Host.Cell) (k i : Nat), Memory.wf m = true → i < bs.length →
    getCell unwritten (k + i) (setCells m k bs) = bs.getD i 0 := by
  induction bs with
  | nil => intro m k i _ h; simp at h
  | cons b t ih =>
    intro m k i h hi
    change getCell unwritten (k + i) (setCells (setCell unwritten k b m) (k + 1) t) = _
    cases i with
    | zero =>
      rw [getCell_setCells_out t _ _ _ (cellsWf_setCell unwritten k b m h) (by omega)]
      exact getCell_setCell_same unwritten k b m 0 (cellsWf_rises h)
    | succ i =>
      rw [List.length_cons] at hi
      rw [show k + (i + 1) = (k + 1) + i by omega, ih _ _ _ (cellsWf_setCell unwritten k b m h) (by omega)]
      simp

/-- Reading bytes at rising keys. -/
theorem getCells_eq (m : List Host.Cell) (n : Nat) : ∀ k, getCells m k n = (List.range n).map fun i => getCell unwritten (k + i) m := by
  induction n with
  | zero => intro k; rfl
  | succ n ih =>
    intro k
    rw [getCells, ih, List.range_succ_eq_map, List.map_cons, List.map_map]
    congr 1
    apply List.map_congr_left
    intro i _
    simp [Function.comp, Nat.add_comm, Nat.add_left_comm, Nat.add_assoc]

/-- A fold of steps that keep a property keeps it. -/
theorem foldl_keeps {α σ : Type} (P : σ → Prop) (f : σ → α → σ) (hf : ∀ s a, P s → P (f s a)) (l : List α) (s : σ) (h : P s) :
    P (l.foldl f s) := by
  induction l generalizing s with
  | nil => exact h
  | cons a t ih => exact ih _ (hf s a h)

/-! ## What leaves memory alone -/

@[simp] theorem setPart_mem (s : State) (p : Nat) (f : Part → Part) : (s.setPart p f).mem = s.mem := rfl
@[simp] theorem meter_mem (s : State) (p i n : Nat) : (s.meter p i n).mem = s.mem := rfl

@[simp] theorem postEvent_mem (s : State) (p k w d : Nat) : (s.postEvent p k w d).mem = s.mem := rfl

@[simp] theorem markCkpt_mem (s : State) (pa : Nat) : (markCkpt s pa).mem = s.mem := by
  unfold markCkpt
  simp only []
  repeat' split
  all_goals rfl

@[simp] theorem markMigr_mem (s : State) (pa : Nat) : (markMigr s pa).mem = s.mem := by
  unfold markMigr
  split <;> rfl

@[simp] theorem unpoison_mem (s : State) (k n : Nat) : (unpoison s k n).mem = s.mem := by
  unfold unpoison
  split <;> rfl

@[simp] theorem unpoisonAll_mem (s : State) (ps : List (Nat × Nat)) : (unpoisonAll s ps).mem = s.mem := rfl
@[simp] theorem setStream_mem (s : State) (n : Nat) (f : Stream → Stream) : (s.setStream n f).mem = s.mem := rfl
@[simp] theorem withCtx_mem (s : State) (id : Nat) (f : Ctx → Ctx) : (s.withCtx id f).mem = s.mem := by
  unfold State.withCtx
  split <;> rfl

/-- A fold of steps that leave memory alone leaves it alone. -/
theorem foldl_mem {α : Type} (f : State → α → State) (hf : ∀ s a, (f s a).mem = s.mem) (l : List α) (s : State) :
    (l.foldl f s).mem = s.mem :=
  foldl_keeps (fun t : State => t.mem = s.mem) f (fun t a h => (hf t a).trans h) l s rfl

/-! ### The caches -/

@[simp] theorem noteSkew_mem (s : State) (pa k : Nat) : (noteSkew s pa k).mem = s.mem := by
  unfold noteSkew
  split <;> rfl

@[simp] theorem writeBack_mem (s : State) (p : StaleSec → Bool) : (writeBack s p).mem = s.mem := by
  unfold writeBack
  exact foldl_mem _ (fun s x => by simp) _ _

@[simp] theorem makeDirty_mem (s : State) (pa : Nat) (k : TcKey) : (makeDirty s pa k).mem = s.mem := by
  unfold makeDirty
  simp only []
  split <;> simp

@[simp] theorem evictLine_mem (s : State) (l : TcLine) : (evictLine s l).mem = s.mem := by simp [evictLine]

@[simp] theorem makeWay_mem (s : State) (a b : Nat) : (makeWay s a b).2.mem = s.mem := by
  unfold makeWay
  simp only []
  split
  · rfl
  · exact foldl_mem _ evictLine_mem _ _

@[simp] theorem touchTile_mem (s : State) (k : TcKey) (die i n : Nat) : (touchTile s k die i n).mem = s.mem := by
  unfold touchTile
  split
  · rfl
  · split <;> simp

@[simp] theorem recallSector_mem (s : State) (sec : Nat) (wr : Bool) (p : L1Line → Bool) : (recallSector s sec wr p).mem = s.mem := rfl

@[simp] theorem l1Room_mem (s : State) (t : Seat) (a : Nat) : (l1Room s t a).2.mem = s.mem := by
  unfold l1Room
  simp only []
  split
  · rfl
  · split
    · rfl
    · simp only []; split <;> simp

@[simp] theorem touchL1_mem (s : State) (t : Seat) (pa : Nat) (k : TcKey) (die : Nat) (wr : Bool) :
    (touchL1 s t pa k die wr).mem = s.mem := by
  unfold touchL1
  simp only []
  split <;> simp

@[simp] theorem cacheRead_mem (s : State) (ag : Agent) (p : Place) (n : Nat) : (cacheRead s ag p n).mem = s.mem := by
  unfold cacheRead
  split
  · split <;> simp
  · rfl
  · rfl

@[simp] theorem uncache_mem (s : State) (sec : Nat) : (uncache s sec).mem = s.mem := by
  unfold uncache
  split <;> simp

@[simp] theorem cacheWrite_mem (s : State) (ag : Agent) (p : Place) (n : Nat) : (cacheWrite s ag p n).mem = s.mem := by
  unfold cacheWrite
  split
  · split
    · simp
    · simp only []; split <;> simp
  · simp
  · rfl

@[simp] theorem forwardLine_mem (s : State) (p : Place) : (forwardLine s p).mem = s.mem := by
  unfold forwardLine
  split
  · rfl
  · simp only []; split <;> simp

@[simp] theorem bypass_mem (s : State) (pa n : Nat) : (bypass s pa n).mem = s.mem := by
  unfold bypass
  split <;> rfl

@[simp] theorem dropCaches_mem (s : State) (p : Nat) : (dropCaches s p).mem = s.mem := rfl

/-! ### Translations held -/

@[simp] theorem shootLine_mem (o s : State) (by_ line : Nat) : (shootLine o s by_ line).mem = s.mem := by
  unfold shootLine
  simp only []
  repeat' split
  all_goals rfl

@[simp] theorem shootLines_mem (o s : State) (by_ pa n : Nat) : (shootLines o s by_ pa n).mem = s.mem := by
  unfold shootLines
  split
  · rfl
  · exact foldl_mem _ (fun s i => shootLine_mem o s _ _) _ _

@[simp] theorem ackShoot_mem (s : State) (h : Holder) (line : Nat) : (ackShoot s h line).mem = s.mem := by
  unfold ackShoot
  simp only []
  split <;> simp

@[simp] theorem settleShoots_mem (s : State) (p : Shoot → Bool) : (settleShoots s p).mem = s.mem := by
  unfold settleShoots
  exact foldl_mem _ (fun s x => ackShoot_mem s _ _) _ _

@[simp] theorem touchWalk_mem (s : State) (ag : Agent) (va : Nat) : (touchWalk s ag va).mem = s.mem := by
  unfold touchWalk
  exact foldl_mem _ (fun s x => by split <;> simp) _ _

@[simp] theorem keepTrans_mem (s : State) (ag : Agent) (va e line : Nat) : (keepTrans s ag va e line).mem = s.mem := by
  unfold keepTrans
  split <;> rfl

/-! ### A write to HBM -/

/-- A write to a block in SWITCH waits, and any other reaches its storage (R233). -/
theorem pokeHbm_mem (s : State) (pa : Nat) (bs : List Byte) :
    (pokeHbm s pa bs).mem = if switching s pa then s.mem else setCells s.mem (hbmKey s pa) bs := by
  unfold pokeHbm
  split <;> simp

/-! ## Every operation that writes memory keeps its form -/

theorem reset_wf : Memory.wf State.reset.mem = true := rfl

theorem pokeHbm_wf (s : State) (pa : Nat) (bs : List Byte) (h : Memory.wf s.mem = true) : Memory.wf (pokeHbm s pa bs).mem = true := by
  rw [pokeHbm_mem]
  split
  · exact h
  · exact wf_setCells bs _ _ h

theorem discard_wf (s : State) (p : StaleSec → Bool) (h : Memory.wf s.mem = true) : Memory.wf (discard s p).mem = true := by
  unfold discard
  exact foldl_keeps (fun s : State => Memory.wf s.mem = true) _ (fun s x h => wf_setCells x.old _ _ h) _ _ h

theorem emptyWays_wf (s : State) (core pos size : Nat) (keep : Bool) (h : Memory.wf s.mem = true) :
    Memory.wf (emptyWays s core pos size keep).mem = true := by
  unfold emptyWays
  simp only []
  split
  · rw [writeBack_mem]; exact h
  · exact discard_wf _ _ h

theorem emptySlices_wf (s : State) (p : Nat → Bool) (h : Memory.wf s.mem = true) : Memory.wf (emptySlices s p).mem = true :=
  discard_wf _ _ h

theorem setAccDrt_wf (s : State) (ea : Nat) (wr : Bool) (h : Memory.wf s.mem = true) : Memory.wf (setAccDrt s ea wr).mem = true := by
  unfold setAccDrt
  simp only []
  repeat' split
  · exact h
  · exact pokeHbm_wf s ea _ h
  · exact wf_setCells _ _ _ h
  · exact h
  · exact pokeHbm_wf s ea _ h
  · exact wf_setCells _ _ _ h

theorem writePlace_wf (s : State) (ag : Agent) (p : Place) (bs : List Byte) (h : Memory.wf s.mem = true) :
    Memory.wf (writePlace s ag p bs).mem = true := by
  have hc : Memory.wf (cacheWrite s ag p bs.length).mem = true := by rw [cacheWrite_mem]; exact h
  unfold writePlace
  simp only [unpoison_mem, shootLines_mem]
  split
  · split
    · exact wf_setCells bs _ _ hc
    · exact pokeHbm_wf _ _ bs hc
  · exact wf_setCells bs _ _ hc

theorem pokePhys_wf (s : State) (pa : Nat) (bs : List Byte) (h : Memory.wf s.mem = true) : Memory.wf (pokePhys s pa bs).mem = true := by
  unfold pokePhys
  split
  · exact writePlace_wf _ _ _ bs h
  · rw [shootLines_mem]; exact wf_setCells bs _ _ h

theorem pastCaches_wf (s : State) (pa : Nat) (bs : List Byte) (h : Memory.wf s.mem = true) : Memory.wf (pastCaches s pa bs).mem = true := by
  unfold pastCaches
  split
  · simp only [unpoison_mem, shootLines_mem]
    exact pokeHbm_wf _ pa bs (by rw [uncache_mem]; exact h)
  · rw [shootLines_mem]; exact wf_setCells bs _ _ h

theorem atomicPlace_wf (s : State) (ag : Agent) (p : Place) (fn ty b e : Nat) (h : Memory.wf s.mem = true) :
    Memory.wf (atomicPlace s ag p fn ty b e).2.mem = true := by
  have key : ∀ u : State, Memory.wf u.mem = true → ∀ (c : Bool) (m : Nat) (q : Place) (bs : List Byte),
      Memory.wf (if c then (m, u) else (m, writePlace u ag q bs)).2.mem = true := by
    intro u hu c m q bs
    split
    · exact hu
    · exact writePlace_wf u _ q bs hu
  unfold atomicPlace
  simp only []
  split <;> exact key _ (by simpa using h) _ _ _ _

theorem homeWrite_wf (s : State) (ag : Agent) (kind : Nat) (data : List Byte) (l : List (Nat × Nat)) (h : Memory.wf s.mem = true) :
    Memory.wf (homeWrite s ag kind data l).mem = true := by
  induction l generalizing s data with
  | nil => exact h
  | cons x t ih => exact ih _ _ (writePlace_wf _ _ _ _ h)

theorem serveAccess_wf (s : State) (sdev spart pa kind width op fn ty b e : Nat) (data : List Byte) (h : Memory.wf s.mem = true) :
    Memory.wf (serveAccess s sdev spart pa kind width op fn ty b e data).2.2.mem = true := by
  unfold serveAccess
  simp only []
  repeat' split
  all_goals first
    | exact h
    | (simp only [cacheRead_mem]; exact h)
    | (simp only [settleBytes, settleShoots_mem]; exact homeWrite_wf _ _ _ _ _ h)
    | (simp only [settleBytes, settleShoots_mem]; exact atomicPlace_wf _ _ _ _ _ _ _ h)

theorem performHost_wf (s : State) (o : HostOp) (old : Nat) (h : Memory.wf s.mem = true) : Memory.wf (performHost s o old).mem = true :=
  wf_setCells _ _ _ h

theorem clearKeys_wf (m : List Host.Cell) (k n : Nat) (h : Memory.wf m = true) : Memory.wf (clearKeys m k n) = true :=
  cellsWf_filter unwritten _ m h

theorem clearBlock_wf (s : State) (key : Nat) (pa : Option Nat) (h : Memory.wf s.mem = true) : Memory.wf (clearBlock s key pa).mem = true := by
  unfold clearBlock
  simp only []
  split
  · rename_i pa
    refine foldl_keeps (fun s : State => Memory.wf s.mem = true) _ (fun s i h => ?_) _ _ ?_
    · rw [markMigr_mem]; exact h
    · rw [markCkpt_mem]
      exact clearKeys_wf _ _ _ (foldl_keeps (fun m : List Host.Cell => Memory.wf m = true) _ (fun m k h => clearKeys_wf m _ _ h) _ _ h)
  · exact clearKeys_wf _ _ _ h

theorem wf_clearRanges (l : List (Nat × Nat × Nat)) (m : List Host.Cell) (h : Memory.wf m = true) :
    Memory.wf (l.foldl (fun m r => clearKeys m r.1 r.2.1) m) = true :=
  foldl_keeps (fun m : List Host.Cell => Memory.wf m = true) _ (fun m r h => clearKeys_wf m r.1 r.2.1 h) _ _ h

theorem clearShares_wf (s : State) (core pos size : Nat) (h : Memory.wf s.mem = true) : Memory.wf (clearShares s core pos size).mem = true := by
  unfold clearShares
  generalize shareRanges core pos size = l
  exact wf_clearRanges l s.mem h

theorem pokeLines_wf (n : Nat) : ∀ (s : State) (pa : Nat) (bs : List Byte), Memory.wf s.mem = true →
    Memory.wf (pokeLines s pa bs n).mem = true := by
  induction n with
  | zero => intro s pa bs h; exact h
  | succ n ih => intro s pa bs h; exact ih _ _ _ (pastCaches_wf _ _ _ h)

theorem sharesIn_wf (s : State) (core pos size pa : Nat) (h : Memory.wf s.mem = true) : Memory.wf (sharesIn s core pos size pa).mem = true := by
  unfold sharesIn
  generalize shareRanges core pos size = l
  exact foldl_keeps (fun s : State => Memory.wf s.mem = true) _
    (fun s r h => foldl_keeps (fun s : State => Memory.wf s.mem = true) _ (fun s i h => wf_setCells _ _ _ h) _ s h) _ s h

theorem sharesOut_wf (s : State) (core pos size pa : Nat) (h : Memory.wf s.mem = true) :
    Memory.wf (sharesOut s core pos size pa).mem = true := by
  unfold sharesOut
  generalize shareRanges core pos size = l
  exact foldl_keeps (fun s : State => Memory.wf s.mem = true) _
    (fun s r h => foldl_keeps (fun s : State => Memory.wf s.mem = true) _ (fun s i h => pastCaches_wf _ _ _ h) _ s h) _ s h

theorem wf_unpoison_setCells (s : State) (k n : Nat) (bs : List Byte) (h : Memory.wf s.mem = true) :
    Memory.wf (unpoison { s with mem := setCells s.mem k bs } k n).mem = true := by
  rw [unpoison_mem]
  exact wf_setCells bs _ _ h

theorem haloWrite_wf (s : State) (off : Nat) (bs : List Byte) (h : Memory.wf s.mem = true) : Memory.wf (haloWrite s off bs).mem = true :=
  wf_unpoison_setCells s _ _ bs h

theorem copyBlock_wf (s : State) (a b : Nat) (h : Memory.wf s.mem = true) : Memory.wf (copyBlock s a b).mem = true :=
  foldl_keeps (fun m : List Host.Cell => Memory.wf m = true) _ (fun m c h => cellsWf_setCell unwritten _ c.2 m h) _ _
    (clearKeys_wf _ _ _ h)

theorem restoreCells_wf (s : State) (p : Nat) (cells : List Host.Cell) (h : Memory.wf s.mem = true) :
    Memory.wf (restoreCells s p cells).mem = true := by
  refine foldl_keeps (fun s : State => Memory.wf s.mem = true) _ (fun s c h => ?_) _ _ (cellsWf_filter unwritten _ _ h)
  split
  · exact cellsWf_setCell unwritten _ c.2 _ h
  · exact h

theorem wipe_wf (s : State) (h : Memory.wf s.mem = true) : Memory.wf (wipe s).mem = true := cellsWf_filter unwritten _ _ h

end Sys2Proof.Machine
end

