-- ==== Sys2Proof/Laws/State.lean ====
section
/-! SUPPORT. What the common updates of the state leave alone and what they write: one lemma for each field of each
update. -/
namespace Sys2Proof.Machine

/-! ## Registers -/

@[simp] theorem Ctx.reg_zero (c : Ctx) : c.reg 0 = 0 := rfl
@[simp] theorem Ctx.setReg_zero (c : Ctx) (x : Word) : c.setReg 0 x = c := rfl

/-- A register that has been written reads as written (R100). -/
theorem Ctx.reg_setReg_same (c : Ctx) (n : Nat) (x : Word) (h : n ≠ 0) (hn : n < 32) : (c.setReg n x).reg n = x := by
  simp [Ctx.reg, Ctx.setReg, h, hn]

/-- Another register keeps its value. -/
theorem Ctx.reg_setReg_ne (c : Ctx) (n k : Nat) (x : Word) (h : k ≠ n) : (c.setReg n x).reg k = c.reg k := by
  unfold Ctx.reg Ctx.setReg
  split
  · rfl
  · split
    · rfl
    · simp [Vector.getElem?_setIfInBounds, Ne.symm h]

@[simp] theorem State.setReg_zero (s : State) (x : Word) : s.setReg 0 x = s := rfl

theorem State.reg_setReg_same (s : State) (n : Nat) (x : Word) (h : n ≠ 0) (hn : n < 32) : (s.setReg n x).reg n = x :=
  Ctx.reg_setReg_same s.c n x h hn

theorem State.reg_setReg_ne (s : State) (n k : Nat) (x : Word) (h : k ≠ n) : (s.setReg n x).reg k = s.reg k :=
  Ctx.reg_setReg_ne s.c n k x h

/-! ## `Ctx.setReg` leaves every other field -/

@[simp] theorem Ctx.setReg_id (c : Ctx) (n : Nat) (x : Word) : (c.setReg n x).id = c.id := by
  unfold Ctx.setReg; split <;> rfl
@[simp] theorem Ctx.setReg_alive (c : Ctx) (n : Nat) (x : Word) : (c.setReg n x).alive = c.alive := by
  unfold Ctx.setReg; split <;> rfl
@[simp] theorem Ctx.setReg_core (c : Ctx) (n : Nat) (x : Word) : (c.setReg n x).core = c.core := by
  unfold Ctx.setReg; split <;> rfl
@[simp] theorem Ctx.setReg_pos (c : Ctx) (n : Nat) (x : Word) : (c.setReg n x).pos = c.pos := by
  unfold Ctx.setReg; split <;> rfl
@[simp] theorem Ctx.setReg_slot (c : Ctx) (n : Nat) (x : Word) : (c.setReg n x).slot = c.slot := by
  unfold Ctx.setReg; split <;> rfl
@[simp] theorem Ctx.setReg_part (c : Ctx) (n : Nat) (x : Word) : (c.setReg n x).part = c.part := by
  unfold Ctx.setReg; split <;> rfl
@[simp] theorem Ctx.setReg_priv (c : Ctx) (n : Nat) (x : Word) : (c.setReg n x).priv = c.priv := by
  unfold Ctx.setReg; split <;> rfl
@[simp] theorem Ctx.setReg_pc (c : Ctx) (n : Nat) (x : Word) : (c.setReg n x).pc = c.pc := by
  unfold Ctx.setReg; split <;> rfl
@[simp] theorem Ctx.setReg_line (c : Ctx) (n : Nat) (x : Word) : (c.setReg n x).line = c.line := by
  unfold Ctx.setReg; split <;> rfl
@[simp] theorem Ctx.setReg_avl (c : Ctx) (n : Nat) (x : Word) : (c.setReg n x).avl = c.avl := by
  unfold Ctx.setReg; split <;> rfl
@[simp] theorem Ctx.setReg_vl (c : Ctx) (n : Nat) (x : Word) : (c.setReg n x).vl = c.vl := by
  unfold Ctx.setReg; split <;> rfl
@[simp] theorem Ctx.setReg_vcfg (c : Ctx) (n : Nat) (x : Word) : (c.setReg n x).vcfg = c.vcfg := by
  unfold Ctx.setReg; split <;> rfl
@[simp] theorem Ctx.setReg_es (c : Ctx) (n : Nat) (x : Word) : (c.setReg n x).es = c.es := by
  unfold Ctx.setReg; split <;> rfl
@[simp] theorem Ctx.setReg_esk (c : Ctx) (n : Nat) (x : Word) : (c.setReg n x).esk = c.esk := by
  unfold Ctx.setReg; split <;> rfl
@[simp] theorem Ctx.setReg_ws (c : Ctx) (n : Nat) (x : Word) : (c.setReg n x).ws = c.ws := by
  unfold Ctx.setReg; split <;> rfl
@[simp] theorem Ctx.setReg_fps (c : Ctx) (n : Nat) (x : Word) : (c.setReg n x).fps = c.fps := by
  unfold Ctx.setReg; split <;> rfl
@[simp] theorem Ctx.setReg_cause (c : Ctx) (n : Nat) (x : Word) : (c.setReg n x).cause = c.cause := by
  unfold Ctx.setReg; split <;> rfl
@[simp] theorem Ctx.setReg_epc (c : Ctx) (n : Nat) (x : Word) : (c.setReg n x).epc = c.epc := by
  unfold Ctx.setReg; split <;> rfl
@[simp] theorem Ctx.setReg_tval (c : Ctx) (n : Nat) (x : Word) : (c.setReg n x).tval = c.tval := by
  unfold Ctx.setReg; split <;> rfl
@[simp] theorem Ctx.setReg_tst (c : Ctx) (n : Nat) (x : Word) : (c.setReg n x).tst = c.tst := by
  unfold Ctx.setReg; split <;> rfl
@[simp] theorem Ctx.setReg_v (c : Ctx) (n : Nat) (x : Word) : (c.setReg n x).v = c.v := by
  unfold Ctx.setReg; split <;> rfl
@[simp] theorem Ctx.setReg_a (c : Ctx) (n : Nat) (x : Word) : (c.setReg n x).a = c.a := by
  unfold Ctx.setReg; split <;> rfl
@[simp] theorem Ctx.setReg_m (c : Ctx) (n : Nat) (x : Word) : (c.setReg n x).m = c.m := by
  unfold Ctx.setReg; split <;> rfl
@[simp] theorem Ctx.setReg_vDirty (c : Ctx) (n : Nat) (x : Word) : (c.setReg n x).vDirty = c.vDirty := by
  unfold Ctx.setReg; split <;> rfl
@[simp] theorem Ctx.setReg_aDirty (c : Ctx) (n : Nat) (x : Word) : (c.setReg n x).aDirty = c.aDirty := by
  unfold Ctx.setReg; split <;> rfl
@[simp] theorem Ctx.setReg_mDirty (c : Ctx) (n : Nat) (x : Word) : (c.setReg n x).mDirty = c.mDirty := by
  unfold Ctx.setReg; split <;> rfl
@[simp] theorem Ctx.setReg_sat (c : Ctx) (n : Nat) (x : Word) : (c.setReg n x).sat = c.sat := by
  unfold Ctx.setReg; split <;> rfl
@[simp] theorem Ctx.setReg_q (c : Ctx) (n : Nat) (x : Word) : (c.setReg n x).q = c.q := by
  unfold Ctx.setReg; split <;> rfl
@[simp] theorem Ctx.setReg_f (c : Ctx) (n : Nat) (x : Word) : (c.setReg n x).f = c.f := by
  unfold Ctx.setReg; split <;> rfl
@[simp] theorem Ctx.setReg_d (c : Ctx) (n : Nat) (x : Word) : (c.setReg n x).d = c.d := by
  unfold Ctx.setReg; split <;> rfl
@[simp] theorem Ctx.setReg_latch (c : Ctx) (n : Nat) (x : Word) : (c.setReg n x).latch = c.latch := by
  unfold Ctx.setReg; split <;> rfl
@[simp] theorem Ctx.setReg_unf (c : Ctx) (n : Nat) (x : Word) : (c.setReg n x).unf = c.unf := by
  unfold Ctx.setReg; split <;> rfl
@[simp] theorem Ctx.setReg_kcur (c : Ctx) (n : Nat) (x : Word) : (c.setReg n x).kcur = c.kcur := by
  unfold Ctx.setReg; split <;> rfl
@[simp] theorem Ctx.setReg_prog (c : Ctx) (n : Nat) (x : Word) : (c.setReg n x).prog = c.prog := by
  unfold Ctx.setReg; split <;> rfl
@[simp] theorem Ctx.setReg_gang (c : Ctx) (n : Nat) (x : Word) : (c.setReg n x).gang = c.gang := by
  unfold Ctx.setReg; split <;> rfl
@[simp] theorem Ctx.setReg_prio (c : Ctx) (n : Nat) (x : Word) : (c.setReg n x).prio = c.prio := by
  unfold Ctx.setReg; split <;> rfl
@[simp] theorem Ctx.setReg_firing (c : Ctx) (n : Nat) (x : Word) : (c.setReg n x).firing = c.firing := by
  unfold Ctx.setReg; split <;> rfl
@[simp] theorem Ctx.setReg_born (c : Ctx) (n : Nat) (x : Word) : (c.setReg n x).born = c.born := by
  unfold Ctx.setReg; split <;> rfl
@[simp] theorem Ctx.setReg_wait (c : Ctx) (n : Nat) (x : Word) : (c.setReg n x).wait = c.wait := by
  unfold Ctx.setReg; split <;> rfl
@[simp] theorem Ctx.setReg_hold (c : Ctx) (n : Nat) (x : Word) : (c.setReg n x).hold = c.hold := by
  unfold Ctx.setReg; split <;> rfl
@[simp] theorem Ctx.setReg_resume (c : Ctx) (n : Nat) (x : Word) : (c.setReg n x).resume = c.resume := by
  unfold Ctx.setReg; split <;> rfl
@[simp] theorem Ctx.setReg_waittDone (c : Ctx) (n : Nat) (x : Word) : (c.setReg n x).waittDone = c.waittDone := by
  unfold Ctx.setReg; split <;> rfl
@[simp] theorem Ctx.setReg_bpExempt (c : Ctx) (n : Nat) (x : Word) : (c.setReg n x).bpExempt = c.bpExempt := by
  unfold Ctx.setReg; split <;> rfl
@[simp] theorem Ctx.setReg_perr (c : Ctx) (n : Nat) (x : Word) : (c.setReg n x).perr = c.perr := by
  unfold Ctx.setReg; split <;> rfl
@[simp] theorem Ctx.setReg_unseen (c : Ctx) (n : Nat) (x : Word) : (c.setReg n x).unseen = c.unseen := by
  unfold Ctx.setReg; split <;> rfl
@[simp] theorem Ctx.setReg_vq (c : Ctx) (n : Nat) (x : Word) : (c.setReg n x).vq = c.vq := by
  unfold Ctx.setReg; split <;> rfl
@[simp] theorem Ctx.setReg_stop (c : Ctx) (n : Nat) (x : Word) : (c.setReg n x).stop = c.stop := by
  unfold Ctx.setReg; split <;> rfl
@[simp] theorem Ctx.setReg_stopping (c : Ctx) (n : Nat) (x : Word) : (c.setReg n x).stopping = c.stopping := by
  unfold Ctx.setReg; split <;> rfl
@[simp] theorem Ctx.setReg_trapPc (c : Ctx) (n : Nat) (x : Word) : (c.setReg n x).trapPc = c.trapPc := by
  unfold Ctx.setReg; split <;> rfl
@[simp] theorem Ctx.setReg_waittAt (c : Ctx) (n : Nat) (x : Word) : (c.setReg n x).waittAt = c.waittAt := by
  unfold Ctx.setReg; split <;> rfl

/-! ## `Ctx.endResume` and `Ctx.stepProg` leave every other field -/

@[simp] theorem Ctx.endResume_id (c : Ctx) : c.endResume.id = c.id := by
  unfold Ctx.endResume; split <;> (try split) <;> rfl
@[simp] theorem Ctx.stepProg_id (c : Ctx) : c.stepProg.id = c.id := by
  unfold Ctx.stepProg; split <;> rfl
@[simp] theorem Ctx.endResume_alive (c : Ctx) : c.endResume.alive = c.alive := by
  unfold Ctx.endResume; split <;> (try split) <;> rfl
@[simp] theorem Ctx.stepProg_alive (c : Ctx) : c.stepProg.alive = c.alive := by
  unfold Ctx.stepProg; split <;> rfl
@[simp] theorem Ctx.endResume_core (c : Ctx) : c.endResume.core = c.core := by
  unfold Ctx.endResume; split <;> (try split) <;> rfl
@[simp] theorem Ctx.stepProg_core (c : Ctx) : c.stepProg.core = c.core := by
  unfold Ctx.stepProg; split <;> rfl
@[simp] theorem Ctx.endResume_pos (c : Ctx) : c.endResume.pos = c.pos := by
  unfold Ctx.endResume; split <;> (try split) <;> rfl
@[simp] theorem Ctx.stepProg_pos (c : Ctx) : c.stepProg.pos = c.pos := by
  unfold Ctx.stepProg; split <;> rfl
@[simp] theorem Ctx.endResume_slot (c : Ctx) : c.endResume.slot = c.slot := by
  unfold Ctx.endResume; split <;> (try split) <;> rfl
@[simp] theorem Ctx.stepProg_slot (c : Ctx) : c.stepProg.slot = c.slot := by
  unfold Ctx.stepProg; split <;> rfl
@[simp] theorem Ctx.endResume_part (c : Ctx) : c.endResume.part = c.part := by
  unfold Ctx.endResume; split <;> (try split) <;> rfl
@[simp] theorem Ctx.stepProg_part (c : Ctx) : c.stepProg.part = c.part := by
  unfold Ctx.stepProg; split <;> rfl
@[simp] theorem Ctx.endResume_priv (c : Ctx) : c.endResume.priv = c.priv := by
  unfold Ctx.endResume; split <;> (try split) <;> rfl
@[simp] theorem Ctx.stepProg_priv (c : Ctx) : c.stepProg.priv = c.priv := by
  unfold Ctx.stepProg; split <;> rfl
@[simp] theorem Ctx.endResume_pc (c : Ctx) : c.endResume.pc = c.pc := by
  unfold Ctx.endResume; split <;> (try split) <;> rfl
@[simp] theorem Ctx.stepProg_pc (c : Ctx) : c.stepProg.pc = c.pc := by
  unfold Ctx.stepProg; split <;> rfl
@[simp] theorem Ctx.endResume_line (c : Ctx) : c.endResume.line = c.line := by
  unfold Ctx.endResume; split <;> (try split) <;> rfl
@[simp] theorem Ctx.stepProg_line (c : Ctx) : c.stepProg.line = c.line := by
  unfold Ctx.stepProg; split <;> rfl
@[simp] theorem Ctx.endResume_s (c : Ctx) : c.endResume.s = c.s := by
  unfold Ctx.endResume; split <;> (try split) <;> rfl
@[simp] theorem Ctx.stepProg_s (c : Ctx) : c.stepProg.s = c.s := by
  unfold Ctx.stepProg; split <;> rfl
@[simp] theorem Ctx.endResume_avl (c : Ctx) : c.endResume.avl = c.avl := by
  unfold Ctx.endResume; split <;> (try split) <;> rfl
@[simp] theorem Ctx.stepProg_avl (c : Ctx) : c.stepProg.avl = c.avl := by
  unfold Ctx.stepProg; split <;> rfl
@[simp] theorem Ctx.endResume_vl (c : Ctx) : c.endResume.vl = c.vl := by
  unfold Ctx.endResume; split <;> (try split) <;> rfl
@[simp] theorem Ctx.stepProg_vl (c : Ctx) : c.stepProg.vl = c.vl := by
  unfold Ctx.stepProg; split <;> rfl
@[simp] theorem Ctx.endResume_vcfg (c : Ctx) : c.endResume.vcfg = c.vcfg := by
  unfold Ctx.endResume; split <;> (try split) <;> rfl
@[simp] theorem Ctx.stepProg_vcfg (c : Ctx) : c.stepProg.vcfg = c.vcfg := by
  unfold Ctx.stepProg; split <;> rfl
@[simp] theorem Ctx.stepProg_es (c : Ctx) : c.stepProg.es = c.es := by
  unfold Ctx.stepProg; split <;> rfl
@[simp] theorem Ctx.stepProg_esk (c : Ctx) : c.stepProg.esk = c.esk := by
  unfold Ctx.stepProg; split <;> rfl
@[simp] theorem Ctx.endResume_ws (c : Ctx) : c.endResume.ws = c.ws := by
  unfold Ctx.endResume; split <;> (try split) <;> rfl
@[simp] theorem Ctx.stepProg_ws (c : Ctx) : c.stepProg.ws = c.ws := by
  unfold Ctx.stepProg; split <;> rfl
@[simp] theorem Ctx.endResume_fps (c : Ctx) : c.endResume.fps = c.fps := by
  unfold Ctx.endResume; split <;> (try split) <;> rfl
@[simp] theorem Ctx.stepProg_fps (c : Ctx) : c.stepProg.fps = c.fps := by
  unfold Ctx.stepProg; split <;> rfl
@[simp] theorem Ctx.endResume_cause (c : Ctx) : c.endResume.cause = c.cause := by
  unfold Ctx.endResume; split <;> (try split) <;> rfl
@[simp] theorem Ctx.stepProg_cause (c : Ctx) : c.stepProg.cause = c.cause := by
  unfold Ctx.stepProg; split <;> rfl
@[simp] theorem Ctx.endResume_epc (c : Ctx) : c.endResume.epc = c.epc := by
  unfold Ctx.endResume; split <;> (try split) <;> rfl
@[simp] theorem Ctx.stepProg_epc (c : Ctx) : c.stepProg.epc = c.epc := by
  unfold Ctx.stepProg; split <;> rfl
@[simp] theorem Ctx.endResume_tval (c : Ctx) : c.endResume.tval = c.tval := by
  unfold Ctx.endResume; split <;> (try split) <;> rfl
@[simp] theorem Ctx.stepProg_tval (c : Ctx) : c.stepProg.tval = c.tval := by
  unfold Ctx.stepProg; split <;> rfl
@[simp] theorem Ctx.endResume_tst (c : Ctx) : c.endResume.tst = c.tst := by
  unfold Ctx.endResume; split <;> (try split) <;> rfl
@[simp] theorem Ctx.stepProg_tst (c : Ctx) : c.stepProg.tst = c.tst := by
  unfold Ctx.stepProg; split <;> rfl
@[simp] theorem Ctx.endResume_v (c : Ctx) : c.endResume.v = c.v := by
  unfold Ctx.endResume; split <;> (try split) <;> rfl
@[simp] theorem Ctx.stepProg_v (c : Ctx) : c.stepProg.v = c.v := by
  unfold Ctx.stepProg; split <;> rfl
@[simp] theorem Ctx.endResume_a (c : Ctx) : c.endResume.a = c.a := by
  unfold Ctx.endResume; split <;> (try split) <;> rfl
@[simp] theorem Ctx.stepProg_a (c : Ctx) : c.stepProg.a = c.a := by
  unfold Ctx.stepProg; split <;> rfl
@[simp] theorem Ctx.endResume_m (c : Ctx) : c.endResume.m = c.m := by
  unfold Ctx.endResume; split <;> (try split) <;> rfl
@[simp] theorem Ctx.stepProg_m (c : Ctx) : c.stepProg.m = c.m := by
  unfold Ctx.stepProg; split <;> rfl
@[simp] theorem Ctx.endResume_vDirty (c : Ctx) : c.endResume.vDirty = c.vDirty := by
  unfold Ctx.endResume; split <;> (try split) <;> rfl
@[simp] theorem Ctx.stepProg_vDirty (c : Ctx) : c.stepProg.vDirty = c.vDirty := by
  unfold Ctx.stepProg; split <;> rfl
@[simp] theorem Ctx.endResume_aDirty (c : Ctx) : c.endResume.aDirty = c.aDirty := by
  unfold Ctx.endResume; split <;> (try split) <;> rfl
@[simp] theorem Ctx.stepProg_aDirty (c : Ctx) : c.stepProg.aDirty = c.aDirty := by
  unfold Ctx.stepProg; split <;> rfl
@[simp] theorem Ctx.endResume_mDirty (c : Ctx) : c.endResume.mDirty = c.mDirty := by
  unfold Ctx.endResume; split <;> (try split) <;> rfl
@[simp] theorem Ctx.stepProg_mDirty (c : Ctx) : c.stepProg.mDirty = c.mDirty := by
  unfold Ctx.stepProg; split <;> rfl
@[simp] theorem Ctx.endResume_sat (c : Ctx) : c.endResume.sat = c.sat := by
  unfold Ctx.endResume; split <;> (try split) <;> rfl
@[simp] theorem Ctx.stepProg_sat (c : Ctx) : c.stepProg.sat = c.sat := by
  unfold Ctx.stepProg; split <;> rfl
@[simp] theorem Ctx.endResume_q (c : Ctx) : c.endResume.q = c.q := by
  unfold Ctx.endResume; split <;> (try split) <;> rfl
@[simp] theorem Ctx.stepProg_q (c : Ctx) : c.stepProg.q = c.q := by
  unfold Ctx.stepProg; split <;> rfl
@[simp] theorem Ctx.endResume_f (c : Ctx) : c.endResume.f = c.f := by
  unfold Ctx.endResume; split <;> (try split) <;> rfl
@[simp] theorem Ctx.stepProg_f (c : Ctx) : c.stepProg.f = c.f := by
  unfold Ctx.stepProg; split <;> rfl
@[simp] theorem Ctx.endResume_d (c : Ctx) : c.endResume.d = c.d := by
  unfold Ctx.endResume; split <;> (try split) <;> rfl
@[simp] theorem Ctx.stepProg_d (c : Ctx) : c.stepProg.d = c.d := by
  unfold Ctx.stepProg; split <;> rfl
@[simp] theorem Ctx.endResume_latch (c : Ctx) : c.endResume.latch = c.latch := by
  unfold Ctx.endResume; split <;> (try split) <;> rfl
@[simp] theorem Ctx.stepProg_latch (c : Ctx) : c.stepProg.latch = c.latch := by
  unfold Ctx.stepProg; split <;> rfl
@[simp] theorem Ctx.endResume_unf (c : Ctx) : c.endResume.unf = c.unf := by
  unfold Ctx.endResume; split <;> (try split) <;> rfl
@[simp] theorem Ctx.stepProg_unf (c : Ctx) : c.stepProg.unf = c.unf := by
  unfold Ctx.stepProg; split <;> rfl
@[simp] theorem Ctx.endResume_kcur (c : Ctx) : c.endResume.kcur = c.kcur := by
  unfold Ctx.endResume; split <;> (try split) <;> rfl
@[simp] theorem Ctx.stepProg_kcur (c : Ctx) : c.stepProg.kcur = c.kcur := by
  unfold Ctx.stepProg; split <;> rfl
@[simp] theorem Ctx.endResume_prog (c : Ctx) : c.endResume.prog = c.prog := by
  unfold Ctx.endResume; split <;> (try split) <;> rfl
@[simp] theorem Ctx.endResume_gang (c : Ctx) : c.endResume.gang = c.gang := by
  unfold Ctx.endResume; split <;> (try split) <;> rfl
@[simp] theorem Ctx.stepProg_gang (c : Ctx) : c.stepProg.gang = c.gang := by
  unfold Ctx.stepProg; split <;> rfl
@[simp] theorem Ctx.endResume_prio (c : Ctx) : c.endResume.prio = c.prio := by
  unfold Ctx.endResume; split <;> (try split) <;> rfl
@[simp] theorem Ctx.stepProg_prio (c : Ctx) : c.stepProg.prio = c.prio := by
  unfold Ctx.stepProg; split <;> rfl
@[simp] theorem Ctx.endResume_firing (c : Ctx) : c.endResume.firing = c.firing := by
  unfold Ctx.endResume; split <;> (try split) <;> rfl
@[simp] theorem Ctx.stepProg_firing (c : Ctx) : c.stepProg.firing = c.firing := by
  unfold Ctx.stepProg; split <;> rfl
@[simp] theorem Ctx.endResume_born (c : Ctx) : c.endResume.born = c.born := by
  unfold Ctx.endResume; split <;> (try split) <;> rfl
@[simp] theorem Ctx.stepProg_born (c : Ctx) : c.stepProg.born = c.born := by
  unfold Ctx.stepProg; split <;> rfl
@[simp] theorem Ctx.endResume_wait (c : Ctx) : c.endResume.wait = c.wait := by
  unfold Ctx.endResume; split <;> (try split) <;> rfl
@[simp] theorem Ctx.stepProg_wait (c : Ctx) : c.stepProg.wait = c.wait := by
  unfold Ctx.stepProg; split <;> rfl
@[simp] theorem Ctx.endResume_hold (c : Ctx) : c.endResume.hold = c.hold := by
  unfold Ctx.endResume; split <;> (try split) <;> rfl
@[simp] theorem Ctx.stepProg_hold (c : Ctx) : c.stepProg.hold = c.hold := by
  unfold Ctx.stepProg; split <;> rfl
@[simp] theorem Ctx.stepProg_resume (c : Ctx) : c.stepProg.resume = c.resume := by
  unfold Ctx.stepProg; split <;> rfl
@[simp] theorem Ctx.endResume_waittDone (c : Ctx) : c.endResume.waittDone = c.waittDone := by
  unfold Ctx.endResume; split <;> (try split) <;> rfl
@[simp] theorem Ctx.stepProg_waittDone (c : Ctx) : c.stepProg.waittDone = c.waittDone := by
  unfold Ctx.stepProg; split <;> rfl
@[simp] theorem Ctx.endResume_bpExempt (c : Ctx) : c.endResume.bpExempt = c.bpExempt := by
  unfold Ctx.endResume; split <;> (try split) <;> rfl
@[simp] theorem Ctx.stepProg_bpExempt (c : Ctx) : c.stepProg.bpExempt = c.bpExempt := by
  unfold Ctx.stepProg; split <;> rfl
@[simp] theorem Ctx.endResume_perr (c : Ctx) : c.endResume.perr = c.perr := by
  unfold Ctx.endResume; split <;> (try split) <;> rfl
@[simp] theorem Ctx.stepProg_perr (c : Ctx) : c.stepProg.perr = c.perr := by
  unfold Ctx.stepProg; split <;> rfl
@[simp] theorem Ctx.endResume_unseen (c : Ctx) : c.endResume.unseen = c.unseen := by
  unfold Ctx.endResume; split <;> (try split) <;> rfl
@[simp] theorem Ctx.stepProg_unseen (c : Ctx) : c.stepProg.unseen = c.unseen := by
  unfold Ctx.stepProg; split <;> rfl
@[simp] theorem Ctx.endResume_vq (c : Ctx) : c.endResume.vq = c.vq := by
  unfold Ctx.endResume; split <;> (try split) <;> rfl
@[simp] theorem Ctx.stepProg_vq (c : Ctx) : c.stepProg.vq = c.vq := by
  unfold Ctx.stepProg; split <;> rfl
@[simp] theorem Ctx.endResume_stop (c : Ctx) : c.endResume.stop = c.stop := by
  unfold Ctx.endResume; split <;> (try split) <;> rfl
@[simp] theorem Ctx.stepProg_stop (c : Ctx) : c.stepProg.stop = c.stop := by
  unfold Ctx.stepProg; split <;> rfl
@[simp] theorem Ctx.endResume_stopping (c : Ctx) : c.endResume.stopping = c.stopping := by
  unfold Ctx.endResume; split <;> (try split) <;> rfl
@[simp] theorem Ctx.stepProg_stopping (c : Ctx) : c.stepProg.stopping = c.stopping := by
  unfold Ctx.stepProg; split <;> rfl
@[simp] theorem Ctx.endResume_trapPc (c : Ctx) : c.endResume.trapPc = c.trapPc := by
  unfold Ctx.endResume; split <;> (try split) <;> rfl
@[simp] theorem Ctx.stepProg_trapPc (c : Ctx) : c.stepProg.trapPc = c.trapPc := by
  unfold Ctx.stepProg; split <;> rfl
@[simp] theorem Ctx.endResume_waittAt (c : Ctx) : c.endResume.waittAt = c.waittAt := by
  unfold Ctx.endResume; split <;> (try split) <;> rfl
@[simp] theorem Ctx.stepProg_waittAt (c : Ctx) : c.stepProg.waittAt = c.waittAt := by
  unfold Ctx.stepProg; split <;> rfl

/-! ## `Ctx.adv` changes the place, `es`, `esk`, `prog`, `hold`, `resume` and `bpExempt` alone -/

@[simp] theorem Ctx.adv_id (c : Ctx) : c.adv.id = c.id :=
  (Ctx.stepProg_id _).trans (Ctx.endResume_id c)
@[simp] theorem Ctx.adv_alive (c : Ctx) : c.adv.alive = c.alive :=
  (Ctx.stepProg_alive _).trans (Ctx.endResume_alive c)
@[simp] theorem Ctx.adv_core (c : Ctx) : c.adv.core = c.core :=
  (Ctx.stepProg_core _).trans (Ctx.endResume_core c)
@[simp] theorem Ctx.adv_pos (c : Ctx) : c.adv.pos = c.pos :=
  (Ctx.stepProg_pos _).trans (Ctx.endResume_pos c)
@[simp] theorem Ctx.adv_slot (c : Ctx) : c.adv.slot = c.slot :=
  (Ctx.stepProg_slot _).trans (Ctx.endResume_slot c)
@[simp] theorem Ctx.adv_part (c : Ctx) : c.adv.part = c.part :=
  (Ctx.stepProg_part _).trans (Ctx.endResume_part c)
@[simp] theorem Ctx.adv_priv (c : Ctx) : c.adv.priv = c.priv :=
  (Ctx.stepProg_priv _).trans (Ctx.endResume_priv c)
@[simp] theorem Ctx.adv_s (c : Ctx) : c.adv.s = c.s :=
  (Ctx.stepProg_s _).trans (Ctx.endResume_s c)
@[simp] theorem Ctx.adv_avl (c : Ctx) : c.adv.avl = c.avl :=
  (Ctx.stepProg_avl _).trans (Ctx.endResume_avl c)
@[simp] theorem Ctx.adv_vl (c : Ctx) : c.adv.vl = c.vl :=
  (Ctx.stepProg_vl _).trans (Ctx.endResume_vl c)
@[simp] theorem Ctx.adv_vcfg (c : Ctx) : c.adv.vcfg = c.vcfg :=
  (Ctx.stepProg_vcfg _).trans (Ctx.endResume_vcfg c)
@[simp] theorem Ctx.adv_ws (c : Ctx) : c.adv.ws = c.ws :=
  (Ctx.stepProg_ws _).trans (Ctx.endResume_ws c)
@[simp] theorem Ctx.adv_fps (c : Ctx) : c.adv.fps = c.fps :=
  (Ctx.stepProg_fps _).trans (Ctx.endResume_fps c)
@[simp] theorem Ctx.adv_cause (c : Ctx) : c.adv.cause = c.cause :=
  (Ctx.stepProg_cause _).trans (Ctx.endResume_cause c)
@[simp] theorem Ctx.adv_epc (c : Ctx) : c.adv.epc = c.epc :=
  (Ctx.stepProg_epc _).trans (Ctx.endResume_epc c)
@[simp] theorem Ctx.adv_tval (c : Ctx) : c.adv.tval = c.tval :=
  (Ctx.stepProg_tval _).trans (Ctx.endResume_tval c)
@[simp] theorem Ctx.adv_tst (c : Ctx) : c.adv.tst = c.tst :=
  (Ctx.stepProg_tst _).trans (Ctx.endResume_tst c)
@[simp] theorem Ctx.adv_v (c : Ctx) : c.adv.v = c.v :=
  (Ctx.stepProg_v _).trans (Ctx.endResume_v c)
@[simp] theorem Ctx.adv_a (c : Ctx) : c.adv.a = c.a :=
  (Ctx.stepProg_a _).trans (Ctx.endResume_a c)
@[simp] theorem Ctx.adv_m (c : Ctx) : c.adv.m = c.m :=
  (Ctx.stepProg_m _).trans (Ctx.endResume_m c)
@[simp] theorem Ctx.adv_vDirty (c : Ctx) : c.adv.vDirty = c.vDirty :=
  (Ctx.stepProg_vDirty _).trans (Ctx.endResume_vDirty c)
@[simp] theorem Ctx.adv_aDirty (c : Ctx) : c.adv.aDirty = c.aDirty :=
  (Ctx.stepProg_aDirty _).trans (Ctx.endResume_aDirty c)
@[simp] theorem Ctx.adv_mDirty (c : Ctx) : c.adv.mDirty = c.mDirty :=
  (Ctx.stepProg_mDirty _).trans (Ctx.endResume_mDirty c)
@[simp] theorem Ctx.adv_sat (c : Ctx) : c.adv.sat = c.sat :=
  (Ctx.stepProg_sat _).trans (Ctx.endResume_sat c)
@[simp] theorem Ctx.adv_q (c : Ctx) : c.adv.q = c.q :=
  (Ctx.stepProg_q _).trans (Ctx.endResume_q c)
@[simp] theorem Ctx.adv_f (c : Ctx) : c.adv.f = c.f :=
  (Ctx.stepProg_f _).trans (Ctx.endResume_f c)
@[simp] theorem Ctx.adv_d (c : Ctx) : c.adv.d = c.d :=
  (Ctx.stepProg_d _).trans (Ctx.endResume_d c)
@[simp] theorem Ctx.adv_latch (c : Ctx) : c.adv.latch = c.latch :=
  (Ctx.stepProg_latch _).trans (Ctx.endResume_latch c)
@[simp] theorem Ctx.adv_unf (c : Ctx) : c.adv.unf = c.unf :=
  (Ctx.stepProg_unf _).trans (Ctx.endResume_unf c)
@[simp] theorem Ctx.adv_kcur (c : Ctx) : c.adv.kcur = c.kcur :=
  (Ctx.stepProg_kcur _).trans (Ctx.endResume_kcur c)
@[simp] theorem Ctx.adv_gang (c : Ctx) : c.adv.gang = c.gang :=
  (Ctx.stepProg_gang _).trans (Ctx.endResume_gang c)
@[simp] theorem Ctx.adv_prio (c : Ctx) : c.adv.prio = c.prio :=
  (Ctx.stepProg_prio _).trans (Ctx.endResume_prio c)
@[simp] theorem Ctx.adv_firing (c : Ctx) : c.adv.firing = c.firing :=
  (Ctx.stepProg_firing _).trans (Ctx.endResume_firing c)
@[simp] theorem Ctx.adv_born (c : Ctx) : c.adv.born = c.born :=
  (Ctx.stepProg_born _).trans (Ctx.endResume_born c)
@[simp] theorem Ctx.adv_wait (c : Ctx) : c.adv.wait = c.wait :=
  (Ctx.stepProg_wait _).trans (Ctx.endResume_wait c)
@[simp] theorem Ctx.adv_waittDone (c : Ctx) : c.adv.waittDone = c.waittDone :=
  (Ctx.stepProg_waittDone _).trans (Ctx.endResume_waittDone c)
@[simp] theorem Ctx.adv_perr (c : Ctx) : c.adv.perr = c.perr :=
  (Ctx.stepProg_perr _).trans (Ctx.endResume_perr c)
@[simp] theorem Ctx.adv_unseen (c : Ctx) : c.adv.unseen = c.unseen :=
  (Ctx.stepProg_unseen _).trans (Ctx.endResume_unseen c)
@[simp] theorem Ctx.adv_vq (c : Ctx) : c.adv.vq = c.vq :=
  (Ctx.stepProg_vq _).trans (Ctx.endResume_vq c)
@[simp] theorem Ctx.adv_stop (c : Ctx) : c.adv.stop = c.stop :=
  (Ctx.stepProg_stop _).trans (Ctx.endResume_stop c)
@[simp] theorem Ctx.adv_stopping (c : Ctx) : c.adv.stopping = c.stopping :=
  (Ctx.stepProg_stopping _).trans (Ctx.endResume_stopping c)
@[simp] theorem Ctx.adv_trapPc (c : Ctx) : c.adv.trapPc = c.trapPc :=
  (Ctx.stepProg_trapPc _).trans (Ctx.endResume_trapPc c)
@[simp] theorem Ctx.adv_waittAt (c : Ctx) : c.adv.waittAt = c.waittAt :=
  (Ctx.stepProg_waittAt _).trans (Ctx.endResume_waittAt c)
@[simp] theorem Ctx.adv_hold (c : Ctx) : c.adv.hold = none := rfl
@[simp] theorem Ctx.adv_reg (c : Ctx) (n : Nat) : c.adv.reg n = c.reg n := by simp [Ctx.reg]

@[simp] theorem Ctx.endResume_nextPc (c : Ctx) : c.endResume.nextPc = c.nextPc := by simp [Ctx.nextPc]
@[simp] theorem Ctx.stepProg_nextPc (c : Ctx) : c.stepProg.nextPc = c.nextPc := by simp [Ctx.nextPc]

/-- After an instruction that does not branch the place is that of the next head (R83). -/
theorem Ctx.adv_pc (c : Ctx) : c.adv.pc = c.nextPc := by
  unfold Ctx.adv Ctx.leaveHead
  simp

@[simp] theorem Ctx.setReg_nextPc (c : Ctx) (n : Nat) (x : Word) : (c.setReg n x).nextPc = c.nextPc := by
  simp [Ctx.nextPc]

/-! ## `State.setReg` and `State.adv` change the running context alone -/

@[simp] theorem State.setReg_c (s : State) (n : Nat) (x : Word) : (s.setReg n x).c = s.c.setReg n x := rfl
@[simp] theorem State.adv_c (s : State) : s.adv.c = s.c.adv := rfl
@[simp] theorem State.setReg_others (s : State) (n : Nat) (x : Word) : (s.setReg n x).others = s.others := rfl
@[simp] theorem State.adv_others (s : State) : s.adv.others = s.others := rfl
@[simp] theorem State.setReg_nextId (s : State) (n : Nat) (x : Word) : (s.setReg n x).nextId = s.nextId := rfl
@[simp] theorem State.adv_nextId (s : State) : s.adv.nextId = s.nextId := rfl
@[simp] theorem State.setReg_tick (s : State) (n : Nat) (x : Word) : (s.setReg n x).tick = s.tick := rfl
@[simp] theorem State.adv_tick (s : State) : s.adv.tick = s.tick := rfl
@[simp] theorem State.setReg_cyc (s : State) (n : Nat) (x : Word) : (s.setReg n x).cyc = s.cyc := rfl
@[simp] theorem State.adv_cyc (s : State) : s.adv.cyc = s.cyc := rfl
@[simp] theorem State.setReg_cycle (s : State) (n : Nat) (x : Word) : (s.setReg n x).cycle = s.cycle := rfl
@[simp] theorem State.adv_cycle (s : State) : s.adv.cycle = s.cycle := rfl
@[simp] theorem State.setReg_issued (s : State) (n : Nat) (x : Word) : (s.setReg n x).issued = s.issued := rfl
@[simp] theorem State.adv_issued (s : State) : s.adv.issued = s.issued := rfl
@[simp] theorem State.setReg_metered (s : State) (n : Nat) (x : Word) : (s.setReg n x).metered = s.metered := rfl
@[simp] theorem State.adv_metered (s : State) : s.adv.metered = s.metered := rfl
@[simp] theorem State.setReg_parts (s : State) (n : Nat) (x : Word) : (s.setReg n x).parts = s.parts := rfl
@[simp] theorem State.adv_parts (s : State) : s.adv.parts = s.parts := rfl
@[simp] theorem State.setReg_seats (s : State) (n : Nat) (x : Word) : (s.setReg n x).seats = s.seats := rfl
@[simp] theorem State.adv_seats (s : State) : s.adv.seats = s.seats := rfl
@[simp] theorem State.setReg_mem (s : State) (n : Nat) (x : Word) : (s.setReg n x).mem = s.mem := rfl
@[simp] theorem State.adv_mem (s : State) : s.adv.mem = s.mem := rfl
@[simp] theorem State.setReg_l1 (s : State) (n : Nat) (x : Word) : (s.setReg n x).l1 = s.l1 := rfl
@[simp] theorem State.adv_l1 (s : State) : s.adv.l1 = s.l1 := rfl
@[simp] theorem State.setReg_tcl (s : State) (n : Nat) (x : Word) : (s.setReg n x).tcl = s.tcl := rfl
@[simp] theorem State.adv_tcl (s : State) : s.adv.tcl = s.tcl := rfl
@[simp] theorem State.setReg_stale (s : State) (n : Nat) (x : Word) : (s.setReg n x).stale = s.stale := rfl
@[simp] theorem State.adv_stale (s : State) : s.adv.stale = s.stale := rfl
@[simp] theorem State.setReg_skews (s : State) (n : Nat) (x : Word) : (s.setReg n x).skews = s.skews := rfl
@[simp] theorem State.adv_skews (s : State) : s.adv.skews = s.skews := rfl
@[simp] theorem State.setReg_poison (s : State) (n : Nat) (x : Word) : (s.setReg n x).poison = s.poison := rfl
@[simp] theorem State.adv_poison (s : State) : s.adv.poison = s.poison := rfl
@[simp] theorem State.setReg_smap (s : State) (n : Nat) (x : Word) : (s.setReg n x).smap = s.smap := rfl
@[simp] theorem State.adv_smap (s : State) : s.adv.smap = s.smap := rfl
@[simp] theorem State.setReg_tgb (s : State) (n : Nat) (x : Word) : (s.setReg n x).tgb = s.tgb := rfl
@[simp] theorem State.adv_tgb (s : State) : s.adv.tgb = s.tgb := rfl
@[simp] theorem State.setReg_dev (s : State) (n : Nat) (x : Word) : (s.setReg n x).dev = s.dev := rfl
@[simp] theorem State.adv_dev (s : State) : s.adv.dev = s.dev := rfl
@[simp] theorem State.setReg_e1 (s : State) (n : Nat) (x : Word) : (s.setReg n x).e1 = s.e1 := rfl
@[simp] theorem State.adv_e1 (s : State) : s.adv.e1 = s.e1 := rfl
@[simp] theorem State.setReg_e2 (s : State) (n : Nat) (x : Word) : (s.setReg n x).e2 = s.e2 := rfl
@[simp] theorem State.adv_e2 (s : State) : s.adv.e2 = s.e2 := rfl
@[simp] theorem State.setReg_refPresent (s : State) (n : Nat) (x : Word) : (s.setReg n x).refPresent = s.refPresent := rfl
@[simp] theorem State.adv_refPresent (s : State) : s.adv.refPresent = s.refPresent := rfl
@[simp] theorem State.setReg_pps (s : State) (n : Nat) (x : Word) : (s.setReg n x).pps = s.pps := rfl
@[simp] theorem State.adv_pps (s : State) : s.adv.pps = s.pps := rfl
@[simp] theorem State.setReg_goodTime (s : State) (n : Nat) (x : Word) : (s.setReg n x).goodTime = s.goodTime := rfl
@[simp] theorem State.adv_goodTime (s : State) : s.adv.goodTime = s.goodTime := rfl
@[simp] theorem State.setReg_tickAdj (s : State) (n : Nat) (x : Word) : (s.setReg n x).tickAdj = s.tickAdj := rfl
@[simp] theorem State.adv_tickAdj (s : State) : s.adv.tickAdj = s.tickAdj := rfl
@[simp] theorem State.setReg_ppsOff (s : State) (n : Nat) (x : Word) : (s.setReg n x).ppsOff = s.ppsOff := rfl
@[simp] theorem State.adv_ppsOff (s : State) : s.adv.ppsOff = s.ppsOff := rfl
@[simp] theorem State.setReg_adjNext (s : State) (n : Nat) (x : Word) : (s.setReg n x).adjNext = s.adjNext := rfl
@[simp] theorem State.adv_adjNext (s : State) : s.adv.adjNext = s.adjNext := rfl
@[simp] theorem State.setReg_meets (s : State) (n : Nat) (x : Word) : (s.setReg n x).meets = s.meets := rfl
@[simp] theorem State.adv_meets (s : State) : s.adv.meets = s.meets := rfl
@[simp] theorem State.setReg_locks (s : State) (n : Nat) (x : Word) : (s.setReg n x).locks = s.locks := rfl
@[simp] theorem State.adv_locks (s : State) : s.adv.locks = s.locks := rfl
@[simp] theorem State.setReg_bufs (s : State) (n : Nat) (x : Word) : (s.setReg n x).bufs = s.bufs := rfl
@[simp] theorem State.adv_bufs (s : State) : s.adv.bufs = s.bufs := rfl
@[simp] theorem State.setReg_chains (s : State) (n : Nat) (x : Word) : (s.setReg n x).chains = s.chains := rfl
@[simp] theorem State.adv_chains (s : State) : s.adv.chains = s.chains := rfl
@[simp] theorem State.setReg_msgs (s : State) (n : Nat) (x : Word) : (s.setReg n x).msgs = s.msgs := rfl
@[simp] theorem State.adv_msgs (s : State) : s.adv.msgs = s.msgs := rfl
@[simp] theorem State.setReg_answers (s : State) (n : Nat) (x : Word) : (s.setReg n x).answers = s.answers := rfl
@[simp] theorem State.adv_answers (s : State) : s.adv.answers = s.answers := rfl
@[simp] theorem State.setReg_graphs (s : State) (n : Nat) (x : Word) : (s.setReg n x).graphs = s.graphs := rfl
@[simp] theorem State.adv_graphs (s : State) : s.adv.graphs = s.graphs := rfl
@[simp] theorem State.setReg_qslots (s : State) (n : Nat) (x : Word) : (s.setReg n x).qslots = s.qslots := rfl
@[simp] theorem State.adv_qslots (s : State) : s.adv.qslots = s.qslots := rfl
@[simp] theorem State.setReg_qserved (s : State) (n : Nat) (x : Word) : (s.setReg n x).qserved = s.qserved := rfl
@[simp] theorem State.adv_qserved (s : State) : s.adv.qserved = s.qserved := rfl
@[simp] theorem State.setReg_evicts (s : State) (n : Nat) (x : Word) : (s.setReg n x).evicts = s.evicts := rfl
@[simp] theorem State.adv_evicts (s : State) : s.adv.evicts = s.evicts := rfl
@[simp] theorem State.setReg_holes (s : State) (n : Nat) (x : Word) : (s.setReg n x).holes = s.holes := rfl
@[simp] theorem State.adv_holes (s : State) : s.adv.holes = s.holes := rfl
@[simp] theorem State.setReg_wins (s : State) (n : Nat) (x : Word) : (s.setReg n x).wins = s.wins := rfl
@[simp] theorem State.adv_wins (s : State) : s.adv.wins = s.wins := rfl
@[simp] theorem State.setReg_binds (s : State) (n : Nat) (x : Word) : (s.setReg n x).binds = s.binds := rfl
@[simp] theorem State.adv_binds (s : State) : s.adv.binds = s.binds := rfl
@[simp] theorem State.setReg_copies (s : State) (n : Nat) (x : Word) : (s.setReg n x).copies = s.copies := rfl
@[simp] theorem State.adv_copies (s : State) : s.adv.copies = s.copies := rfl
@[simp] theorem State.setReg_nextCopy (s : State) (n : Nat) (x : Word) : (s.setReg n x).nextCopy = s.nextCopy := rfl
@[simp] theorem State.adv_nextCopy (s : State) : s.adv.nextCopy = s.nextCopy := rfl
@[simp] theorem State.setReg_grps (s : State) (n : Nat) (x : Word) : (s.setReg n x).grps = s.grps := rfl
@[simp] theorem State.adv_grps (s : State) : s.adv.grps = s.grps := rfl
@[simp] theorem State.setReg_leases (s : State) (n : Nat) (x : Word) : (s.setReg n x).leases = s.leases := rfl
@[simp] theorem State.adv_leases (s : State) : s.adv.leases = s.leases := rfl
@[simp] theorem State.setReg_leaseQ (s : State) (n : Nat) (x : Word) : (s.setReg n x).leaseQ = s.leaseQ := rfl
@[simp] theorem State.adv_leaseQ (s : State) : s.adv.leaseQ = s.leaseQ := rfl
@[simp] theorem State.setReg_links (s : State) (n : Nat) (x : Word) : (s.setReg n x).links = s.links := rfl
@[simp] theorem State.adv_links (s : State) : s.adv.links = s.links := rfl
@[simp] theorem State.setReg_unrouted (s : State) (n : Nat) (x : Word) : (s.setReg n x).unrouted = s.unrouted := rfl
@[simp] theorem State.adv_unrouted (s : State) : s.adv.unrouted = s.unrouted := rfl
@[simp] theorem State.setReg_strayClocks (s : State) (n : Nat) (x : Word) : (s.setReg n x).strayClocks = s.strayClocks := rfl
@[simp] theorem State.adv_strayClocks (s : State) : s.adv.strayClocks = s.strayClocks := rfl
@[simp] theorem State.setReg_farDown (s : State) (n : Nat) (x : Word) : (s.setReg n x).farDown = s.farDown := rfl
@[simp] theorem State.adv_farDown (s : State) : s.adv.farDown = s.farDown := rfl
@[simp] theorem State.setReg_tree (s : State) (n : Nat) (x : Word) : (s.setReg n x).tree = s.tree := rfl
@[simp] theorem State.adv_tree (s : State) : s.adv.tree = s.tree := rfl
@[simp] theorem State.setReg_vecIns (s : State) (n : Nat) (x : Word) : (s.setReg n x).vecIns = s.vecIns := rfl
@[simp] theorem State.adv_vecIns (s : State) : s.adv.vecIns = s.vecIns := rfl
@[simp] theorem State.setReg_tickSet (s : State) (n : Nat) (x : Word) : (s.setReg n x).tickSet = s.tickSet := rfl
@[simp] theorem State.adv_tickSet (s : State) : s.adv.tickSet = s.tickSet := rfl
@[simp] theorem State.setReg_resvs (s : State) (n : Nat) (x : Word) : (s.setReg n x).resvs = s.resvs := rfl
@[simp] theorem State.adv_resvs (s : State) : s.adv.resvs = s.resvs := rfl
@[simp] theorem State.setReg_nextTag (s : State) (n : Nat) (x : Word) : (s.setReg n x).nextTag = s.nextTag := rfl
@[simp] theorem State.adv_nextTag (s : State) : s.adv.nextTag = s.nextTag := rfl
@[simp] theorem State.setReg_oseqs (s : State) (n : Nat) (x : Word) : (s.setReg n x).oseqs = s.oseqs := rfl
@[simp] theorem State.adv_oseqs (s : State) : s.adv.oseqs = s.oseqs := rfl
@[simp] theorem State.setReg_streams (s : State) (n : Nat) (x : Word) : (s.setReg n x).streams = s.streams := rfl
@[simp] theorem State.adv_streams (s : State) : s.adv.streams = s.streams := rfl
@[simp] theorem State.setReg_incs (s : State) (n : Nat) (x : Word) : (s.setReg n x).incs = s.incs := rfl
@[simp] theorem State.adv_incs (s : State) : s.adv.incs = s.incs := rfl
@[simp] theorem State.setReg_imports (s : State) (n : Nat) (x : Word) : (s.setReg n x).imports = s.imports := rfl
@[simp] theorem State.adv_imports (s : State) : s.adv.imports = s.imports := rfl
@[simp] theorem State.setReg_sides (s : State) (n : Nat) (x : Word) : (s.setReg n x).sides = s.sides := rfl
@[simp] theorem State.adv_sides (s : State) : s.adv.sides = s.sides := rfl
@[simp] theorem State.setReg_migrs (s : State) (n : Nat) (x : Word) : (s.setReg n x).migrs = s.migrs := rfl
@[simp] theorem State.adv_migrs (s : State) : s.adv.migrs = s.migrs := rfl
@[simp] theorem State.setReg_redir (s : State) (n : Nat) (x : Word) : (s.setReg n x).redir = s.redir := rfl
@[simp] theorem State.adv_redir (s : State) : s.adv.redir = s.redir := rfl
@[simp] theorem State.setReg_tlb (s : State) (n : Nat) (x : Word) : (s.setReg n x).tlb = s.tlb := rfl
@[simp] theorem State.adv_tlb (s : State) : s.adv.tlb = s.tlb := rfl
@[simp] theorem State.setReg_shoot (s : State) (n : Nat) (x : Word) : (s.setReg n x).shoot = s.shoot := rfl
@[simp] theorem State.adv_shoot (s : State) : s.adv.shoot = s.shoot := rfl
@[simp] theorem State.setReg_rots (s : State) (n : Nat) (x : Word) : (s.setReg n x).rots = s.rots := rfl
@[simp] theorem State.adv_rots (s : State) : s.adv.rots = s.rots := rfl
@[simp] theorem State.setReg_saved (s : State) (n : Nat) (x : Word) : (s.setReg n x).saved = s.saved := rfl
@[simp] theorem State.adv_saved (s : State) : s.adv.saved = s.saved := rfl
@[simp] theorem State.setReg_ckpts (s : State) (n : Nat) (x : Word) : (s.setReg n x).ckpts = s.ckpts := rfl
@[simp] theorem State.adv_ckpts (s : State) : s.adv.ckpts = s.ckpts := rfl
@[simp] theorem State.setReg_ncl (s : State) (n : Nat) (x : Word) : (s.setReg n x).ncl = s.ncl := rfl
@[simp] theorem State.adv_ncl (s : State) : s.adv.ncl = s.ncl := rfl
@[simp] theorem State.setReg_meas (s : State) (n : Nat) (x : Word) : (s.setReg n x).meas = s.meas := rfl
@[simp] theorem State.adv_meas (s : State) : s.adv.meas = s.meas := rfl
@[simp] theorem State.setReg_life (s : State) (n : Nat) (x : Word) : (s.setReg n x).life = s.life := rfl
@[simp] theorem State.adv_life (s : State) : s.adv.life = s.life := rfl
@[simp] theorem State.setReg_bootCount (s : State) (n : Nat) (x : Word) : (s.setReg n x).bootCount = s.bootCount := rfl
@[simp] theorem State.adv_bootCount (s : State) : s.adv.bootCount = s.bootCount := rfl
@[simp] theorem State.setReg_boot (s : State) (n : Nat) (x : Word) : (s.setReg n x).boot = s.boot := rfl
@[simp] theorem State.adv_boot (s : State) : s.adv.boot = s.boot := rfl
@[simp] theorem State.setReg_throttle (s : State) (n : Nat) (x : Word) : (s.setReg n x).throttle = s.throttle := rfl
@[simp] theorem State.adv_throttle (s : State) : s.adv.throttle = s.throttle := rfl
@[simp] theorem State.setReg_out (s : State) (n : Nat) (x : Word) : (s.setReg n x).out = s.out := rfl
@[simp] theorem State.adv_out (s : State) : s.adv.out = s.out := rfl
@[simp] theorem State.setReg_inputs (s : State) (n : Nat) (x : Word) : (s.setReg n x).inputs = s.inputs := rfl
@[simp] theorem State.adv_inputs (s : State) : s.adv.inputs = s.inputs := rfl
@[simp] theorem State.setReg_later (s : State) (n : Nat) (x : Word) : (s.setReg n x).later = s.later := rfl
@[simp] theorem State.adv_later (s : State) : s.adv.later = s.later := rfl
@[simp] theorem State.setReg_lat (s : State) (n : Nat) (x : Word) : (s.setReg n x).lat = s.lat := rfl
@[simp] theorem State.adv_lat (s : State) : s.adv.lat = s.lat := rfl
@[simp] theorem State.setReg_free (s : State) (n : Nat) (x : Word) : (s.setReg n x).free = s.free := rfl
@[simp] theorem State.adv_free (s : State) : s.adv.free = s.free := rfl
@[simp] theorem State.setReg_issue (s : State) (n : Nat) (x : Word) : (s.setReg n x).issue = s.issue := rfl
@[simp] theorem State.adv_issue (s : State) : s.adv.issue = s.issue := rfl
@[simp] theorem State.setReg_lag (s : State) (n : Nat) (x : Word) : (s.setReg n x).lag = s.lag := rfl
@[simp] theorem State.adv_lag (s : State) : s.adv.lag = s.lag := rfl
@[simp] theorem State.setReg_cursor (s : State) (n : Nat) (x : Word) : (s.setReg n x).cursor = s.cursor := rfl
@[simp] theorem State.adv_cursor (s : State) : s.adv.cursor = s.cursor := rfl
@[simp] theorem State.setReg_lastRun (s : State) (n : Nat) (x : Word) : (s.setReg n x).lastRun = s.lastRun := rfl
@[simp] theorem State.adv_lastRun (s : State) : s.adv.lastRun = s.lastRun := rfl

/-! ## `State.setPart` changes the partitions alone -/

@[simp] theorem State.setPart_c (s : State) (p : Nat) (f : Part → Part) : (s.setPart p f).c = s.c := rfl
@[simp] theorem State.setPart_others (s : State) (p : Nat) (f : Part → Part) : (s.setPart p f).others = s.others := rfl
@[simp] theorem State.setPart_nextId (s : State) (p : Nat) (f : Part → Part) : (s.setPart p f).nextId = s.nextId := rfl
@[simp] theorem State.setPart_tick (s : State) (p : Nat) (f : Part → Part) : (s.setPart p f).tick = s.tick := rfl
@[simp] theorem State.setPart_cyc (s : State) (p : Nat) (f : Part → Part) : (s.setPart p f).cyc = s.cyc := rfl
@[simp] theorem State.setPart_cycle (s : State) (p : Nat) (f : Part → Part) : (s.setPart p f).cycle = s.cycle := rfl
@[simp] theorem State.setPart_issued (s : State) (p : Nat) (f : Part → Part) : (s.setPart p f).issued = s.issued := rfl
@[simp] theorem State.setPart_metered (s : State) (p : Nat) (f : Part → Part) : (s.setPart p f).metered = s.metered := rfl
@[simp] theorem State.setPart_seats (s : State) (p : Nat) (f : Part → Part) : (s.setPart p f).seats = s.seats := rfl
@[simp] theorem State.setPart_mem (s : State) (p : Nat) (f : Part → Part) : (s.setPart p f).mem = s.mem := rfl
@[simp] theorem State.setPart_l1 (s : State) (p : Nat) (f : Part → Part) : (s.setPart p f).l1 = s.l1 := rfl
@[simp] theorem State.setPart_tcl (s : State) (p : Nat) (f : Part → Part) : (s.setPart p f).tcl = s.tcl := rfl
@[simp] theorem State.setPart_stale (s : State) (p : Nat) (f : Part → Part) : (s.setPart p f).stale = s.stale := rfl
@[simp] theorem State.setPart_skews (s : State) (p : Nat) (f : Part → Part) : (s.setPart p f).skews = s.skews := rfl
@[simp] theorem State.setPart_poison (s : State) (p : Nat) (f : Part → Part) : (s.setPart p f).poison = s.poison := rfl
@[simp] theorem State.setPart_smap (s : State) (p : Nat) (f : Part → Part) : (s.setPart p f).smap = s.smap := rfl
@[simp] theorem State.setPart_tgb (s : State) (p : Nat) (f : Part → Part) : (s.setPart p f).tgb = s.tgb := rfl
@[simp] theorem State.setPart_dev (s : State) (p : Nat) (f : Part → Part) : (s.setPart p f).dev = s.dev := rfl
@[simp] theorem State.setPart_e1 (s : State) (p : Nat) (f : Part → Part) : (s.setPart p f).e1 = s.e1 := rfl
@[simp] theorem State.setPart_e2 (s : State) (p : Nat) (f : Part → Part) : (s.setPart p f).e2 = s.e2 := rfl
@[simp] theorem State.setPart_refPresent (s : State) (p : Nat) (f : Part → Part) : (s.setPart p f).refPresent = s.refPresent := rfl
@[simp] theorem State.setPart_pps (s : State) (p : Nat) (f : Part → Part) : (s.setPart p f).pps = s.pps := rfl
@[simp] theorem State.setPart_goodTime (s : State) (p : Nat) (f : Part → Part) : (s.setPart p f).goodTime = s.goodTime := rfl
@[simp] theorem State.setPart_tickAdj (s : State) (p : Nat) (f : Part → Part) : (s.setPart p f).tickAdj = s.tickAdj := rfl
@[simp] theorem State.setPart_ppsOff (s : State) (p : Nat) (f : Part → Part) : (s.setPart p f).ppsOff = s.ppsOff := rfl
@[simp] theorem State.setPart_adjNext (s : State) (p : Nat) (f : Part → Part) : (s.setPart p f).adjNext = s.adjNext := rfl
@[simp] theorem State.setPart_meets (s : State) (p : Nat) (f : Part → Part) : (s.setPart p f).meets = s.meets := rfl
@[simp] theorem State.setPart_locks (s : State) (p : Nat) (f : Part → Part) : (s.setPart p f).locks = s.locks := rfl
@[simp] theorem State.setPart_bufs (s : State) (p : Nat) (f : Part → Part) : (s.setPart p f).bufs = s.bufs := rfl
@[simp] theorem State.setPart_chains (s : State) (p : Nat) (f : Part → Part) : (s.setPart p f).chains = s.chains := rfl
@[simp] theorem State.setPart_msgs (s : State) (p : Nat) (f : Part → Part) : (s.setPart p f).msgs = s.msgs := rfl
@[simp] theorem State.setPart_answers (s : State) (p : Nat) (f : Part → Part) : (s.setPart p f).answers = s.answers := rfl
@[simp] theorem State.setPart_graphs (s : State) (p : Nat) (f : Part → Part) : (s.setPart p f).graphs = s.graphs := rfl
@[simp] theorem State.setPart_qslots (s : State) (p : Nat) (f : Part → Part) : (s.setPart p f).qslots = s.qslots := rfl
@[simp] theorem State.setPart_qserved (s : State) (p : Nat) (f : Part → Part) : (s.setPart p f).qserved = s.qserved := rfl
@[simp] theorem State.setPart_evicts (s : State) (p : Nat) (f : Part → Part) : (s.setPart p f).evicts = s.evicts := rfl
@[simp] theorem State.setPart_holes (s : State) (p : Nat) (f : Part → Part) : (s.setPart p f).holes = s.holes := rfl
@[simp] theorem State.setPart_wins (s : State) (p : Nat) (f : Part → Part) : (s.setPart p f).wins = s.wins := rfl
@[simp] theorem State.setPart_binds (s : State) (p : Nat) (f : Part → Part) : (s.setPart p f).binds = s.binds := rfl
@[simp] theorem State.setPart_copies (s : State) (p : Nat) (f : Part → Part) : (s.setPart p f).copies = s.copies := rfl
@[simp] theorem State.setPart_nextCopy (s : State) (p : Nat) (f : Part → Part) : (s.setPart p f).nextCopy = s.nextCopy := rfl
@[simp] theorem State.setPart_grps (s : State) (p : Nat) (f : Part → Part) : (s.setPart p f).grps = s.grps := rfl
@[simp] theorem State.setPart_leases (s : State) (p : Nat) (f : Part → Part) : (s.setPart p f).leases = s.leases := rfl
@[simp] theorem State.setPart_leaseQ (s : State) (p : Nat) (f : Part → Part) : (s.setPart p f).leaseQ = s.leaseQ := rfl
@[simp] theorem State.setPart_links (s : State) (p : Nat) (f : Part → Part) : (s.setPart p f).links = s.links := rfl
@[simp] theorem State.setPart_unrouted (s : State) (p : Nat) (f : Part → Part) : (s.setPart p f).unrouted = s.unrouted := rfl
@[simp] theorem State.setPart_strayClocks (s : State) (p : Nat) (f : Part → Part) : (s.setPart p f).strayClocks = s.strayClocks := rfl
@[simp] theorem State.setPart_farDown (s : State) (p : Nat) (f : Part → Part) : (s.setPart p f).farDown = s.farDown := rfl
@[simp] theorem State.setPart_tree (s : State) (p : Nat) (f : Part → Part) : (s.setPart p f).tree = s.tree := rfl
@[simp] theorem State.setPart_vecIns (s : State) (p : Nat) (f : Part → Part) : (s.setPart p f).vecIns = s.vecIns := rfl
@[simp] theorem State.setPart_tickSet (s : State) (p : Nat) (f : Part → Part) : (s.setPart p f).tickSet = s.tickSet := rfl
@[simp] theorem State.setPart_resvs (s : State) (p : Nat) (f : Part → Part) : (s.setPart p f).resvs = s.resvs := rfl
@[simp] theorem State.setPart_nextTag (s : State) (p : Nat) (f : Part → Part) : (s.setPart p f).nextTag = s.nextTag := rfl
@[simp] theorem State.setPart_oseqs (s : State) (p : Nat) (f : Part → Part) : (s.setPart p f).oseqs = s.oseqs := rfl
@[simp] theorem State.setPart_streams (s : State) (p : Nat) (f : Part → Part) : (s.setPart p f).streams = s.streams := rfl
@[simp] theorem State.setPart_incs (s : State) (p : Nat) (f : Part → Part) : (s.setPart p f).incs = s.incs := rfl
@[simp] theorem State.setPart_imports (s : State) (p : Nat) (f : Part → Part) : (s.setPart p f).imports = s.imports := rfl
@[simp] theorem State.setPart_sides (s : State) (p : Nat) (f : Part → Part) : (s.setPart p f).sides = s.sides := rfl
@[simp] theorem State.setPart_migrs (s : State) (p : Nat) (f : Part → Part) : (s.setPart p f).migrs = s.migrs := rfl
@[simp] theorem State.setPart_redir (s : State) (p : Nat) (f : Part → Part) : (s.setPart p f).redir = s.redir := rfl
@[simp] theorem State.setPart_tlb (s : State) (p : Nat) (f : Part → Part) : (s.setPart p f).tlb = s.tlb := rfl
@[simp] theorem State.setPart_shoot (s : State) (p : Nat) (f : Part → Part) : (s.setPart p f).shoot = s.shoot := rfl
@[simp] theorem State.setPart_rots (s : State) (p : Nat) (f : Part → Part) : (s.setPart p f).rots = s.rots := rfl
@[simp] theorem State.setPart_saved (s : State) (p : Nat) (f : Part → Part) : (s.setPart p f).saved = s.saved := rfl
@[simp] theorem State.setPart_ckpts (s : State) (p : Nat) (f : Part → Part) : (s.setPart p f).ckpts = s.ckpts := rfl
@[simp] theorem State.setPart_ncl (s : State) (p : Nat) (f : Part → Part) : (s.setPart p f).ncl = s.ncl := rfl
@[simp] theorem State.setPart_meas (s : State) (p : Nat) (f : Part → Part) : (s.setPart p f).meas = s.meas := rfl
@[simp] theorem State.setPart_life (s : State) (p : Nat) (f : Part → Part) : (s.setPart p f).life = s.life := rfl
@[simp] theorem State.setPart_bootCount (s : State) (p : Nat) (f : Part → Part) : (s.setPart p f).bootCount = s.bootCount := rfl
@[simp] theorem State.setPart_boot (s : State) (p : Nat) (f : Part → Part) : (s.setPart p f).boot = s.boot := rfl
@[simp] theorem State.setPart_throttle (s : State) (p : Nat) (f : Part → Part) : (s.setPart p f).throttle = s.throttle := rfl
@[simp] theorem State.setPart_out (s : State) (p : Nat) (f : Part → Part) : (s.setPart p f).out = s.out := rfl
@[simp] theorem State.setPart_inputs (s : State) (p : Nat) (f : Part → Part) : (s.setPart p f).inputs = s.inputs := rfl
@[simp] theorem State.setPart_later (s : State) (p : Nat) (f : Part → Part) : (s.setPart p f).later = s.later := rfl
@[simp] theorem State.setPart_lat (s : State) (p : Nat) (f : Part → Part) : (s.setPart p f).lat = s.lat := rfl
@[simp] theorem State.setPart_free (s : State) (p : Nat) (f : Part → Part) : (s.setPart p f).free = s.free := rfl
@[simp] theorem State.setPart_issue (s : State) (p : Nat) (f : Part → Part) : (s.setPart p f).issue = s.issue := rfl
@[simp] theorem State.setPart_lag (s : State) (p : Nat) (f : Part → Part) : (s.setPart p f).lag = s.lag := rfl
@[simp] theorem State.setPart_cursor (s : State) (p : Nat) (f : Part → Part) : (s.setPart p f).cursor = s.cursor := rfl
@[simp] theorem State.setPart_lastRun (s : State) (p : Nat) (f : Part → Part) : (s.setPart p f).lastRun = s.lastRun := rfl

/-! ## `State.meter` changes the partitions alone -/

@[simp] theorem State.meter_c (s : State) (p i n : Nat) : (s.meter p i n).c = s.c := rfl
@[simp] theorem State.meter_others (s : State) (p i n : Nat) : (s.meter p i n).others = s.others := rfl
@[simp] theorem State.meter_nextId (s : State) (p i n : Nat) : (s.meter p i n).nextId = s.nextId := rfl
@[simp] theorem State.meter_tick (s : State) (p i n : Nat) : (s.meter p i n).tick = s.tick := rfl
@[simp] theorem State.meter_cyc (s : State) (p i n : Nat) : (s.meter p i n).cyc = s.cyc := rfl
@[simp] theorem State.meter_cycle (s : State) (p i n : Nat) : (s.meter p i n).cycle = s.cycle := rfl
@[simp] theorem State.meter_issued (s : State) (p i n : Nat) : (s.meter p i n).issued = s.issued := rfl
@[simp] theorem State.meter_metered (s : State) (p i n : Nat) : (s.meter p i n).metered = s.metered := rfl
@[simp] theorem State.meter_seats (s : State) (p i n : Nat) : (s.meter p i n).seats = s.seats := rfl
@[simp] theorem State.meter_mem (s : State) (p i n : Nat) : (s.meter p i n).mem = s.mem := rfl
@[simp] theorem State.meter_l1 (s : State) (p i n : Nat) : (s.meter p i n).l1 = s.l1 := rfl
@[simp] theorem State.meter_tcl (s : State) (p i n : Nat) : (s.meter p i n).tcl = s.tcl := rfl
@[simp] theorem State.meter_stale (s : State) (p i n : Nat) : (s.meter p i n).stale = s.stale := rfl
@[simp] theorem State.meter_skews (s : State) (p i n : Nat) : (s.meter p i n).skews = s.skews := rfl
@[simp] theorem State.meter_poison (s : State) (p i n : Nat) : (s.meter p i n).poison = s.poison := rfl
@[simp] theorem State.meter_smap (s : State) (p i n : Nat) : (s.meter p i n).smap = s.smap := rfl
@[simp] theorem State.meter_tgb (s : State) (p i n : Nat) : (s.meter p i n).tgb = s.tgb := rfl
@[simp] theorem State.meter_dev (s : State) (p i n : Nat) : (s.meter p i n).dev = s.dev := rfl
@[simp] theorem State.meter_e1 (s : State) (p i n : Nat) : (s.meter p i n).e1 = s.e1 := rfl
@[simp] theorem State.meter_e2 (s : State) (p i n : Nat) : (s.meter p i n).e2 = s.e2 := rfl
@[simp] theorem State.meter_refPresent (s : State) (p i n : Nat) : (s.meter p i n).refPresent = s.refPresent := rfl
@[simp] theorem State.meter_pps (s : State) (p i n : Nat) : (s.meter p i n).pps = s.pps := rfl
@[simp] theorem State.meter_goodTime (s : State) (p i n : Nat) : (s.meter p i n).goodTime = s.goodTime := rfl
@[simp] theorem State.meter_tickAdj (s : State) (p i n : Nat) : (s.meter p i n).tickAdj = s.tickAdj := rfl
@[simp] theorem State.meter_ppsOff (s : State) (p i n : Nat) : (s.meter p i n).ppsOff = s.ppsOff := rfl
@[simp] theorem State.meter_adjNext (s : State) (p i n : Nat) : (s.meter p i n).adjNext = s.adjNext := rfl
@[simp] theorem State.meter_meets (s : State) (p i n : Nat) : (s.meter p i n).meets = s.meets := rfl
@[simp] theorem State.meter_locks (s : State) (p i n : Nat) : (s.meter p i n).locks = s.locks := rfl
@[simp] theorem State.meter_bufs (s : State) (p i n : Nat) : (s.meter p i n).bufs = s.bufs := rfl
@[simp] theorem State.meter_chains (s : State) (p i n : Nat) : (s.meter p i n).chains = s.chains := rfl
@[simp] theorem State.meter_msgs (s : State) (p i n : Nat) : (s.meter p i n).msgs = s.msgs := rfl
@[simp] theorem State.meter_answers (s : State) (p i n : Nat) : (s.meter p i n).answers = s.answers := rfl
@[simp] theorem State.meter_graphs (s : State) (p i n : Nat) : (s.meter p i n).graphs = s.graphs := rfl
@[simp] theorem State.meter_qslots (s : State) (p i n : Nat) : (s.meter p i n).qslots = s.qslots := rfl
@[simp] theorem State.meter_qserved (s : State) (p i n : Nat) : (s.meter p i n).qserved = s.qserved := rfl
@[simp] theorem State.meter_evicts (s : State) (p i n : Nat) : (s.meter p i n).evicts = s.evicts := rfl
@[simp] theorem State.meter_holes (s : State) (p i n : Nat) : (s.meter p i n).holes = s.holes := rfl
@[simp] theorem State.meter_wins (s : State) (p i n : Nat) : (s.meter p i n).wins = s.wins := rfl
@[simp] theorem State.meter_binds (s : State) (p i n : Nat) : (s.meter p i n).binds = s.binds := rfl
@[simp] theorem State.meter_copies (s : State) (p i n : Nat) : (s.meter p i n).copies = s.copies := rfl
@[simp] theorem State.meter_nextCopy (s : State) (p i n : Nat) : (s.meter p i n).nextCopy = s.nextCopy := rfl
@[simp] theorem State.meter_grps (s : State) (p i n : Nat) : (s.meter p i n).grps = s.grps := rfl
@[simp] theorem State.meter_leases (s : State) (p i n : Nat) : (s.meter p i n).leases = s.leases := rfl
@[simp] theorem State.meter_leaseQ (s : State) (p i n : Nat) : (s.meter p i n).leaseQ = s.leaseQ := rfl
@[simp] theorem State.meter_links (s : State) (p i n : Nat) : (s.meter p i n).links = s.links := rfl
@[simp] theorem State.meter_unrouted (s : State) (p i n : Nat) : (s.meter p i n).unrouted = s.unrouted := rfl
@[simp] theorem State.meter_strayClocks (s : State) (p i n : Nat) : (s.meter p i n).strayClocks = s.strayClocks := rfl
@[simp] theorem State.meter_farDown (s : State) (p i n : Nat) : (s.meter p i n).farDown = s.farDown := rfl
@[simp] theorem State.meter_tree (s : State) (p i n : Nat) : (s.meter p i n).tree = s.tree := rfl
@[simp] theorem State.meter_vecIns (s : State) (p i n : Nat) : (s.meter p i n).vecIns = s.vecIns := rfl
@[simp] theorem State.meter_tickSet (s : State) (p i n : Nat) : (s.meter p i n).tickSet = s.tickSet := rfl
@[simp] theorem State.meter_resvs (s : State) (p i n : Nat) : (s.meter p i n).resvs = s.resvs := rfl
@[simp] theorem State.meter_nextTag (s : State) (p i n : Nat) : (s.meter p i n).nextTag = s.nextTag := rfl
@[simp] theorem State.meter_oseqs (s : State) (p i n : Nat) : (s.meter p i n).oseqs = s.oseqs := rfl
@[simp] theorem State.meter_streams (s : State) (p i n : Nat) : (s.meter p i n).streams = s.streams := rfl
@[simp] theorem State.meter_incs (s : State) (p i n : Nat) : (s.meter p i n).incs = s.incs := rfl
@[simp] theorem State.meter_imports (s : State) (p i n : Nat) : (s.meter p i n).imports = s.imports := rfl
@[simp] theorem State.meter_sides (s : State) (p i n : Nat) : (s.meter p i n).sides = s.sides := rfl
@[simp] theorem State.meter_migrs (s : State) (p i n : Nat) : (s.meter p i n).migrs = s.migrs := rfl
@[simp] theorem State.meter_redir (s : State) (p i n : Nat) : (s.meter p i n).redir = s.redir := rfl
@[simp] theorem State.meter_tlb (s : State) (p i n : Nat) : (s.meter p i n).tlb = s.tlb := rfl
@[simp] theorem State.meter_shoot (s : State) (p i n : Nat) : (s.meter p i n).shoot = s.shoot := rfl
@[simp] theorem State.meter_rots (s : State) (p i n : Nat) : (s.meter p i n).rots = s.rots := rfl
@[simp] theorem State.meter_saved (s : State) (p i n : Nat) : (s.meter p i n).saved = s.saved := rfl
@[simp] theorem State.meter_ckpts (s : State) (p i n : Nat) : (s.meter p i n).ckpts = s.ckpts := rfl
@[simp] theorem State.meter_ncl (s : State) (p i n : Nat) : (s.meter p i n).ncl = s.ncl := rfl
@[simp] theorem State.meter_meas (s : State) (p i n : Nat) : (s.meter p i n).meas = s.meas := rfl
@[simp] theorem State.meter_life (s : State) (p i n : Nat) : (s.meter p i n).life = s.life := rfl
@[simp] theorem State.meter_bootCount (s : State) (p i n : Nat) : (s.meter p i n).bootCount = s.bootCount := rfl
@[simp] theorem State.meter_boot (s : State) (p i n : Nat) : (s.meter p i n).boot = s.boot := rfl
@[simp] theorem State.meter_throttle (s : State) (p i n : Nat) : (s.meter p i n).throttle = s.throttle := rfl
@[simp] theorem State.meter_out (s : State) (p i n : Nat) : (s.meter p i n).out = s.out := rfl
@[simp] theorem State.meter_inputs (s : State) (p i n : Nat) : (s.meter p i n).inputs = s.inputs := rfl
@[simp] theorem State.meter_later (s : State) (p i n : Nat) : (s.meter p i n).later = s.later := rfl
@[simp] theorem State.meter_lat (s : State) (p i n : Nat) : (s.meter p i n).lat = s.lat := rfl
@[simp] theorem State.meter_free (s : State) (p i n : Nat) : (s.meter p i n).free = s.free := rfl
@[simp] theorem State.meter_issue (s : State) (p i n : Nat) : (s.meter p i n).issue = s.issue := rfl
@[simp] theorem State.meter_lag (s : State) (p i n : Nat) : (s.meter p i n).lag = s.lag := rfl
@[simp] theorem State.meter_cursor (s : State) (p i n : Nat) : (s.meter p i n).cursor = s.cursor := rfl
@[simp] theorem State.meter_lastRun (s : State) (p i n : Nat) : (s.meter p i n).lastRun = s.lastRun := rfl

/-! ## `State.useFree` counts free values alone -/

@[simp] theorem State.useFree_c (s : State) (n : Nat) : (s.useFree n).c = s.c := rfl
@[simp] theorem State.useFree_others (s : State) (n : Nat) : (s.useFree n).others = s.others := rfl
@[simp] theorem State.useFree_nextId (s : State) (n : Nat) : (s.useFree n).nextId = s.nextId := rfl
@[simp] theorem State.useFree_tick (s : State) (n : Nat) : (s.useFree n).tick = s.tick := rfl
@[simp] theorem State.useFree_cyc (s : State) (n : Nat) : (s.useFree n).cyc = s.cyc := rfl
@[simp] theorem State.useFree_cycle (s : State) (n : Nat) : (s.useFree n).cycle = s.cycle := rfl
@[simp] theorem State.useFree_issued (s : State) (n : Nat) : (s.useFree n).issued = s.issued := rfl
@[simp] theorem State.useFree_metered (s : State) (n : Nat) : (s.useFree n).metered = s.metered := rfl
@[simp] theorem State.useFree_parts (s : State) (n : Nat) : (s.useFree n).parts = s.parts := rfl
@[simp] theorem State.useFree_seats (s : State) (n : Nat) : (s.useFree n).seats = s.seats := rfl
@[simp] theorem State.useFree_mem (s : State) (n : Nat) : (s.useFree n).mem = s.mem := rfl
@[simp] theorem State.useFree_l1 (s : State) (n : Nat) : (s.useFree n).l1 = s.l1 := rfl
@[simp] theorem State.useFree_tcl (s : State) (n : Nat) : (s.useFree n).tcl = s.tcl := rfl
@[simp] theorem State.useFree_stale (s : State) (n : Nat) : (s.useFree n).stale = s.stale := rfl
@[simp] theorem State.useFree_skews (s : State) (n : Nat) : (s.useFree n).skews = s.skews := rfl
@[simp] theorem State.useFree_poison (s : State) (n : Nat) : (s.useFree n).poison = s.poison := rfl
@[simp] theorem State.useFree_smap (s : State) (n : Nat) : (s.useFree n).smap = s.smap := rfl
@[simp] theorem State.useFree_tgb (s : State) (n : Nat) : (s.useFree n).tgb = s.tgb := rfl
@[simp] theorem State.useFree_dev (s : State) (n : Nat) : (s.useFree n).dev = s.dev := rfl
@[simp] theorem State.useFree_e1 (s : State) (n : Nat) : (s.useFree n).e1 = s.e1 := rfl
@[simp] theorem State.useFree_e2 (s : State) (n : Nat) : (s.useFree n).e2 = s.e2 := rfl
@[simp] theorem State.useFree_refPresent (s : State) (n : Nat) : (s.useFree n).refPresent = s.refPresent := rfl
@[simp] theorem State.useFree_pps (s : State) (n : Nat) : (s.useFree n).pps = s.pps := rfl
@[simp] theorem State.useFree_goodTime (s : State) (n : Nat) : (s.useFree n).goodTime = s.goodTime := rfl
@[simp] theorem State.useFree_tickAdj (s : State) (n : Nat) : (s.useFree n).tickAdj = s.tickAdj := rfl
@[simp] theorem State.useFree_ppsOff (s : State) (n : Nat) : (s.useFree n).ppsOff = s.ppsOff := rfl
@[simp] theorem State.useFree_adjNext (s : State) (n : Nat) : (s.useFree n).adjNext = s.adjNext := rfl
@[simp] theorem State.useFree_meets (s : State) (n : Nat) : (s.useFree n).meets = s.meets := rfl
@[simp] theorem State.useFree_locks (s : State) (n : Nat) : (s.useFree n).locks = s.locks := rfl
@[simp] theorem State.useFree_bufs (s : State) (n : Nat) : (s.useFree n).bufs = s.bufs := rfl
@[simp] theorem State.useFree_chains (s : State) (n : Nat) : (s.useFree n).chains = s.chains := rfl
@[simp] theorem State.useFree_msgs (s : State) (n : Nat) : (s.useFree n).msgs = s.msgs := rfl
@[simp] theorem State.useFree_answers (s : State) (n : Nat) : (s.useFree n).answers = s.answers := rfl
@[simp] theorem State.useFree_graphs (s : State) (n : Nat) : (s.useFree n).graphs = s.graphs := rfl
@[simp] theorem State.useFree_qslots (s : State) (n : Nat) : (s.useFree n).qslots = s.qslots := rfl
@[simp] theorem State.useFree_qserved (s : State) (n : Nat) : (s.useFree n).qserved = s.qserved := rfl
@[simp] theorem State.useFree_evicts (s : State) (n : Nat) : (s.useFree n).evicts = s.evicts := rfl
@[simp] theorem State.useFree_holes (s : State) (n : Nat) : (s.useFree n).holes = s.holes := rfl
@[simp] theorem State.useFree_wins (s : State) (n : Nat) : (s.useFree n).wins = s.wins := rfl
@[simp] theorem State.useFree_binds (s : State) (n : Nat) : (s.useFree n).binds = s.binds := rfl
@[simp] theorem State.useFree_copies (s : State) (n : Nat) : (s.useFree n).copies = s.copies := rfl
@[simp] theorem State.useFree_nextCopy (s : State) (n : Nat) : (s.useFree n).nextCopy = s.nextCopy := rfl
@[simp] theorem State.useFree_grps (s : State) (n : Nat) : (s.useFree n).grps = s.grps := rfl
@[simp] theorem State.useFree_leases (s : State) (n : Nat) : (s.useFree n).leases = s.leases := rfl
@[simp] theorem State.useFree_leaseQ (s : State) (n : Nat) : (s.useFree n).leaseQ = s.leaseQ := rfl
@[simp] theorem State.useFree_links (s : State) (n : Nat) : (s.useFree n).links = s.links := rfl
@[simp] theorem State.useFree_unrouted (s : State) (n : Nat) : (s.useFree n).unrouted = s.unrouted := rfl
@[simp] theorem State.useFree_strayClocks (s : State) (n : Nat) : (s.useFree n).strayClocks = s.strayClocks := rfl
@[simp] theorem State.useFree_farDown (s : State) (n : Nat) : (s.useFree n).farDown = s.farDown := rfl
@[simp] theorem State.useFree_tree (s : State) (n : Nat) : (s.useFree n).tree = s.tree := rfl
@[simp] theorem State.useFree_vecIns (s : State) (n : Nat) : (s.useFree n).vecIns = s.vecIns := rfl
@[simp] theorem State.useFree_tickSet (s : State) (n : Nat) : (s.useFree n).tickSet = s.tickSet := rfl
@[simp] theorem State.useFree_resvs (s : State) (n : Nat) : (s.useFree n).resvs = s.resvs := rfl
@[simp] theorem State.useFree_nextTag (s : State) (n : Nat) : (s.useFree n).nextTag = s.nextTag := rfl
@[simp] theorem State.useFree_oseqs (s : State) (n : Nat) : (s.useFree n).oseqs = s.oseqs := rfl
@[simp] theorem State.useFree_streams (s : State) (n : Nat) : (s.useFree n).streams = s.streams := rfl
@[simp] theorem State.useFree_incs (s : State) (n : Nat) : (s.useFree n).incs = s.incs := rfl
@[simp] theorem State.useFree_imports (s : State) (n : Nat) : (s.useFree n).imports = s.imports := rfl
@[simp] theorem State.useFree_sides (s : State) (n : Nat) : (s.useFree n).sides = s.sides := rfl
@[simp] theorem State.useFree_migrs (s : State) (n : Nat) : (s.useFree n).migrs = s.migrs := rfl
@[simp] theorem State.useFree_redir (s : State) (n : Nat) : (s.useFree n).redir = s.redir := rfl
@[simp] theorem State.useFree_tlb (s : State) (n : Nat) : (s.useFree n).tlb = s.tlb := rfl
@[simp] theorem State.useFree_shoot (s : State) (n : Nat) : (s.useFree n).shoot = s.shoot := rfl
@[simp] theorem State.useFree_rots (s : State) (n : Nat) : (s.useFree n).rots = s.rots := rfl
@[simp] theorem State.useFree_saved (s : State) (n : Nat) : (s.useFree n).saved = s.saved := rfl
@[simp] theorem State.useFree_ckpts (s : State) (n : Nat) : (s.useFree n).ckpts = s.ckpts := rfl
@[simp] theorem State.useFree_ncl (s : State) (n : Nat) : (s.useFree n).ncl = s.ncl := rfl
@[simp] theorem State.useFree_meas (s : State) (n : Nat) : (s.useFree n).meas = s.meas := rfl
@[simp] theorem State.useFree_life (s : State) (n : Nat) : (s.useFree n).life = s.life := rfl
@[simp] theorem State.useFree_bootCount (s : State) (n : Nat) : (s.useFree n).bootCount = s.bootCount := rfl
@[simp] theorem State.useFree_boot (s : State) (n : Nat) : (s.useFree n).boot = s.boot := rfl
@[simp] theorem State.useFree_throttle (s : State) (n : Nat) : (s.useFree n).throttle = s.throttle := rfl
@[simp] theorem State.useFree_out (s : State) (n : Nat) : (s.useFree n).out = s.out := rfl
@[simp] theorem State.useFree_inputs (s : State) (n : Nat) : (s.useFree n).inputs = s.inputs := rfl
@[simp] theorem State.useFree_later (s : State) (n : Nat) : (s.useFree n).later = s.later := rfl
@[simp] theorem State.useFree_lat (s : State) (n : Nat) : (s.useFree n).lat = s.lat := rfl
@[simp] theorem State.useFree_issue (s : State) (n : Nat) : (s.useFree n).issue = s.issue := rfl
@[simp] theorem State.useFree_lag (s : State) (n : Nat) : (s.useFree n).lag = s.lag := rfl
@[simp] theorem State.useFree_cursor (s : State) (n : Nat) : (s.useFree n).cursor = s.cursor := rfl
@[simp] theorem State.useFree_lastRun (s : State) (n : Nat) : (s.useFree n).lastRun = s.lastRun := rfl

/-! ## `State.setSeat` changes the seats alone -/

@[simp] theorem State.setSeat_c (s : State) (core pos : Nat) (f : Seat → Seat) : (s.setSeat core pos f).c = s.c := rfl
@[simp] theorem State.setSeat_others (s : State) (core pos : Nat) (f : Seat → Seat) : (s.setSeat core pos f).others = s.others := rfl
@[simp] theorem State.setSeat_nextId (s : State) (core pos : Nat) (f : Seat → Seat) : (s.setSeat core pos f).nextId = s.nextId := rfl
@[simp] theorem State.setSeat_tick (s : State) (core pos : Nat) (f : Seat → Seat) : (s.setSeat core pos f).tick = s.tick := rfl
@[simp] theorem State.setSeat_cyc (s : State) (core pos : Nat) (f : Seat → Seat) : (s.setSeat core pos f).cyc = s.cyc := rfl
@[simp] theorem State.setSeat_cycle (s : State) (core pos : Nat) (f : Seat → Seat) : (s.setSeat core pos f).cycle = s.cycle := rfl
@[simp] theorem State.setSeat_issued (s : State) (core pos : Nat) (f : Seat → Seat) : (s.setSeat core pos f).issued = s.issued := rfl
@[simp] theorem State.setSeat_metered (s : State) (core pos : Nat) (f : Seat → Seat) : (s.setSeat core pos f).metered = s.metered := rfl
@[simp] theorem State.setSeat_parts (s : State) (core pos : Nat) (f : Seat → Seat) : (s.setSeat core pos f).parts = s.parts := rfl
@[simp] theorem State.setSeat_mem (s : State) (core pos : Nat) (f : Seat → Seat) : (s.setSeat core pos f).mem = s.mem := rfl
@[simp] theorem State.setSeat_l1 (s : State) (core pos : Nat) (f : Seat → Seat) : (s.setSeat core pos f).l1 = s.l1 := rfl
@[simp] theorem State.setSeat_tcl (s : State) (core pos : Nat) (f : Seat → Seat) : (s.setSeat core pos f).tcl = s.tcl := rfl
@[simp] theorem State.setSeat_stale (s : State) (core pos : Nat) (f : Seat → Seat) : (s.setSeat core pos f).stale = s.stale := rfl
@[simp] theorem State.setSeat_skews (s : State) (core pos : Nat) (f : Seat → Seat) : (s.setSeat core pos f).skews = s.skews := rfl
@[simp] theorem State.setSeat_poison (s : State) (core pos : Nat) (f : Seat → Seat) : (s.setSeat core pos f).poison = s.poison := rfl
@[simp] theorem State.setSeat_smap (s : State) (core pos : Nat) (f : Seat → Seat) : (s.setSeat core pos f).smap = s.smap := rfl
@[simp] theorem State.setSeat_tgb (s : State) (core pos : Nat) (f : Seat → Seat) : (s.setSeat core pos f).tgb = s.tgb := rfl
@[simp] theorem State.setSeat_dev (s : State) (core pos : Nat) (f : Seat → Seat) : (s.setSeat core pos f).dev = s.dev := rfl
@[simp] theorem State.setSeat_e1 (s : State) (core pos : Nat) (f : Seat → Seat) : (s.setSeat core pos f).e1 = s.e1 := rfl
@[simp] theorem State.setSeat_e2 (s : State) (core pos : Nat) (f : Seat → Seat) : (s.setSeat core pos f).e2 = s.e2 := rfl
@[simp] theorem State.setSeat_refPresent (s : State) (core pos : Nat) (f : Seat → Seat) : (s.setSeat core pos f).refPresent = s.refPresent := rfl
@[simp] theorem State.setSeat_pps (s : State) (core pos : Nat) (f : Seat → Seat) : (s.setSeat core pos f).pps = s.pps := rfl
@[simp] theorem State.setSeat_goodTime (s : State) (core pos : Nat) (f : Seat → Seat) : (s.setSeat core pos f).goodTime = s.goodTime := rfl
@[simp] theorem State.setSeat_tickAdj (s : State) (core pos : Nat) (f : Seat → Seat) : (s.setSeat core pos f).tickAdj = s.tickAdj := rfl
@[simp] theorem State.setSeat_ppsOff (s : State) (core pos : Nat) (f : Seat → Seat) : (s.setSeat core pos f).ppsOff = s.ppsOff := rfl
@[simp] theorem State.setSeat_adjNext (s : State) (core pos : Nat) (f : Seat → Seat) : (s.setSeat core pos f).adjNext = s.adjNext := rfl
@[simp] theorem State.setSeat_meets (s : State) (core pos : Nat) (f : Seat → Seat) : (s.setSeat core pos f).meets = s.meets := rfl
@[simp] theorem State.setSeat_locks (s : State) (core pos : Nat) (f : Seat → Seat) : (s.setSeat core pos f).locks = s.locks := rfl
@[simp] theorem State.setSeat_bufs (s : State) (core pos : Nat) (f : Seat → Seat) : (s.setSeat core pos f).bufs = s.bufs := rfl
@[simp] theorem State.setSeat_chains (s : State) (core pos : Nat) (f : Seat → Seat) : (s.setSeat core pos f).chains = s.chains := rfl
@[simp] theorem State.setSeat_msgs (s : State) (core pos : Nat) (f : Seat → Seat) : (s.setSeat core pos f).msgs = s.msgs := rfl
@[simp] theorem State.setSeat_answers (s : State) (core pos : Nat) (f : Seat → Seat) : (s.setSeat core pos f).answers = s.answers := rfl
@[simp] theorem State.setSeat_graphs (s : State) (core pos : Nat) (f : Seat → Seat) : (s.setSeat core pos f).graphs = s.graphs := rfl
@[simp] theorem State.setSeat_qslots (s : State) (core pos : Nat) (f : Seat → Seat) : (s.setSeat core pos f).qslots = s.qslots := rfl
@[simp] theorem State.setSeat_qserved (s : State) (core pos : Nat) (f : Seat → Seat) : (s.setSeat core pos f).qserved = s.qserved := rfl
@[simp] theorem State.setSeat_evicts (s : State) (core pos : Nat) (f : Seat → Seat) : (s.setSeat core pos f).evicts = s.evicts := rfl
@[simp] theorem State.setSeat_holes (s : State) (core pos : Nat) (f : Seat → Seat) : (s.setSeat core pos f).holes = s.holes := rfl
@[simp] theorem State.setSeat_wins (s : State) (core pos : Nat) (f : Seat → Seat) : (s.setSeat core pos f).wins = s.wins := rfl
@[simp] theorem State.setSeat_binds (s : State) (core pos : Nat) (f : Seat → Seat) : (s.setSeat core pos f).binds = s.binds := rfl
@[simp] theorem State.setSeat_copies (s : State) (core pos : Nat) (f : Seat → Seat) : (s.setSeat core pos f).copies = s.copies := rfl
@[simp] theorem State.setSeat_nextCopy (s : State) (core pos : Nat) (f : Seat → Seat) : (s.setSeat core pos f).nextCopy = s.nextCopy := rfl
@[simp] theorem State.setSeat_grps (s : State) (core pos : Nat) (f : Seat → Seat) : (s.setSeat core pos f).grps = s.grps := rfl
@[simp] theorem State.setSeat_leases (s : State) (core pos : Nat) (f : Seat → Seat) : (s.setSeat core pos f).leases = s.leases := rfl
@[simp] theorem State.setSeat_leaseQ (s : State) (core pos : Nat) (f : Seat → Seat) : (s.setSeat core pos f).leaseQ = s.leaseQ := rfl
@[simp] theorem State.setSeat_links (s : State) (core pos : Nat) (f : Seat → Seat) : (s.setSeat core pos f).links = s.links := rfl
@[simp] theorem State.setSeat_unrouted (s : State) (core pos : Nat) (f : Seat → Seat) : (s.setSeat core pos f).unrouted = s.unrouted := rfl
@[simp] theorem State.setSeat_strayClocks (s : State) (core pos : Nat) (f : Seat → Seat) : (s.setSeat core pos f).strayClocks = s.strayClocks := rfl
@[simp] theorem State.setSeat_farDown (s : State) (core pos : Nat) (f : Seat → Seat) : (s.setSeat core pos f).farDown = s.farDown := rfl
@[simp] theorem State.setSeat_tree (s : State) (core pos : Nat) (f : Seat → Seat) : (s.setSeat core pos f).tree = s.tree := rfl
@[simp] theorem State.setSeat_vecIns (s : State) (core pos : Nat) (f : Seat → Seat) : (s.setSeat core pos f).vecIns = s.vecIns := rfl
@[simp] theorem State.setSeat_tickSet (s : State) (core pos : Nat) (f : Seat → Seat) : (s.setSeat core pos f).tickSet = s.tickSet := rfl
@[simp] theorem State.setSeat_resvs (s : State) (core pos : Nat) (f : Seat → Seat) : (s.setSeat core pos f).resvs = s.resvs := rfl
@[simp] theorem State.setSeat_nextTag (s : State) (core pos : Nat) (f : Seat → Seat) : (s.setSeat core pos f).nextTag = s.nextTag := rfl
@[simp] theorem State.setSeat_oseqs (s : State) (core pos : Nat) (f : Seat → Seat) : (s.setSeat core pos f).oseqs = s.oseqs := rfl
@[simp] theorem State.setSeat_streams (s : State) (core pos : Nat) (f : Seat → Seat) : (s.setSeat core pos f).streams = s.streams := rfl
@[simp] theorem State.setSeat_incs (s : State) (core pos : Nat) (f : Seat → Seat) : (s.setSeat core pos f).incs = s.incs := rfl
@[simp] theorem State.setSeat_imports (s : State) (core pos : Nat) (f : Seat → Seat) : (s.setSeat core pos f).imports = s.imports := rfl
@[simp] theorem State.setSeat_sides (s : State) (core pos : Nat) (f : Seat → Seat) : (s.setSeat core pos f).sides = s.sides := rfl
@[simp] theorem State.setSeat_migrs (s : State) (core pos : Nat) (f : Seat → Seat) : (s.setSeat core pos f).migrs = s.migrs := rfl
@[simp] theorem State.setSeat_redir (s : State) (core pos : Nat) (f : Seat → Seat) : (s.setSeat core pos f).redir = s.redir := rfl
@[simp] theorem State.setSeat_tlb (s : State) (core pos : Nat) (f : Seat → Seat) : (s.setSeat core pos f).tlb = s.tlb := rfl
@[simp] theorem State.setSeat_shoot (s : State) (core pos : Nat) (f : Seat → Seat) : (s.setSeat core pos f).shoot = s.shoot := rfl
@[simp] theorem State.setSeat_rots (s : State) (core pos : Nat) (f : Seat → Seat) : (s.setSeat core pos f).rots = s.rots := rfl
@[simp] theorem State.setSeat_saved (s : State) (core pos : Nat) (f : Seat → Seat) : (s.setSeat core pos f).saved = s.saved := rfl
@[simp] theorem State.setSeat_ckpts (s : State) (core pos : Nat) (f : Seat → Seat) : (s.setSeat core pos f).ckpts = s.ckpts := rfl
@[simp] theorem State.setSeat_ncl (s : State) (core pos : Nat) (f : Seat → Seat) : (s.setSeat core pos f).ncl = s.ncl := rfl
@[simp] theorem State.setSeat_meas (s : State) (core pos : Nat) (f : Seat → Seat) : (s.setSeat core pos f).meas = s.meas := rfl
@[simp] theorem State.setSeat_life (s : State) (core pos : Nat) (f : Seat → Seat) : (s.setSeat core pos f).life = s.life := rfl
@[simp] theorem State.setSeat_bootCount (s : State) (core pos : Nat) (f : Seat → Seat) : (s.setSeat core pos f).bootCount = s.bootCount := rfl
@[simp] theorem State.setSeat_boot (s : State) (core pos : Nat) (f : Seat → Seat) : (s.setSeat core pos f).boot = s.boot := rfl
@[simp] theorem State.setSeat_throttle (s : State) (core pos : Nat) (f : Seat → Seat) : (s.setSeat core pos f).throttle = s.throttle := rfl
@[simp] theorem State.setSeat_out (s : State) (core pos : Nat) (f : Seat → Seat) : (s.setSeat core pos f).out = s.out := rfl
@[simp] theorem State.setSeat_inputs (s : State) (core pos : Nat) (f : Seat → Seat) : (s.setSeat core pos f).inputs = s.inputs := rfl
@[simp] theorem State.setSeat_later (s : State) (core pos : Nat) (f : Seat → Seat) : (s.setSeat core pos f).later = s.later := rfl
@[simp] theorem State.setSeat_lat (s : State) (core pos : Nat) (f : Seat → Seat) : (s.setSeat core pos f).lat = s.lat := rfl
@[simp] theorem State.setSeat_free (s : State) (core pos : Nat) (f : Seat → Seat) : (s.setSeat core pos f).free = s.free := rfl
@[simp] theorem State.setSeat_issue (s : State) (core pos : Nat) (f : Seat → Seat) : (s.setSeat core pos f).issue = s.issue := rfl
@[simp] theorem State.setSeat_lag (s : State) (core pos : Nat) (f : Seat → Seat) : (s.setSeat core pos f).lag = s.lag := rfl
@[simp] theorem State.setSeat_cursor (s : State) (core pos : Nat) (f : Seat → Seat) : (s.setSeat core pos f).cursor = s.cursor := rfl
@[simp] theorem State.setSeat_lastRun (s : State) (core pos : Nat) (f : Seat → Seat) : (s.setSeat core pos f).lastRun = s.lastRun := rfl

/-! ## `State.setLink` changes the links alone -/

@[simp] theorem State.setLink_c (s : State) (d : Nat) (f : Link → Link) : (s.setLink d f).c = s.c := rfl
@[simp] theorem State.setLink_others (s : State) (d : Nat) (f : Link → Link) : (s.setLink d f).others = s.others := rfl
@[simp] theorem State.setLink_nextId (s : State) (d : Nat) (f : Link → Link) : (s.setLink d f).nextId = s.nextId := rfl
@[simp] theorem State.setLink_tick (s : State) (d : Nat) (f : Link → Link) : (s.setLink d f).tick = s.tick := rfl
@[simp] theorem State.setLink_cyc (s : State) (d : Nat) (f : Link → Link) : (s.setLink d f).cyc = s.cyc := rfl
@[simp] theorem State.setLink_cycle (s : State) (d : Nat) (f : Link → Link) : (s.setLink d f).cycle = s.cycle := rfl
@[simp] theorem State.setLink_issued (s : State) (d : Nat) (f : Link → Link) : (s.setLink d f).issued = s.issued := rfl
@[simp] theorem State.setLink_metered (s : State) (d : Nat) (f : Link → Link) : (s.setLink d f).metered = s.metered := rfl
@[simp] theorem State.setLink_parts (s : State) (d : Nat) (f : Link → Link) : (s.setLink d f).parts = s.parts := rfl
@[simp] theorem State.setLink_seats (s : State) (d : Nat) (f : Link → Link) : (s.setLink d f).seats = s.seats := rfl
@[simp] theorem State.setLink_mem (s : State) (d : Nat) (f : Link → Link) : (s.setLink d f).mem = s.mem := rfl
@[simp] theorem State.setLink_l1 (s : State) (d : Nat) (f : Link → Link) : (s.setLink d f).l1 = s.l1 := rfl
@[simp] theorem State.setLink_tcl (s : State) (d : Nat) (f : Link → Link) : (s.setLink d f).tcl = s.tcl := rfl
@[simp] theorem State.setLink_stale (s : State) (d : Nat) (f : Link → Link) : (s.setLink d f).stale = s.stale := rfl
@[simp] theorem State.setLink_skews (s : State) (d : Nat) (f : Link → Link) : (s.setLink d f).skews = s.skews := rfl
@[simp] theorem State.setLink_poison (s : State) (d : Nat) (f : Link → Link) : (s.setLink d f).poison = s.poison := rfl
@[simp] theorem State.setLink_smap (s : State) (d : Nat) (f : Link → Link) : (s.setLink d f).smap = s.smap := rfl
@[simp] theorem State.setLink_tgb (s : State) (d : Nat) (f : Link → Link) : (s.setLink d f).tgb = s.tgb := rfl
@[simp] theorem State.setLink_dev (s : State) (d : Nat) (f : Link → Link) : (s.setLink d f).dev = s.dev := rfl
@[simp] theorem State.setLink_e1 (s : State) (d : Nat) (f : Link → Link) : (s.setLink d f).e1 = s.e1 := rfl
@[simp] theorem State.setLink_e2 (s : State) (d : Nat) (f : Link → Link) : (s.setLink d f).e2 = s.e2 := rfl
@[simp] theorem State.setLink_refPresent (s : State) (d : Nat) (f : Link → Link) : (s.setLink d f).refPresent = s.refPresent := rfl
@[simp] theorem State.setLink_pps (s : State) (d : Nat) (f : Link → Link) : (s.setLink d f).pps = s.pps := rfl
@[simp] theorem State.setLink_goodTime (s : State) (d : Nat) (f : Link → Link) : (s.setLink d f).goodTime = s.goodTime := rfl
@[simp] theorem State.setLink_tickAdj (s : State) (d : Nat) (f : Link → Link) : (s.setLink d f).tickAdj = s.tickAdj := rfl
@[simp] theorem State.setLink_ppsOff (s : State) (d : Nat) (f : Link → Link) : (s.setLink d f).ppsOff = s.ppsOff := rfl
@[simp] theorem State.setLink_adjNext (s : State) (d : Nat) (f : Link → Link) : (s.setLink d f).adjNext = s.adjNext := rfl
@[simp] theorem State.setLink_meets (s : State) (d : Nat) (f : Link → Link) : (s.setLink d f).meets = s.meets := rfl
@[simp] theorem State.setLink_locks (s : State) (d : Nat) (f : Link → Link) : (s.setLink d f).locks = s.locks := rfl
@[simp] theorem State.setLink_bufs (s : State) (d : Nat) (f : Link → Link) : (s.setLink d f).bufs = s.bufs := rfl
@[simp] theorem State.setLink_chains (s : State) (d : Nat) (f : Link → Link) : (s.setLink d f).chains = s.chains := rfl
@[simp] theorem State.setLink_msgs (s : State) (d : Nat) (f : Link → Link) : (s.setLink d f).msgs = s.msgs := rfl
@[simp] theorem State.setLink_answers (s : State) (d : Nat) (f : Link → Link) : (s.setLink d f).answers = s.answers := rfl
@[simp] theorem State.setLink_graphs (s : State) (d : Nat) (f : Link → Link) : (s.setLink d f).graphs = s.graphs := rfl
@[simp] theorem State.setLink_qslots (s : State) (d : Nat) (f : Link → Link) : (s.setLink d f).qslots = s.qslots := rfl
@[simp] theorem State.setLink_qserved (s : State) (d : Nat) (f : Link → Link) : (s.setLink d f).qserved = s.qserved := rfl
@[simp] theorem State.setLink_evicts (s : State) (d : Nat) (f : Link → Link) : (s.setLink d f).evicts = s.evicts := rfl
@[simp] theorem State.setLink_holes (s : State) (d : Nat) (f : Link → Link) : (s.setLink d f).holes = s.holes := rfl
@[simp] theorem State.setLink_wins (s : State) (d : Nat) (f : Link → Link) : (s.setLink d f).wins = s.wins := rfl
@[simp] theorem State.setLink_binds (s : State) (d : Nat) (f : Link → Link) : (s.setLink d f).binds = s.binds := rfl
@[simp] theorem State.setLink_copies (s : State) (d : Nat) (f : Link → Link) : (s.setLink d f).copies = s.copies := rfl
@[simp] theorem State.setLink_nextCopy (s : State) (d : Nat) (f : Link → Link) : (s.setLink d f).nextCopy = s.nextCopy := rfl
@[simp] theorem State.setLink_grps (s : State) (d : Nat) (f : Link → Link) : (s.setLink d f).grps = s.grps := rfl
@[simp] theorem State.setLink_leases (s : State) (d : Nat) (f : Link → Link) : (s.setLink d f).leases = s.leases := rfl
@[simp] theorem State.setLink_leaseQ (s : State) (d : Nat) (f : Link → Link) : (s.setLink d f).leaseQ = s.leaseQ := rfl
@[simp] theorem State.setLink_unrouted (s : State) (d : Nat) (f : Link → Link) : (s.setLink d f).unrouted = s.unrouted := rfl
@[simp] theorem State.setLink_strayClocks (s : State) (d : Nat) (f : Link → Link) : (s.setLink d f).strayClocks = s.strayClocks := rfl
@[simp] theorem State.setLink_farDown (s : State) (d : Nat) (f : Link → Link) : (s.setLink d f).farDown = s.farDown := rfl
@[simp] theorem State.setLink_tree (s : State) (d : Nat) (f : Link → Link) : (s.setLink d f).tree = s.tree := rfl
@[simp] theorem State.setLink_vecIns (s : State) (d : Nat) (f : Link → Link) : (s.setLink d f).vecIns = s.vecIns := rfl
@[simp] theorem State.setLink_tickSet (s : State) (d : Nat) (f : Link → Link) : (s.setLink d f).tickSet = s.tickSet := rfl
@[simp] theorem State.setLink_resvs (s : State) (d : Nat) (f : Link → Link) : (s.setLink d f).resvs = s.resvs := rfl
@[simp] theorem State.setLink_nextTag (s : State) (d : Nat) (f : Link → Link) : (s.setLink d f).nextTag = s.nextTag := rfl
@[simp] theorem State.setLink_oseqs (s : State) (d : Nat) (f : Link → Link) : (s.setLink d f).oseqs = s.oseqs := rfl
@[simp] theorem State.setLink_streams (s : State) (d : Nat) (f : Link → Link) : (s.setLink d f).streams = s.streams := rfl
@[simp] theorem State.setLink_incs (s : State) (d : Nat) (f : Link → Link) : (s.setLink d f).incs = s.incs := rfl
@[simp] theorem State.setLink_imports (s : State) (d : Nat) (f : Link → Link) : (s.setLink d f).imports = s.imports := rfl
@[simp] theorem State.setLink_sides (s : State) (d : Nat) (f : Link → Link) : (s.setLink d f).sides = s.sides := rfl
@[simp] theorem State.setLink_migrs (s : State) (d : Nat) (f : Link → Link) : (s.setLink d f).migrs = s.migrs := rfl
@[simp] theorem State.setLink_redir (s : State) (d : Nat) (f : Link → Link) : (s.setLink d f).redir = s.redir := rfl
@[simp] theorem State.setLink_tlb (s : State) (d : Nat) (f : Link → Link) : (s.setLink d f).tlb = s.tlb := rfl
@[simp] theorem State.setLink_shoot (s : State) (d : Nat) (f : Link → Link) : (s.setLink d f).shoot = s.shoot := rfl
@[simp] theorem State.setLink_rots (s : State) (d : Nat) (f : Link → Link) : (s.setLink d f).rots = s.rots := rfl
@[simp] theorem State.setLink_saved (s : State) (d : Nat) (f : Link → Link) : (s.setLink d f).saved = s.saved := rfl
@[simp] theorem State.setLink_ckpts (s : State) (d : Nat) (f : Link → Link) : (s.setLink d f).ckpts = s.ckpts := rfl
@[simp] theorem State.setLink_ncl (s : State) (d : Nat) (f : Link → Link) : (s.setLink d f).ncl = s.ncl := rfl
@[simp] theorem State.setLink_meas (s : State) (d : Nat) (f : Link → Link) : (s.setLink d f).meas = s.meas := rfl
@[simp] theorem State.setLink_life (s : State) (d : Nat) (f : Link → Link) : (s.setLink d f).life = s.life := rfl
@[simp] theorem State.setLink_bootCount (s : State) (d : Nat) (f : Link → Link) : (s.setLink d f).bootCount = s.bootCount := rfl
@[simp] theorem State.setLink_boot (s : State) (d : Nat) (f : Link → Link) : (s.setLink d f).boot = s.boot := rfl
@[simp] theorem State.setLink_throttle (s : State) (d : Nat) (f : Link → Link) : (s.setLink d f).throttle = s.throttle := rfl
@[simp] theorem State.setLink_out (s : State) (d : Nat) (f : Link → Link) : (s.setLink d f).out = s.out := rfl
@[simp] theorem State.setLink_inputs (s : State) (d : Nat) (f : Link → Link) : (s.setLink d f).inputs = s.inputs := rfl
@[simp] theorem State.setLink_later (s : State) (d : Nat) (f : Link → Link) : (s.setLink d f).later = s.later := rfl
@[simp] theorem State.setLink_lat (s : State) (d : Nat) (f : Link → Link) : (s.setLink d f).lat = s.lat := rfl
@[simp] theorem State.setLink_free (s : State) (d : Nat) (f : Link → Link) : (s.setLink d f).free = s.free := rfl
@[simp] theorem State.setLink_issue (s : State) (d : Nat) (f : Link → Link) : (s.setLink d f).issue = s.issue := rfl
@[simp] theorem State.setLink_lag (s : State) (d : Nat) (f : Link → Link) : (s.setLink d f).lag = s.lag := rfl
@[simp] theorem State.setLink_cursor (s : State) (d : Nat) (f : Link → Link) : (s.setLink d f).cursor = s.cursor := rfl
@[simp] theorem State.setLink_lastRun (s : State) (d : Nat) (f : Link → Link) : (s.setLink d f).lastRun = s.lastRun := rfl

/-! ## `State.postEvent` changes the partitions alone -/

@[simp] theorem State.postEvent_c (s : State) (p k w d : Nat) : (s.postEvent p k w d).c = s.c := rfl
@[simp] theorem State.postEvent_others (s : State) (p k w d : Nat) : (s.postEvent p k w d).others = s.others := rfl
@[simp] theorem State.postEvent_nextId (s : State) (p k w d : Nat) : (s.postEvent p k w d).nextId = s.nextId := rfl
@[simp] theorem State.postEvent_tick (s : State) (p k w d : Nat) : (s.postEvent p k w d).tick = s.tick := rfl
@[simp] theorem State.postEvent_cyc (s : State) (p k w d : Nat) : (s.postEvent p k w d).cyc = s.cyc := rfl
@[simp] theorem State.postEvent_cycle (s : State) (p k w d : Nat) : (s.postEvent p k w d).cycle = s.cycle := rfl
@[simp] theorem State.postEvent_issued (s : State) (p k w d : Nat) : (s.postEvent p k w d).issued = s.issued := rfl
@[simp] theorem State.postEvent_metered (s : State) (p k w d : Nat) : (s.postEvent p k w d).metered = s.metered := rfl
@[simp] theorem State.postEvent_seats (s : State) (p k w d : Nat) : (s.postEvent p k w d).seats = s.seats := rfl
@[simp] theorem State.postEvent_mem (s : State) (p k w d : Nat) : (s.postEvent p k w d).mem = s.mem := rfl
@[simp] theorem State.postEvent_l1 (s : State) (p k w d : Nat) : (s.postEvent p k w d).l1 = s.l1 := rfl
@[simp] theorem State.postEvent_tcl (s : State) (p k w d : Nat) : (s.postEvent p k w d).tcl = s.tcl := rfl
@[simp] theorem State.postEvent_stale (s : State) (p k w d : Nat) : (s.postEvent p k w d).stale = s.stale := rfl
@[simp] theorem State.postEvent_skews (s : State) (p k w d : Nat) : (s.postEvent p k w d).skews = s.skews := rfl
@[simp] theorem State.postEvent_poison (s : State) (p k w d : Nat) : (s.postEvent p k w d).poison = s.poison := rfl
@[simp] theorem State.postEvent_smap (s : State) (p k w d : Nat) : (s.postEvent p k w d).smap = s.smap := rfl
@[simp] theorem State.postEvent_tgb (s : State) (p k w d : Nat) : (s.postEvent p k w d).tgb = s.tgb := rfl
@[simp] theorem State.postEvent_dev (s : State) (p k w d : Nat) : (s.postEvent p k w d).dev = s.dev := rfl
@[simp] theorem State.postEvent_e1 (s : State) (p k w d : Nat) : (s.postEvent p k w d).e1 = s.e1 := rfl
@[simp] theorem State.postEvent_e2 (s : State) (p k w d : Nat) : (s.postEvent p k w d).e2 = s.e2 := rfl
@[simp] theorem State.postEvent_refPresent (s : State) (p k w d : Nat) : (s.postEvent p k w d).refPresent = s.refPresent := rfl
@[simp] theorem State.postEvent_pps (s : State) (p k w d : Nat) : (s.postEvent p k w d).pps = s.pps := rfl
@[simp] theorem State.postEvent_goodTime (s : State) (p k w d : Nat) : (s.postEvent p k w d).goodTime = s.goodTime := rfl
@[simp] theorem State.postEvent_tickAdj (s : State) (p k w d : Nat) : (s.postEvent p k w d).tickAdj = s.tickAdj := rfl
@[simp] theorem State.postEvent_ppsOff (s : State) (p k w d : Nat) : (s.postEvent p k w d).ppsOff = s.ppsOff := rfl
@[simp] theorem State.postEvent_adjNext (s : State) (p k w d : Nat) : (s.postEvent p k w d).adjNext = s.adjNext := rfl
@[simp] theorem State.postEvent_meets (s : State) (p k w d : Nat) : (s.postEvent p k w d).meets = s.meets := rfl
@[simp] theorem State.postEvent_locks (s : State) (p k w d : Nat) : (s.postEvent p k w d).locks = s.locks := rfl
@[simp] theorem State.postEvent_bufs (s : State) (p k w d : Nat) : (s.postEvent p k w d).bufs = s.bufs := rfl
@[simp] theorem State.postEvent_chains (s : State) (p k w d : Nat) : (s.postEvent p k w d).chains = s.chains := rfl
@[simp] theorem State.postEvent_msgs (s : State) (p k w d : Nat) : (s.postEvent p k w d).msgs = s.msgs := rfl
@[simp] theorem State.postEvent_answers (s : State) (p k w d : Nat) : (s.postEvent p k w d).answers = s.answers := rfl
@[simp] theorem State.postEvent_graphs (s : State) (p k w d : Nat) : (s.postEvent p k w d).graphs = s.graphs := rfl
@[simp] theorem State.postEvent_qslots (s : State) (p k w d : Nat) : (s.postEvent p k w d).qslots = s.qslots := rfl
@[simp] theorem State.postEvent_qserved (s : State) (p k w d : Nat) : (s.postEvent p k w d).qserved = s.qserved := rfl
@[simp] theorem State.postEvent_evicts (s : State) (p k w d : Nat) : (s.postEvent p k w d).evicts = s.evicts := rfl
@[simp] theorem State.postEvent_holes (s : State) (p k w d : Nat) : (s.postEvent p k w d).holes = s.holes := rfl
@[simp] theorem State.postEvent_wins (s : State) (p k w d : Nat) : (s.postEvent p k w d).wins = s.wins := rfl
@[simp] theorem State.postEvent_binds (s : State) (p k w d : Nat) : (s.postEvent p k w d).binds = s.binds := rfl
@[simp] theorem State.postEvent_copies (s : State) (p k w d : Nat) : (s.postEvent p k w d).copies = s.copies := rfl
@[simp] theorem State.postEvent_nextCopy (s : State) (p k w d : Nat) : (s.postEvent p k w d).nextCopy = s.nextCopy := rfl
@[simp] theorem State.postEvent_grps (s : State) (p k w d : Nat) : (s.postEvent p k w d).grps = s.grps := rfl
@[simp] theorem State.postEvent_leases (s : State) (p k w d : Nat) : (s.postEvent p k w d).leases = s.leases := rfl
@[simp] theorem State.postEvent_leaseQ (s : State) (p k w d : Nat) : (s.postEvent p k w d).leaseQ = s.leaseQ := rfl
@[simp] theorem State.postEvent_links (s : State) (p k w d : Nat) : (s.postEvent p k w d).links = s.links := rfl
@[simp] theorem State.postEvent_unrouted (s : State) (p k w d : Nat) : (s.postEvent p k w d).unrouted = s.unrouted := rfl
@[simp] theorem State.postEvent_strayClocks (s : State) (p k w d : Nat) : (s.postEvent p k w d).strayClocks = s.strayClocks := rfl
@[simp] theorem State.postEvent_farDown (s : State) (p k w d : Nat) : (s.postEvent p k w d).farDown = s.farDown := rfl
@[simp] theorem State.postEvent_tree (s : State) (p k w d : Nat) : (s.postEvent p k w d).tree = s.tree := rfl
@[simp] theorem State.postEvent_vecIns (s : State) (p k w d : Nat) : (s.postEvent p k w d).vecIns = s.vecIns := rfl
@[simp] theorem State.postEvent_tickSet (s : State) (p k w d : Nat) : (s.postEvent p k w d).tickSet = s.tickSet := rfl
@[simp] theorem State.postEvent_resvs (s : State) (p k w d : Nat) : (s.postEvent p k w d).resvs = s.resvs := rfl
@[simp] theorem State.postEvent_nextTag (s : State) (p k w d : Nat) : (s.postEvent p k w d).nextTag = s.nextTag := rfl
@[simp] theorem State.postEvent_oseqs (s : State) (p k w d : Nat) : (s.postEvent p k w d).oseqs = s.oseqs := rfl
@[simp] theorem State.postEvent_streams (s : State) (p k w d : Nat) : (s.postEvent p k w d).streams = s.streams := rfl
@[simp] theorem State.postEvent_incs (s : State) (p k w d : Nat) : (s.postEvent p k w d).incs = s.incs := rfl
@[simp] theorem State.postEvent_imports (s : State) (p k w d : Nat) : (s.postEvent p k w d).imports = s.imports := rfl
@[simp] theorem State.postEvent_sides (s : State) (p k w d : Nat) : (s.postEvent p k w d).sides = s.sides := rfl
@[simp] theorem State.postEvent_migrs (s : State) (p k w d : Nat) : (s.postEvent p k w d).migrs = s.migrs := rfl
@[simp] theorem State.postEvent_redir (s : State) (p k w d : Nat) : (s.postEvent p k w d).redir = s.redir := rfl
@[simp] theorem State.postEvent_tlb (s : State) (p k w d : Nat) : (s.postEvent p k w d).tlb = s.tlb := rfl
@[simp] theorem State.postEvent_shoot (s : State) (p k w d : Nat) : (s.postEvent p k w d).shoot = s.shoot := rfl
@[simp] theorem State.postEvent_rots (s : State) (p k w d : Nat) : (s.postEvent p k w d).rots = s.rots := rfl
@[simp] theorem State.postEvent_saved (s : State) (p k w d : Nat) : (s.postEvent p k w d).saved = s.saved := rfl
@[simp] theorem State.postEvent_ckpts (s : State) (p k w d : Nat) : (s.postEvent p k w d).ckpts = s.ckpts := rfl
@[simp] theorem State.postEvent_ncl (s : State) (p k w d : Nat) : (s.postEvent p k w d).ncl = s.ncl := rfl
@[simp] theorem State.postEvent_meas (s : State) (p k w d : Nat) : (s.postEvent p k w d).meas = s.meas := rfl
@[simp] theorem State.postEvent_life (s : State) (p k w d : Nat) : (s.postEvent p k w d).life = s.life := rfl
@[simp] theorem State.postEvent_bootCount (s : State) (p k w d : Nat) : (s.postEvent p k w d).bootCount = s.bootCount := rfl
@[simp] theorem State.postEvent_boot (s : State) (p k w d : Nat) : (s.postEvent p k w d).boot = s.boot := rfl
@[simp] theorem State.postEvent_throttle (s : State) (p k w d : Nat) : (s.postEvent p k w d).throttle = s.throttle := rfl
@[simp] theorem State.postEvent_out (s : State) (p k w d : Nat) : (s.postEvent p k w d).out = s.out := rfl
@[simp] theorem State.postEvent_inputs (s : State) (p k w d : Nat) : (s.postEvent p k w d).inputs = s.inputs := rfl
@[simp] theorem State.postEvent_later (s : State) (p k w d : Nat) : (s.postEvent p k w d).later = s.later := rfl
@[simp] theorem State.postEvent_lat (s : State) (p k w d : Nat) : (s.postEvent p k w d).lat = s.lat := rfl
@[simp] theorem State.postEvent_free (s : State) (p k w d : Nat) : (s.postEvent p k w d).free = s.free := rfl
@[simp] theorem State.postEvent_issue (s : State) (p k w d : Nat) : (s.postEvent p k w d).issue = s.issue := rfl
@[simp] theorem State.postEvent_lag (s : State) (p k w d : Nat) : (s.postEvent p k w d).lag = s.lag := rfl
@[simp] theorem State.postEvent_cursor (s : State) (p k w d : Nat) : (s.postEvent p k w d).cursor = s.cursor := rfl
@[simp] theorem State.postEvent_lastRun (s : State) (p k w d : Nat) : (s.postEvent p k w d).lastRun = s.lastRun := rfl

/-! ## A partition that has been changed -/

/-- The partition that was changed reads as changed. -/
theorem State.part_setPart_same (s : State) (p : Nat) (f : Part → Part) (h : p < 64) : (s.setPart p f).part p = f (s.part p) := by
  simp [State.part, State.setPart, h]

/-- Another partition is as it was. -/
theorem State.part_setPart_ne (s : State) (p q : Nat) (f : Part → Part) (h : q ≠ p) : (s.setPart p f).part q = s.part q := by
  simp [State.part, State.setPart, Vector.getElem?_setIfInBounds, Ne.symm h]

end Sys2Proof.Machine
end

