-- ==== Sys2Proof/Laws/Ops.lean ====
section
/-! SUPPORT. What the shared operations of `Machine/Ops.lean` do: going on with the next head, writing a register, taking a
trap, a transfer and the return. -/
namespace Sys2Proof.Machine

/-! ## Going on -/

/-- Completing an instruction changes the place, `es`, `esk`, `prog`, `hold`, `resume` and `bpExempt` of a context alone. -/
theorem Ctx.adv_shape (c : Ctx) :
    c.adv = { c with pc := c.adv.pc, line := c.adv.line, es := c.adv.es, esk := c.adv.esk, prog := c.adv.prog,
                     hold := c.adv.hold, resume := c.adv.resume, bpExempt := c.adv.bpExempt } := by
  have e : c.endResume = { c with es := c.endResume.es, esk := c.endResume.esk, resume := c.endResume.resume } := by
    unfold Ctx.endResume
    split <;> (try split) <;> rfl
  have p : ∀ d : Ctx, d.stepProg = { d with prog := d.stepProg.prog } := by
    intro d
    unfold Ctx.stepProg
    split <;> rfl
  unfold Ctx.adv Ctx.leaveHead
  rw [p c.endResume, e]

/-- Writing a register changes the registers of a context alone. -/
theorem Ctx.setReg_shape (c : Ctx) (n : Nat) (x : Word) : c.setReg n x = { c with s := (c.setReg n x).s } := by
  unfold Ctx.setReg
  split <;> rfl

/-- An instruction that does not resume leaves `es` and `esk`. -/
theorem Ctx.adv_es (c : Ctx) (h : ∀ r, c.resume = some r → r.active = false ∨ r.pc ≠ c.pc) :
    c.adv.es = c.es ∧ c.adv.esk = c.esk := by
  have e : c.endResume = c := by
    unfold Ctx.endResume
    split
    · rename_i r hr
      rcases h r hr with ha | hp
      · simp [ha]
      · simp [hp]
    · rfl
  exact ⟨(Ctx.stepProg_es _).trans (congrArg Ctx.es e), (Ctx.stepProg_esk _).trans (congrArg Ctx.esk e)⟩

/-- An instruction that goes on with the next head has retired. -/
theorem retired_adv (s : State) : Retired s s.adv := by
  refine ⟨Ctx.adv_pc s.c, ?_, ?_, rfl⟩ <;> simp

/-- What writing a scalar register and going on leaves alone. -/
theorem frame_setReg_adv (s : State) (d : Nat) (x : Word) : FrameReg s (s.setReg d x).adv d := by
  refine ⟨rfl, ?_, ?_, ?_⟩
  · unfold OnlyScalars
    have h : (s.setReg d x).adv.c = (s.c.setReg d x).adv := rfl
    rw [h, Ctx.adv_shape (s.c.setReg d x), Ctx.setReg_shape s.c d x]
  · intro n hn
    change (s.c.setReg d x).adv.reg n = s.c.reg n
    rw [Ctx.adv_reg]
    exact Ctx.reg_setReg_ne _ _ _ _ hn
  · intro h
    have h' := Ctx.adv_es (s.c.setReg d x) (by simpa using h)
    simpa using h'

/-! ## Traps -/

/-- A trap outside a handler (R438). -/
theorem trapAt_eq (s : State) (code : Nat) (tv : Word) (h : s.c.tst.getLsbD 2 = false) :
    trapAt s code tv = { s with c := { s.c.leaveHead with
      cause := wd code, epc := s.c.pc.setWidth 64, tval := tv, tst := 4#64 ||| s.c.priv.setWidth 64,
      priv := if s.c.part = 0 then 2 else 1, pc := s.myPart.tvec.setWidth 56, line := none, waittDone := false
      trapPc := some s.c.pc, resume := s.c.resume.map fun r => { r with active := false } } } := by
  unfold trapAt trapTo
  rw [if_neg (by rw [h]; decide)]

/-- What a trap outside a handler saves and where it goes. -/
theorem trapAt_trapped (s : State) (code : Nat) (tv : Word) (h : s.c.tst.getLsbD 2 = false) :
    Trapped s (trapAt s code tv) code tv := by
  rw [trapAt_eq s code tv h]
  refine ⟨rfl, rfl, rfl, ?_, ?_, rfl, rfl, rfl⟩
  · simp
  · simp

/-- A trap in a handler loses the context (R439). -/
theorem trapAt_double (s : State) (code : Nat) (tv : Word) (h : s.c.tst.getLsbD 2 = true) :
    trapAt s code tv = loseContext s 2 false := by
  unfold trapAt trapTo
  rw [if_pos h]

/-! ## Transfers -/

/-- A transfer to a line that can be entered. -/
theorem transfer_ok (s u : State) (a : Nat) (l : Line) (f : Ctx → Ctx) (h : enterLine s a = .ok l u) :
    transfer s a f = { u with c := { f u.c.leaveHead with pc := BitVec.ofNat 56 a, line := some l } } := by
  simp [transfer, h]

/-- A transfer to a line that cannot be entered traps at the transferring head with none of its effects (R90). -/
theorem transfer_trap (s u : State) (a cause : Nat) (f : Ctx → Ctx) (h : enterLine s a = .trap cause u) :
    transfer s a f = trapAt u cause (wd a) := by
  simp [transfer, h]

end Sys2Proof.Machine
end

