-- ==== Sys2Proof/Laws/PerInstr.lean ====
section
/-! SUPPORT. Statements made of every instruction as syntax, one lemma per constructor. -/
namespace Sys2Proof

/-- The instruction that an identity and its fields name (R80, R95): the decoder's tables read at an encoding's identity. -/
noncomputable def Enc.named : Enc → Option Instr
  | .h0 _ sub f => decH0 sub f
  | .h1 maj fn f => decH1 maj fn f
  | .h2 maj fn f => decH2 maj fn f
  | .h3 maj fn f => decH3 maj fn f
  | .wide _ fn f => decWide fn f
  | .hint h => if h.tl = 0 ∧ h.ha = 0 then some .nop else some (.hint h)

/-- The identity is one that its fields have room for, and its major takes the tail of its family (R80, R95). -/
def Enc.fits : Enc → Bool
  | .h0 maj sub _ => maj == 0x0D && decide (sub < 8)
  | .h1 maj fn _ => majorTL maj == some 1 && decide (maj < 0x3F) && decide (fn < 64)
  | .h2 maj fn _ => majorTL maj == some 2 && decide (maj < 0x3F) && decide (fn < 64)
  | .h3 maj fn _ => majorTL maj == some 3 && decide (maj ≠ 3) && decide (maj < 0x3F) && decide (fn < 16)
  | .wide maj fn _ => maj == 3 && decide (fn < 16)
  | .hint _ => true

/-- The identities of encoder and decoder agree: an instruction's identity fits its word, and the decoder's tables name the
instruction at it. -/
def Laws.Identity.Statement (i : Instr) : Prop :=
  match i.enc with
  | none => True
  | some e => e.fits = true ∧ (i.wf = true → e.named = some i)

theorem Laws.Identity.atomicAnswer (ctx : Nat) : Laws.Identity.Statement (.atomicAnswer ctx) := trivial
theorem Laws.Identity.registerWrite (reg : BitVec 8) (val : Word) : Laws.Identity.Statement (.registerWrite reg val) := trivial
theorem Laws.Identity.vcfgWrite (val : Word) : Laws.Identity.Statement (.vcfgWrite val) := trivial
theorem Laws.Identity.vlWrite (val : Word) : Laws.Identity.Statement (.vlWrite val) := trivial
theorem Laws.Identity.fpsWrite (val : Word) : Laws.Identity.Statement (.fpsWrite val) := trivial
theorem Laws.Identity.whzWrite (val : Word) : Laws.Identity.Statement (.whzWrite val) := trivial
theorem Laws.Identity.lprWrite (val : Word) : Laws.Identity.Statement (.lprWrite val) := trivial
theorem Laws.Identity.lprTakeEffect (core : Nat) (pos : Nat) : Laws.Identity.Statement (.lprTakeEffect core pos) := trivial
theorem Laws.Identity.spwmodeWrite (val : Word) : Laws.Identity.Statement (.spwmodeWrite val) := trivial
theorem Laws.Identity.spwstWrite (val : Word) : Laws.Identity.Statement (.spwstWrite val) := trivial
theorem Laws.Identity.wptWrite (n : Fin 4) (val : Word) : Laws.Identity.Statement (.wptWrite n val) := trivial
theorem Laws.Identity.wfeWake (ctx : Nat) : Laws.Identity.Statement (.wfeWake ctx) := trivial
theorem Laws.Identity.waittCompletion (ctx : Nat) : Laws.Identity.Statement (.waittCompletion ctx) := trivial
theorem Laws.Identity.meetingInitAtHome (m : Msg) : Laws.Identity.Statement (.meetingInitAtHome m) := trivial
theorem Laws.Identity.meetingArrivalAtHome (m : Msg) : Laws.Identity.Statement (.meetingArrivalAtHome m) := trivial
theorem Laws.Identity.meetingCloseDeadline (o : Obj) : Laws.Identity.Statement (.meetingCloseDeadline o) := trivial
theorem Laws.Identity.meetingWaitGiveUp (o : Obj) (w : Who) : Laws.Identity.Statement (.meetingWaitGiveUp o w) := trivial
theorem Laws.Identity.meetingJoinAtHome (m : Msg) : Laws.Identity.Statement (.meetingJoinAtHome m) := trivial
theorem Laws.Identity.verdictReceived (r : Ans) : Laws.Identity.Statement (.verdictReceived r) := trivial
theorem Laws.Identity.homeAckReceived (ctx : Nat) (dl : Nat) (grace : Nat) :
    Laws.Identity.Statement (.homeAckReceived ctx dl grace) := trivial
theorem Laws.Identity.homeLossTimeout (ctx : Nat) : Laws.Identity.Statement (.homeLossTimeout ctx) := trivial
theorem Laws.Identity.lockAcquireAtHome (m : Msg) : Laws.Identity.Statement (.lockAcquireAtHome m) := trivial
theorem Laws.Identity.lockReleaseAtHome (m : Msg) : Laws.Identity.Statement (.lockReleaseAtHome m) := trivial
theorem Laws.Identity.lockMendAtHome (m : Msg) : Laws.Identity.Statement (.lockMendAtHome m) := trivial
theorem Laws.Identity.lockHoldLapse (pa : Nat) : Laws.Identity.Statement (.lockHoldLapse pa) := trivial
theorem Laws.Identity.lockAcquireTimeout (pa : Nat) (w : Who) : Laws.Identity.Statement (.lockAcquireTimeout pa w) := trivial
theorem Laws.Identity.bufferClaimAtHome (m : Msg) : Laws.Identity.Statement (.bufferClaimAtHome m) := trivial
theorem Laws.Identity.bufferFillAtHome (m : Msg) : Laws.Identity.Statement (.bufferFillAtHome m) := trivial
theorem Laws.Identity.bufferRecvAtHome (m : Msg) : Laws.Identity.Statement (.bufferRecvAtHome m) := trivial
theorem Laws.Identity.bufferFreeAtHome (m : Msg) : Laws.Identity.Statement (.bufferFreeAtHome m) := trivial
theorem Laws.Identity.slotHoleConversion (part : Nat) (buf : Nat) (slot : Nat) :
    Laws.Identity.Statement (.slotHoleConversion part buf slot) := trivial
theorem Laws.Identity.claimTimeout (part : Nat) (buf : Nat) (w : Who) :
    Laws.Identity.Statement (.claimTimeout part buf w) := trivial
theorem Laws.Identity.recvTimeout (part : Nat) (buf : Nat) (w : Who) :
    Laws.Identity.Statement (.recvTimeout part buf w) := trivial
theorem Laws.Identity.chainPubAtHome (m : Msg) : Laws.Identity.Statement (.chainPubAtHome m) := trivial
theorem Laws.Identity.chainReadTimeout (part : Nat) (ch : Nat) (w : Who) :
    Laws.Identity.Statement (.chainReadTimeout part ch w) := trivial
theorem Laws.Identity.stageFiring (part : Nat) : Laws.Identity.Statement (.stageFiring part) := trivial
theorem Laws.Identity.spawnPlacement (part : Nat) : Laws.Identity.Statement (.spawnPlacement part) := trivial
theorem Laws.Identity.stageAging (part : Nat) (g : Nat) (stage : Nat) :
    Laws.Identity.Statement (.stageAging part g stage) := trivial
theorem Laws.Identity.vectorIssue (core : Nat) (pos : Nat) (err : Option (Nat × Nat)) :
    Laws.Identity.Statement (.vectorIssue core pos err) := trivial
theorem Laws.Identity.copyHandoff (id : Nat) : Laws.Identity.Statement (.copyHandoff id) := trivial
theorem Laws.Identity.copyCompletion (id : Nat) : Laws.Identity.Statement (.copyCompletion id) := trivial
theorem Laws.Identity.copyFaultDelivery (ctx : Nat) : Laws.Identity.Statement (.copyFaultDelivery ctx) := trivial
theorem Laws.Identity.reductionPartial (part : Nat) (g : Nat) (child : Nat) (vec : List (BitVec 32)) :
    Laws.Identity.Statement (.reductionPartial part g child vec) := trivial
theorem Laws.Identity.reductionResult (part : Nat) (g : Nat) (vec : List (BitVec 32)) :
    Laws.Identity.Statement (.reductionResult part g vec) := trivial
theorem Laws.Identity.leaseDrainComplete (part : Nat) (id : Nat) :
    Laws.Identity.Statement (.leaseDrainComplete part id) := trivial
theorem Laws.Identity.leaseRequestAtPeer (d : Nat) (k : Nat) : Laws.Identity.Statement (.leaseRequestAtPeer d k) := trivial
theorem Laws.Identity.leaseReleaseNotice (d : Nat) (k : Nat) : Laws.Identity.Statement (.leaseReleaseNotice d k) := trivial
theorem Laws.Identity.leaseGrant (part : Nat) (id : Nat) (k : Nat) : Laws.Identity.Statement (.leaseGrant part id k) := trivial
theorem Laws.Identity.leaseTerm (part : Nat) (id : Nat) : Laws.Identity.Statement (.leaseTerm part id) := trivial
theorem Laws.Identity.leaseRevocation (part : Nat) (id : Nat) : Laws.Identity.Statement (.leaseRevocation part id) := trivial
theorem Laws.Identity.leaseReversionComplete (part : Nat) (id : Nat) :
    Laws.Identity.Statement (.leaseReversionComplete part id) := trivial
theorem Laws.Identity.starvationReclaim (d : Nat) : Laws.Identity.Statement (.starvationReclaim d) := trivial
theorem Laws.Identity.routingItemDelivery (f : Flit) : Laws.Identity.Statement (.routingItemDelivery f) := trivial
theorem Laws.Identity.routingAnswer (part : Nat) (die : Nat) (tag : Nat) (op : Nat) :
    Laws.Identity.Statement (.routingAnswer part die tag op) := trivial
theorem Laws.Identity.meterSnapshot : Laws.Identity.Statement .meterSnapshot := trivial
theorem Laws.Identity.scrubBlock (part : Nat) : Laws.Identity.Statement (.scrubBlock part) := trivial
theorem Laws.Identity.checkpointCommitAck (part : Nat) (ok : Bool) :
    Laws.Identity.Statement (.checkpointCommitAck part ok) := trivial
theorem Laws.Identity.checkpointTimeout (part : Nat) : Laws.Identity.Statement (.checkpointTimeout part) := trivial
theorem Laws.Identity.uncontainedError (at_ : ErrAt) : Laws.Identity.Statement (.uncontainedError at_) := trivial
theorem Laws.Identity.preemption (ctx : Nat) : Laws.Identity.Statement (.preemption ctx) := trivial
theorem Laws.Identity.sliceEnd (core : Nat) (pos : Nat) : Laws.Identity.Statement (.sliceEnd core pos) := trivial
theorem Laws.Identity.contextRestore (part : Nat) (bad : Bool) : Laws.Identity.Statement (.contextRestore part bad) := trivial
theorem Laws.Identity.clusterRetirement (cl : Nat) : Laws.Identity.Statement (.clusterRetirement cl) := trivial
theorem Laws.Identity.rotationSet (core : Nat) (pos : Nat) (turns : List (Nat × Nat)) :
    Laws.Identity.Statement (.rotationSet core pos turns) := trivial
theorem Laws.Identity.notify (vf : Nat) (val : BitVec 32) (ro : Bool) : Laws.Identity.Statement (.notify vf val ro) := trivial
theorem Laws.Identity.hostMemoryRequest (vf : Nat) (addr : Nat) (wr : Bool) (data : List Byte) (len : Nat) :
    Laws.Identity.Statement (.hostMemoryRequest vf addr wr data len) := trivial
theorem Laws.Identity.hostCompletion (ctx : Nat) (st : Nat) (val : Word) :
    Laws.Identity.Statement (.hostCompletion ctx st val) := trivial
theorem Laws.Identity.requestTimeout (tag : Nat) : Laws.Identity.Statement (.requestTimeout tag) := trivial
theorem Laws.Identity.fabricRequest (f : Flit) : Laws.Identity.Statement (.fabricRequest f) := trivial
theorem Laws.Identity.fabricAnswer (f : Flit) : Laws.Identity.Statement (.fabricAnswer f) := trivial
theorem Laws.Identity.busyRetry (tag : Nat) : Laws.Identity.Statement (.busyRetry tag) := trivial
theorem Laws.Identity.shootdownAck (holder : Holder) (line : Nat) : Laws.Identity.Statement (.shootdownAck holder line) := trivial
theorem Laws.Identity.migrationStart (src : Nat) (dst : Nat) : Laws.Identity.Statement (.migrationStart src dst) := trivial
theorem Laws.Identity.migrationSwitch (src : Nat) : Laws.Identity.Statement (.migrationSwitch src) := trivial
theorem Laws.Identity.migrationDone (src : Nat) : Laws.Identity.Statement (.migrationDone src) := trivial
theorem Laws.Identity.linkTraining (d : Nat) (peer : Nat) (e1 : Nat) (e2 : Nat) (rtt : Nat) (set : LinkSetup) :
    Laws.Identity.Statement (.linkTraining d peer e1 e2 rtt set) := trivial
theorem Laws.Identity.flitReceived (d : Nat) (f : Flit) : Laws.Identity.Statement (.flitReceived d f) := trivial
theorem Laws.Identity.replayTimeout (d : Nat) : Laws.Identity.Statement (.replayTimeout d) := trivial
theorem Laws.Identity.linkDown (l : LinkAt) : Laws.Identity.Statement (.linkDown l) := trivial
theorem Laws.Identity.idleFlit (d : Nat) : Laws.Identity.Statement (.idleFlit d) := trivial
theorem Laws.Identity.escapeMove (d : Nat) : Laws.Identity.Statement (.escapeMove d) := trivial
theorem Laws.Identity.timeFlitExchange : Laws.Identity.Statement .timeFlitExchange := trivial
theorem Laws.Identity.timeFlitAnswer (t1 : Nat) (t2 : Nat) (reply : TimeReply) :
    Laws.Identity.Statement (.timeFlitAnswer t1 t2 reply) := trivial
theorem Laws.Identity.ppsPulse : Laws.Identity.Statement .ppsPulse := trivial
theorem Laws.Identity.referenceLost : Laws.Identity.Statement .referenceLost := trivial
theorem Laws.Identity.referenceAcquired : Laws.Identity.Statement .referenceAcquired := trivial
theorem Laws.Identity.functionLevelReset (vf : Nat) : Laws.Identity.Statement (.functionLevelReset vf) := trivial
theorem Laws.Identity.deviceReset : Laws.Identity.Statement .deviceReset := trivial
theorem Laws.Identity.lifeCycleChange (signed : Bool) (target : Nat) :
    Laws.Identity.Statement (.lifeCycleChange signed target) := trivial
theorem Laws.Identity.spdmGetMeasurements (vf : Option Nat) (idx : Nat) (nonce : Nat) :
    Laws.Identity.Statement (.spdmGetMeasurements vf idx nonce) := trivial
theorem Laws.Identity.thermalThrottle (temp : Nat) : Laws.Identity.Statement (.thermalThrottle temp) := trivial
theorem Laws.Identity.thermalShutdown : Laws.Identity.Statement .thermalShutdown := trivial
theorem Laws.Identity.coolingRestored : Laws.Identity.Statement .coolingRestored := trivial
theorem Laws.Identity.tdispRequest (vf : Nat) (target : Nat) : Laws.Identity.Statement (.tdispRequest vf target) := trivial
theorem Laws.Identity.incarnationNotice (dev : Nat) (part : Nat) (inc : Nat) :
    Laws.Identity.Statement (.incarnationNotice dev part inc) := trivial
theorem Laws.Identity.beatLend (core : Nat) (pos : Nat) (toPos : Nat) :
    Laws.Identity.Statement (.beatLend core pos toPos) := trivial
theorem Laws.Identity.addReg (f : H1) : Laws.Identity.Statement (.addReg f) := ⟨rfl, fun _ => rfl⟩
theorem Laws.Identity.subReg (f : H1) : Laws.Identity.Statement (.subReg f) := ⟨rfl, fun _ => rfl⟩
theorem Laws.Identity.andReg (f : H1) : Laws.Identity.Statement (.andReg f) := ⟨rfl, fun _ => rfl⟩
theorem Laws.Identity.orReg (f : H1) : Laws.Identity.Statement (.orReg f) := ⟨rfl, fun _ => rfl⟩
theorem Laws.Identity.xorReg (f : H1) : Laws.Identity.Statement (.xorReg f) := ⟨rfl, fun _ => rfl⟩
theorem Laws.Identity.andnReg (f : H1) : Laws.Identity.Statement (.andnReg f) := ⟨rfl, fun _ => rfl⟩
theorem Laws.Identity.shlReg (f : H1) : Laws.Identity.Statement (.shlReg f) := ⟨rfl, fun _ => rfl⟩
theorem Laws.Identity.shrReg (f : H1) : Laws.Identity.Statement (.shrReg f) := ⟨rfl, fun _ => rfl⟩
theorem Laws.Identity.sraReg (f : H1) : Laws.Identity.Statement (.sraReg f) := ⟨rfl, fun _ => rfl⟩
theorem Laws.Identity.rotReg (f : H1) : Laws.Identity.Statement (.rotReg f) := ⟨rfl, fun _ => rfl⟩
theorem Laws.Identity.minReg (f : H1) : Laws.Identity.Statement (.minReg f) := ⟨rfl, fun _ => rfl⟩
theorem Laws.Identity.maxReg (f : H1) : Laws.Identity.Statement (.maxReg f) := ⟨rfl, fun _ => rfl⟩
theorem Laws.Identity.minN64Reg (f : H1) : Laws.Identity.Statement (.minN64Reg f) := ⟨rfl, fun _ => rfl⟩
theorem Laws.Identity.maxN64Reg (f : H1) : Laws.Identity.Statement (.maxN64Reg f) := ⟨rfl, fun _ => rfl⟩
theorem Laws.Identity.addImm (f : H3) : Laws.Identity.Statement (.addImm f) := ⟨rfl, fun _ => rfl⟩
theorem Laws.Identity.subImm (f : H3) : Laws.Identity.Statement (.subImm f) := ⟨rfl, fun _ => rfl⟩
theorem Laws.Identity.andImm (f : H3) : Laws.Identity.Statement (.andImm f) := ⟨rfl, fun _ => rfl⟩
theorem Laws.Identity.orImm (f : H3) : Laws.Identity.Statement (.orImm f) := ⟨rfl, fun _ => rfl⟩
theorem Laws.Identity.xorImm (f : H3) : Laws.Identity.Statement (.xorImm f) := ⟨rfl, fun _ => rfl⟩
theorem Laws.Identity.andnImm (f : H3) : Laws.Identity.Statement (.andnImm f) := ⟨rfl, fun _ => rfl⟩
theorem Laws.Identity.shlImm (f : H3) : Laws.Identity.Statement (.shlImm f) := ⟨rfl, fun _ => rfl⟩
theorem Laws.Identity.shrImm (f : H3) : Laws.Identity.Statement (.shrImm f) := ⟨rfl, fun _ => rfl⟩
theorem Laws.Identity.sraImm (f : H3) : Laws.Identity.Statement (.sraImm f) := ⟨rfl, fun _ => rfl⟩
theorem Laws.Identity.rotImm (f : H3) : Laws.Identity.Statement (.rotImm f) := ⟨rfl, fun _ => rfl⟩
theorem Laws.Identity.minImm (f : H3) : Laws.Identity.Statement (.minImm f) := ⟨rfl, fun _ => rfl⟩
theorem Laws.Identity.maxImm (f : H3) : Laws.Identity.Statement (.maxImm f) := ⟨rfl, fun _ => rfl⟩
theorem Laws.Identity.minN64Imm (f : H3) : Laws.Identity.Statement (.minN64Imm f) := ⟨rfl, fun _ => rfl⟩
theorem Laws.Identity.maxN64Imm (f : H3) : Laws.Identity.Statement (.maxN64Imm f) := ⟨rfl, fun _ => rfl⟩
theorem Laws.Identity.li (f : Wide) : Laws.Identity.Statement (.li f) := ⟨rfl, fun _ => rfl⟩
theorem Laws.Identity.lea (f : Wide) : Laws.Identity.Statement (.lea f) := ⟨rfl, fun _ => rfl⟩
theorem Laws.Identity.lih (f : Wide) : Laws.Identity.Statement (.lih f) := ⟨rfl, fun _ => rfl⟩
theorem Laws.Identity.mul (f : H3) : Laws.Identity.Statement (.mul f) := ⟨rfl, fun _ => rfl⟩
theorem Laws.Identity.mulh (f : H3) : Laws.Identity.Statement (.mulh f) := ⟨rfl, fun _ => rfl⟩
theorem Laws.Identity.div (f : H3) : Laws.Identity.Statement (.div f) := ⟨rfl, fun _ => rfl⟩
theorem Laws.Identity.rem (f : H3) : Laws.Identity.Statement (.rem f) := ⟨rfl, fun _ => rfl⟩
theorem Laws.Identity.fadd (f : H3) : Laws.Identity.Statement (.fadd f) := ⟨rfl, fun _ => rfl⟩
theorem Laws.Identity.fsub (f : H3) : Laws.Identity.Statement (.fsub f) := ⟨rfl, fun _ => rfl⟩
theorem Laws.Identity.fmul (f : H3) : Laws.Identity.Statement (.fmul f) := ⟨rfl, fun _ => rfl⟩
theorem Laws.Identity.fdiv (f : H3) : Laws.Identity.Statement (.fdiv f) := ⟨rfl, fun _ => rfl⟩
theorem Laws.Identity.fma (f : H3) : Laws.Identity.Statement (.fma f) := ⟨rfl, fun _ => rfl⟩
theorem Laws.Identity.fcvt (f : H3) : Laws.Identity.Statement (.fcvt f) := ⟨rfl, fun _ => rfl⟩
theorem Laws.Identity.clz (f : H1) : Laws.Identity.Statement (.clz f) := ⟨rfl, fun _ => rfl⟩
theorem Laws.Identity.ctz (f : H1) : Laws.Identity.Statement (.ctz f) := ⟨rfl, fun _ => rfl⟩
theorem Laws.Identity.popc (f : H1) : Laws.Identity.Statement (.popc f) := ⟨rfl, fun _ => rfl⟩
theorem Laws.Identity.sextS8 (f : H1) : Laws.Identity.Statement (.sextS8 f) := ⟨rfl, fun _ => rfl⟩
theorem Laws.Identity.sextS16 (f : H1) : Laws.Identity.Statement (.sextS16 f) := ⟨rfl, fun _ => rfl⟩
theorem Laws.Identity.sextS32 (f : H1) : Laws.Identity.Statement (.sextS32 f) := ⟨rfl, fun _ => rfl⟩
theorem Laws.Identity.zextN8 (f : H1) : Laws.Identity.Statement (.zextN8 f) := ⟨rfl, fun _ => rfl⟩
theorem Laws.Identity.zextN16 (f : H1) : Laws.Identity.Statement (.zextN16 f) := ⟨rfl, fun _ => rfl⟩
theorem Laws.Identity.zextN32 (f : H1) : Laws.Identity.Statement (.zextN32 f) := ⟨rfl, fun _ => rfl⟩
theorem Laws.Identity.cmp (f : H2) : Laws.Identity.Statement (.cmp f) := ⟨rfl, fun _ => rfl⟩
theorem Laws.Identity.setEq (f : H2) : Laws.Identity.Statement (.setEq f) := ⟨rfl, fun _ => rfl⟩
theorem Laws.Identity.setNe (f : H2) : Laws.Identity.Statement (.setNe f) := ⟨rfl, fun _ => rfl⟩
theorem Laws.Identity.setLt (f : H2) : Laws.Identity.Statement (.setLt f) := ⟨rfl, fun _ => rfl⟩
theorem Laws.Identity.setGe (f : H2) : Laws.Identity.Statement (.setGe f) := ⟨rfl, fun _ => rfl⟩
theorem Laws.Identity.fcmpEq (f : H2) : Laws.Identity.Statement (.fcmpEq f) := ⟨rfl, fun _ => rfl⟩
theorem Laws.Identity.fcmpLt (f : H2) : Laws.Identity.Statement (.fcmpLt f) := ⟨rfl, fun _ => rfl⟩
theorem Laws.Identity.fcmpLe (f : H2) : Laws.Identity.Statement (.fcmpLe f) := ⟨rfl, fun _ => rfl⟩
theorem Laws.Identity.fcmpUn (f : H2) : Laws.Identity.Statement (.fcmpUn f) := ⟨rfl, fun _ => rfl⟩
theorem Laws.Identity.ld (f : H3) : Laws.Identity.Statement (.ld f) := ⟨rfl, fun _ => rfl⟩
theorem Laws.Identity.ldAcq (f : H3) : Laws.Identity.Statement (.ldAcq f) := ⟨rfl, fun _ => rfl⟩
theorem Laws.Identity.st (f : H3) : Laws.Identity.Statement (.st f) := ⟨rfl, fun _ => rfl⟩
theorem Laws.Identity.stRel (f : H3) : Laws.Identity.Statement (.stRel f) := ⟨rfl, fun _ => rfl⟩
theorem Laws.Identity.amoAdd (f : H3) : Laws.Identity.Statement (.amoAdd f) := ⟨rfl, fun _ => rfl⟩
theorem Laws.Identity.amoFadd (f : H3) : Laws.Identity.Statement (.amoFadd f) := ⟨rfl, fun _ => rfl⟩
theorem Laws.Identity.amoAnd (f : H3) : Laws.Identity.Statement (.amoAnd f) := ⟨rfl, fun _ => rfl⟩
theorem Laws.Identity.amoOr (f : H3) : Laws.Identity.Statement (.amoOr f) := ⟨rfl, fun _ => rfl⟩
theorem Laws.Identity.amoXor (f : H3) : Laws.Identity.Statement (.amoXor f) := ⟨rfl, fun _ => rfl⟩
theorem Laws.Identity.amoMin (f : H3) : Laws.Identity.Statement (.amoMin f) := ⟨rfl, fun _ => rfl⟩
theorem Laws.Identity.amoMax (f : H3) : Laws.Identity.Statement (.amoMax f) := ⟨rfl, fun _ => rfl⟩
theorem Laws.Identity.amoSwap (f : H3) : Laws.Identity.Statement (.amoSwap f) := ⟨rfl, fun _ => rfl⟩
theorem Laws.Identity.amoCas (f : H3) : Laws.Identity.Statement (.amoCas f) := ⟨rfl, fun _ => rfl⟩
theorem Laws.Identity.bEq (f : H3) : Laws.Identity.Statement (.bEq f) := ⟨rfl, fun _ => rfl⟩
theorem Laws.Identity.bNe (f : H3) : Laws.Identity.Statement (.bNe f) := ⟨rfl, fun _ => rfl⟩
theorem Laws.Identity.bLt (f : H3) : Laws.Identity.Statement (.bLt f) := ⟨rfl, fun _ => rfl⟩
theorem Laws.Identity.bGe (f : H3) : Laws.Identity.Statement (.bGe f) := ⟨rfl, fun _ => rfl⟩
theorem Laws.Identity.bLtN64 (f : H3) : Laws.Identity.Statement (.bLtN64 f) := ⟨rfl, fun _ => rfl⟩
theorem Laws.Identity.bGeN64 (f : H3) : Laws.Identity.Statement (.bGeN64 f) := ⟨rfl, fun _ => rfl⟩
theorem Laws.Identity.jmp (f : H3) : Laws.Identity.Statement (.jmp f) := ⟨rfl, fun _ => rfl⟩
theorem Laws.Identity.call (f : H3) : Laws.Identity.Statement (.call f) := ⟨rfl, fun _ => rfl⟩
theorem Laws.Identity.jr (f : H3) : Laws.Identity.Statement (.jr f) := ⟨rfl, fun _ => rfl⟩
theorem Laws.Identity.csrr (f : H2) : Laws.Identity.Statement (.csrr f) := ⟨rfl, fun _ => rfl⟩
theorem Laws.Identity.csrw (f : H2) : Laws.Identity.Statement (.csrw f) := ⟨rfl, fun _ => rfl⟩
theorem Laws.Identity.csrs (f : H2) : Laws.Identity.Statement (.csrs f) := ⟨rfl, fun _ => rfl⟩
theorem Laws.Identity.csrc (f : H2) : Laws.Identity.Statement (.csrc f) := ⟨rfl, fun _ => rfl⟩
theorem Laws.Identity.trap (f : H0) : Laws.Identity.Statement (.trap f) := ⟨rfl, fun _ => rfl⟩
theorem Laws.Identity.eret (f : H0) : Laws.Identity.Statement (.eret f) := ⟨rfl, fun _ => rfl⟩
theorem Laws.Identity.wfe (f : H0) : Laws.Identity.Statement (.wfe f) := ⟨rfl, fun _ => rfl⟩
theorem Laws.Identity.fenceSv (f : H0) : Laws.Identity.Statement (.fenceSv f) := ⟨rfl, fun _ => rfl⟩
theorem Laws.Identity.fenceVs (f : H0) : Laws.Identity.Statement (.fenceVs f) := ⟨rfl, fun _ => rfl⟩
theorem Laws.Identity.fenceRel (f : H0) : Laws.Identity.Statement (.fenceRel f) := ⟨rfl, fun _ => rfl⟩
theorem Laws.Identity.fenceAcq (f : H0) : Laws.Identity.Statement (.fenceAcq f) := ⟨rfl, fun _ => rfl⟩
theorem Laws.Identity.fenceFull (f : H0) : Laws.Identity.Statement (.fenceFull f) := ⟨rfl, fun _ => rfl⟩
theorem Laws.Identity.tick (f : H3) : Laws.Identity.Statement (.tick f) := ⟨rfl, fun _ => rfl⟩
theorem Laws.Identity.waitt (f : H3) : Laws.Identity.Statement (.waitt f) := ⟨rfl, fun _ => rfl⟩
theorem Laws.Identity.nbArr (f : H3) : Laws.Identity.Statement (.nbArr f) := ⟨rfl, fun _ => rfl⟩
theorem Laws.Identity.nbWait (f : H3) : Laws.Identity.Statement (.nbWait f) := ⟨rfl, fun _ => rfl⟩
theorem Laws.Identity.nbSync (f : H3) : Laws.Identity.Statement (.nbSync f) := ⟨rfl, fun _ => rfl⟩
theorem Laws.Identity.nbJoin (f : H3) : Laws.Identity.Statement (.nbJoin f) := ⟨rfl, fun _ => rfl⟩
theorem Laws.Identity.mtInit (f : H3) : Laws.Identity.Statement (.mtInit f) := ⟨rfl, fun _ => rfl⟩
theorem Laws.Identity.mtArr (f : H3) : Laws.Identity.Statement (.mtArr f) := ⟨rfl, fun _ => rfl⟩
theorem Laws.Identity.mtWait (f : H3) : Laws.Identity.Statement (.mtWait f) := ⟨rfl, fun _ => rfl⟩
theorem Laws.Identity.mtSync (f : H3) : Laws.Identity.Statement (.mtSync f) := ⟨rfl, fun _ => rfl⟩
theorem Laws.Identity.mtJoin (f : H3) : Laws.Identity.Statement (.mtJoin f) := ⟨rfl, fun _ => rfl⟩
theorem Laws.Identity.lkAcq (f : H3) : Laws.Identity.Statement (.lkAcq f) := ⟨rfl, fun _ => rfl⟩
theorem Laws.Identity.lkRel (f : H3) : Laws.Identity.Statement (.lkRel f) := ⟨rfl, fun _ => rfl⟩
theorem Laws.Identity.lkMend (f : H3) : Laws.Identity.Statement (.lkMend f) := ⟨rfl, fun _ => rfl⟩
theorem Laws.Identity.cbDef (f : H3) : Laws.Identity.Statement (.cbDef f) := ⟨rfl, fun _ => rfl⟩
theorem Laws.Identity.cbClaim (f : H3) : Laws.Identity.Statement (.cbClaim f) := ⟨rfl, fun _ => rfl⟩
theorem Laws.Identity.cbFill (f : H3) : Laws.Identity.Statement (.cbFill f) := ⟨rfl, fun _ => rfl⟩
theorem Laws.Identity.recv (f : H3) : Laws.Identity.Statement (.recv f) := ⟨rfl, fun _ => rfl⟩
theorem Laws.Identity.cbFree (f : H3) : Laws.Identity.Statement (.cbFree f) := ⟨rfl, fun _ => rfl⟩
theorem Laws.Identity.cbSt (f : H3) : Laws.Identity.Statement (.cbSt f) := ⟨rfl, fun _ => rfl⟩
theorem Laws.Identity.chainDef (f : H3) : Laws.Identity.Statement (.chainDef f) := ⟨rfl, fun _ => rfl⟩
theorem Laws.Identity.chainPub (f : H3) : Laws.Identity.Statement (.chainPub f) := ⟨rfl, fun _ => rfl⟩
theorem Laws.Identity.spawn (f : H3) : Laws.Identity.Statement (.spawn f) := ⟨rfl, fun _ => rfl⟩
theorem Laws.Identity.gdef (f : H3) : Laws.Identity.Statement (.gdef f) := ⟨rfl, fun _ => rfl⟩
theorem Laws.Identity.gstart (f : H3) : Laws.Identity.Statement (.gstart f) := ⟨rfl, fun _ => rfl⟩
theorem Laws.Identity.exit (f : H3) : Laws.Identity.Statement (.exit f) := ⟨rfl, fun _ => rfl⟩
theorem Laws.Identity.yield (f : H3) : Laws.Identity.Statement (.yield f) := ⟨rfl, fun _ => rfl⟩
theorem Laws.Identity.vsetl (f : H3) : Laws.Identity.Statement (.vsetl f) := ⟨rfl, fun _ => rfl⟩
theorem Laws.Identity.vsetlChained (f : H3) : Laws.Identity.Statement (.vsetlChained f) := ⟨rfl, fun _ => rfl⟩
theorem Laws.Identity.vnext (f : H3) : Laws.Identity.Statement (.vnext f) := ⟨rfl, fun _ => rfl⟩
theorem Laws.Identity.vcfg (f : H3) : Laws.Identity.Statement (.vcfg f) := ⟨rfl, fun _ => rfl⟩
theorem Laws.Identity.vlanes (f : H3) : Laws.Identity.Statement (.vlanes f) := ⟨rfl, fun _ => rfl⟩
theorem Laws.Identity.vgang (f : H3) : Laws.Identity.Statement (.vgang f) := ⟨rfl, fun _ => rfl⟩
theorem Laws.Identity.vadd (f : H2) : Laws.Identity.Statement (.vadd f) := ⟨rfl, fun _ => rfl⟩
theorem Laws.Identity.vsub (f : H2) : Laws.Identity.Statement (.vsub f) := ⟨rfl, fun _ => rfl⟩
theorem Laws.Identity.vrsub (f : H2) : Laws.Identity.Statement (.vrsub f) := ⟨rfl, fun _ => rfl⟩
theorem Laws.Identity.vand (f : H2) : Laws.Identity.Statement (.vand f) := ⟨rfl, fun _ => rfl⟩
theorem Laws.Identity.vor (f : H2) : Laws.Identity.Statement (.vor f) := ⟨rfl, fun _ => rfl⟩
theorem Laws.Identity.vxor (f : H2) : Laws.Identity.Statement (.vxor f) := ⟨rfl, fun _ => rfl⟩
theorem Laws.Identity.vandn (f : H2) : Laws.Identity.Statement (.vandn f) := ⟨rfl, fun _ => rfl⟩
theorem Laws.Identity.vshl (f : H2) : Laws.Identity.Statement (.vshl f) := ⟨rfl, fun _ => rfl⟩
theorem Laws.Identity.vshr (f : H2) : Laws.Identity.Statement (.vshr f) := ⟨rfl, fun _ => rfl⟩
theorem Laws.Identity.vsra (f : H2) : Laws.Identity.Statement (.vsra f) := ⟨rfl, fun _ => rfl⟩
theorem Laws.Identity.vmin (f : H2) : Laws.Identity.Statement (.vmin f) := ⟨rfl, fun _ => rfl⟩
theorem Laws.Identity.vmax (f : H2) : Laws.Identity.Statement (.vmax f) := ⟨rfl, fun _ => rfl⟩
theorem Laws.Identity.vmul (f : H2) : Laws.Identity.Statement (.vmul f) := ⟨rfl, fun _ => rfl⟩
theorem Laws.Identity.vmulh (f : H2) : Laws.Identity.Statement (.vmulh f) := ⟨rfl, fun _ => rfl⟩
theorem Laws.Identity.vadds (f : H2) : Laws.Identity.Statement (.vadds f) := ⟨rfl, fun _ => rfl⟩
theorem Laws.Identity.vsubs (f : H2) : Laws.Identity.Statement (.vsubs f) := ⟨rfl, fun _ => rfl⟩
theorem Laws.Identity.vfadd (f : H2) : Laws.Identity.Statement (.vfadd f) := ⟨rfl, fun _ => rfl⟩
theorem Laws.Identity.vfsub (f : H2) : Laws.Identity.Statement (.vfsub f) := ⟨rfl, fun _ => rfl⟩
theorem Laws.Identity.vfmul (f : H2) : Laws.Identity.Statement (.vfmul f) := ⟨rfl, fun _ => rfl⟩
theorem Laws.Identity.vfdiv (f : H2) : Laws.Identity.Statement (.vfdiv f) := ⟨rfl, fun _ => rfl⟩
theorem Laws.Identity.vfmin (f : H2) : Laws.Identity.Statement (.vfmin f) := ⟨rfl, fun _ => rfl⟩
theorem Laws.Identity.vfmax (f : H2) : Laws.Identity.Statement (.vfmax f) := ⟨rfl, fun _ => rfl⟩
theorem Laws.Identity.vfsqrt (f : H2) : Laws.Identity.Statement (.vfsqrt f) := ⟨rfl, fun _ => rfl⟩
theorem Laws.Identity.vfabs (f : H2) : Laws.Identity.Statement (.vfabs f) := ⟨rfl, fun _ => rfl⟩
theorem Laws.Identity.vfneg (f : H2) : Laws.Identity.Statement (.vfneg f) := ⟨rfl, fun _ => rfl⟩
theorem Laws.Identity.vfsgn (f : H2) : Laws.Identity.Statement (.vfsgn f) := ⟨rfl, fun _ => rfl⟩
theorem Laws.Identity.vfma (f : H2) : Laws.Identity.Statement (.vfma f) := ⟨rfl, fun _ => rfl⟩
theorem Laws.Identity.vfms (f : H2) : Laws.Identity.Statement (.vfms f) := ⟨rfl, fun _ => rfl⟩
theorem Laws.Identity.vfnma (f : H2) : Laws.Identity.Statement (.vfnma f) := ⟨rfl, fun _ => rfl⟩
theorem Laws.Identity.vfnms (f : H2) : Laws.Identity.Statement (.vfnms f) := ⟨rfl, fun _ => rfl⟩
theorem Laws.Identity.vmac (f : H2) : Laws.Identity.Statement (.vmac f) := ⟨rfl, fun _ => rfl⟩
theorem Laws.Identity.vnmsc (f : H2) : Laws.Identity.Statement (.vnmsc f) := ⟨rfl, fun _ => rfl⟩
theorem Laws.Identity.vcmpEq (f : H2) : Laws.Identity.Statement (.vcmpEq f) := ⟨rfl, fun _ => rfl⟩
theorem Laws.Identity.vcmpNe (f : H2) : Laws.Identity.Statement (.vcmpNe f) := ⟨rfl, fun _ => rfl⟩
theorem Laws.Identity.vcmpLt (f : H2) : Laws.Identity.Statement (.vcmpLt f) := ⟨rfl, fun _ => rfl⟩
theorem Laws.Identity.vcmpLe (f : H2) : Laws.Identity.Statement (.vcmpLe f) := ⟨rfl, fun _ => rfl⟩
theorem Laws.Identity.vcmpGt (f : H2) : Laws.Identity.Statement (.vcmpGt f) := ⟨rfl, fun _ => rfl⟩
theorem Laws.Identity.vcmpGe (f : H2) : Laws.Identity.Statement (.vcmpGe f) := ⟨rfl, fun _ => rfl⟩
theorem Laws.Identity.vcmpUn (f : H2) : Laws.Identity.Statement (.vcmpUn f) := ⟨rfl, fun _ => rfl⟩
theorem Laws.Identity.vcvt (f : H2) : Laws.Identity.Statement (.vcvt f) := ⟨rfl, fun _ => rfl⟩
theorem Laws.Identity.vqnt (f : H2) : Laws.Identity.Statement (.vqnt f) := ⟨rfl, fun _ => rfl⟩
theorem Laws.Identity.vdq (f : H2) : Laws.Identity.Statement (.vdq f) := ⟨rfl, fun _ => rfl⟩
theorem Laws.Identity.vbsc (f : H2) : Laws.Identity.Statement (.vbsc f) := ⟨rfl, fun _ => rfl⟩
theorem Laws.Identity.vfrcp (f : H2) : Laws.Identity.Statement (.vfrcp f) := ⟨rfl, fun _ => rfl⟩
theorem Laws.Identity.vfrsq (f : H2) : Laws.Identity.Statement (.vfrsq f) := ⟨rfl, fun _ => rfl⟩
theorem Laws.Identity.vfexp2 (f : H2) : Laws.Identity.Statement (.vfexp2 f) := ⟨rfl, fun _ => rfl⟩
theorem Laws.Identity.vflog2 (f : H2) : Laws.Identity.Statement (.vflog2 f) := ⟨rfl, fun _ => rfl⟩
theorem Laws.Identity.vfexp (f : H2) : Laws.Identity.Statement (.vfexp f) := ⟨rfl, fun _ => rfl⟩
theorem Laws.Identity.vftanh (f : H2) : Laws.Identity.Statement (.vftanh f) := ⟨rfl, fun _ => rfl⟩
theorem Laws.Identity.vfsig (f : H2) : Laws.Identity.Statement (.vfsig f) := ⟨rfl, fun _ => rfl⟩
theorem Laws.Identity.vrsum (f : H2) (tree : Bool) :
    Laws.Identity.Statement (.vrsum f tree) := by cases tree <;> exact ⟨rfl, fun _ => rfl⟩
theorem Laws.Identity.vrmin (f : H2) (tree : Bool) :
    Laws.Identity.Statement (.vrmin f tree) := by cases tree <;> exact ⟨rfl, fun _ => rfl⟩
theorem Laws.Identity.vrmax (f : H2) (tree : Bool) :
    Laws.Identity.Statement (.vrmax f tree) := by cases tree <;> exact ⟨rfl, fun _ => rfl⟩
theorem Laws.Identity.vrand (f : H2) (tree : Bool) :
    Laws.Identity.Statement (.vrand f tree) := by cases tree <;> exact ⟨rfl, fun _ => rfl⟩
theorem Laws.Identity.vror (f : H2) (tree : Bool) :
    Laws.Identity.Statement (.vror f tree) := by cases tree <;> exact ⟨rfl, fun _ => rfl⟩
theorem Laws.Identity.vrxor (f : H2) (tree : Bool) :
    Laws.Identity.Statement (.vrxor f tree) := by cases tree <;> exact ⟨rfl, fun _ => rfl⟩
theorem Laws.Identity.vscanAdd (f : H2) : Laws.Identity.Statement (.vscanAdd f) := ⟨rfl, fun _ => rfl⟩
theorem Laws.Identity.vscanMin (f : H2) : Laws.Identity.Statement (.vscanMin f) := ⟨rfl, fun _ => rfl⟩
theorem Laws.Identity.vscanMax (f : H2) : Laws.Identity.Statement (.vscanMax f) := ⟨rfl, fun _ => rfl⟩
theorem Laws.Identity.vperm (f : H2) : Laws.Identity.Statement (.vperm f) := ⟨rfl, fun _ => rfl⟩
theorem Laws.Identity.vslup (f : H2) : Laws.Identity.Statement (.vslup f) := ⟨rfl, fun _ => rfl⟩
theorem Laws.Identity.vsldn (f : H2) : Laws.Identity.Statement (.vsldn f) := ⟨rfl, fun _ => rfl⟩
theorem Laws.Identity.vcomp (f : H2) : Laws.Identity.Statement (.vcomp f) := ⟨rfl, fun _ => rfl⟩
theorem Laws.Identity.vexpd (f : H2) : Laws.Identity.Statement (.vexpd f) := ⟨rfl, fun _ => rfl⟩
theorem Laws.Identity.vxchg (f : H2) : Laws.Identity.Statement (.vxchg f) := ⟨rfl, fun _ => rfl⟩
theorem Laws.Identity.vmov (f : H2) : Laws.Identity.Statement (.vmov f) := ⟨rfl, fun _ => rfl⟩
theorem Laws.Identity.vbcast (f : H2) : Laws.Identity.Statement (.vbcast f) := by
  refine ⟨rfl, fun hw => ?_⟩
  simp [Instr.wf, Instr.special] at hw
  simp [Enc.named, decH2, dec1C, hw.2]
theorem Laws.Identity.vbcastImm (f : H2) : Laws.Identity.Statement (.vbcastImm f) := by
  refine ⟨rfl, fun hw => ?_⟩
  simp [Instr.wf, fieldsOk, Instr.shape, Instr.fields, extraOk] at hw
  have h2 : f.sub = 2 := by simp_all [BitVec.toNat_eq]
  simp [Enc.named, decH2, dec1C, h2]
theorem Laws.Identity.vidx (f : H2) : Laws.Identity.Statement (.vidx f) := ⟨rfl, fun _ => rfl⟩
theorem Laws.Identity.vmerge (f : H2) : Laws.Identity.Statement (.vmerge f) := ⟨rfl, fun _ => rfl⟩
theorem Laws.Identity.vgetx (f : H2) : Laws.Identity.Statement (.vgetx f) := ⟨rfl, fun _ => rfl⟩
theorem Laws.Identity.vsetx (f : H2) : Laws.Identity.Statement (.vsetx f) := ⟨rfl, fun _ => rfl⟩
theorem Laws.Identity.vm2v (f : H2) : Laws.Identity.Statement (.vm2v f) := ⟨rfl, fun _ => rfl⟩
theorem Laws.Identity.mand (f : H1) : Laws.Identity.Statement (.mand f) := ⟨rfl, fun _ => rfl⟩
theorem Laws.Identity.mor (f : H1) : Laws.Identity.Statement (.mor f) := ⟨rfl, fun _ => rfl⟩
theorem Laws.Identity.mxor (f : H1) : Laws.Identity.Statement (.mxor f) := ⟨rfl, fun _ => rfl⟩
theorem Laws.Identity.mandn (f : H1) : Laws.Identity.Statement (.mandn f) := ⟨rfl, fun _ => rfl⟩
theorem Laws.Identity.mnot (f : H1) : Laws.Identity.Statement (.mnot f) := ⟨rfl, fun _ => rfl⟩
theorem Laws.Identity.mset (f : H1) : Laws.Identity.Statement (.mset f) := ⟨rfl, fun _ => rfl⟩
theorem Laws.Identity.mclr (f : H1) : Laws.Identity.Statement (.mclr f) := ⟨rfl, fun _ => rfl⟩
theorem Laws.Identity.mmov (f : H1) : Laws.Identity.Statement (.mmov f) := ⟨rfl, fun _ => rfl⟩
theorem Laws.Identity.mpop (f : H1) : Laws.Identity.Statement (.mpop f) := ⟨rfl, fun _ => rfl⟩
theorem Laws.Identity.mfirst (f : H1) : Laws.Identity.Statement (.mfirst f) := ⟨rfl, fun _ => rfl⟩
theorem Laws.Identity.qset (f : H2) : Laws.Identity.Statement (.qset f) := ⟨rfl, fun _ => rfl⟩
theorem Laws.Identity.qsetImm (f : H2) : Laws.Identity.Statement (.qsetImm f) := ⟨rfl, fun _ => rfl⟩
theorem Laws.Identity.qadv (f : H2) : Laws.Identity.Statement (.qadv f) := ⟨rfl, fun _ => rfl⟩
theorem Laws.Identity.qinfo (f : H2) : Laws.Identity.Statement (.qinfo f) := ⟨rfl, fun _ => rfl⟩
theorem Laws.Identity.qinfoB (f : H2) : Laws.Identity.Statement (.qinfoB f) := ⟨rfl, fun _ => rfl⟩
theorem Laws.Identity.qinfoS (f : H2) : Laws.Identity.Statement (.qinfoS f) := ⟨rfl, fun _ => rfl⟩
theorem Laws.Identity.vld (f : H2) : Laws.Identity.Statement (.vld f) := ⟨rfl, fun _ => rfl⟩
theorem Laws.Identity.vlds (f : H2) : Laws.Identity.Statement (.vlds f) := ⟨rfl, fun _ => rfl⟩
theorem Laws.Identity.vpf (f : H2) : Laws.Identity.Statement (.vpf f) := ⟨rfl, fun _ => rfl⟩
theorem Laws.Identity.vst (f : H2) : Laws.Identity.Statement (.vst f) := ⟨rfl, fun _ => rfl⟩
theorem Laws.Identity.vsts (f : H2) : Laws.Identity.Statement (.vsts f) := ⟨rfl, fun _ => rfl⟩
theorem Laws.Identity.vldx (f : H2) : Laws.Identity.Statement (.vldx f) := ⟨rfl, fun _ => rfl⟩
theorem Laws.Identity.vstx (f : H2) : Laws.Identity.Statement (.vstx f) := ⟨rfl, fun _ => rfl⟩
theorem Laws.Identity.vamoAdd (f : H2) : Laws.Identity.Statement (.vamoAdd f) := ⟨rfl, fun _ => rfl⟩
theorem Laws.Identity.vamoFadd (f : H2) : Laws.Identity.Statement (.vamoFadd f) := ⟨rfl, fun _ => rfl⟩
theorem Laws.Identity.vamoAnd (f : H2) : Laws.Identity.Statement (.vamoAnd f) := ⟨rfl, fun _ => rfl⟩
theorem Laws.Identity.vamoOr (f : H2) : Laws.Identity.Statement (.vamoOr f) := ⟨rfl, fun _ => rfl⟩
theorem Laws.Identity.vamoXor (f : H2) : Laws.Identity.Statement (.vamoXor f) := ⟨rfl, fun _ => rfl⟩
theorem Laws.Identity.vamoMin (f : H2) : Laws.Identity.Statement (.vamoMin f) := ⟨rfl, fun _ => rfl⟩
theorem Laws.Identity.vamoMax (f : H2) : Laws.Identity.Statement (.vamoMax f) := ⟨rfl, fun _ => rfl⟩
theorem Laws.Identity.vamoSwap (f : H2) : Laws.Identity.Statement (.vamoSwap f) := ⟨rfl, fun _ => rfl⟩
theorem Laws.Identity.vamoCas (f : H2) : Laws.Identity.Statement (.vamoCas f) := ⟨rfl, fun _ => rfl⟩
theorem Laws.Identity.vredAddIndexed (f : H2) : Laws.Identity.Statement (.vredAddIndexed f) := ⟨rfl, fun _ => rfl⟩
theorem Laws.Identity.vredFaddIndexed (f : H2) : Laws.Identity.Statement (.vredFaddIndexed f) := ⟨rfl, fun _ => rfl⟩
theorem Laws.Identity.vredAndIndexed (f : H2) : Laws.Identity.Statement (.vredAndIndexed f) := ⟨rfl, fun _ => rfl⟩
theorem Laws.Identity.vredOrIndexed (f : H2) : Laws.Identity.Statement (.vredOrIndexed f) := ⟨rfl, fun _ => rfl⟩
theorem Laws.Identity.vredXorIndexed (f : H2) : Laws.Identity.Statement (.vredXorIndexed f) := ⟨rfl, fun _ => rfl⟩
theorem Laws.Identity.vredMinIndexed (f : H2) : Laws.Identity.Statement (.vredMinIndexed f) := ⟨rfl, fun _ => rfl⟩
theorem Laws.Identity.vredMaxIndexed (f : H2) : Laws.Identity.Statement (.vredMaxIndexed f) := ⟨rfl, fun _ => rfl⟩
theorem Laws.Identity.vredAddStream (f : H2) : Laws.Identity.Statement (.vredAddStream f) := ⟨rfl, fun _ => rfl⟩
theorem Laws.Identity.vredFaddStream (f : H2) : Laws.Identity.Statement (.vredFaddStream f) := ⟨rfl, fun _ => rfl⟩
theorem Laws.Identity.vredAndStream (f : H2) : Laws.Identity.Statement (.vredAndStream f) := ⟨rfl, fun _ => rfl⟩
theorem Laws.Identity.vredOrStream (f : H2) : Laws.Identity.Statement (.vredOrStream f) := ⟨rfl, fun _ => rfl⟩
theorem Laws.Identity.vredXorStream (f : H2) : Laws.Identity.Statement (.vredXorStream f) := ⟨rfl, fun _ => rfl⟩
theorem Laws.Identity.vredMinStream (f : H2) : Laws.Identity.Statement (.vredMinStream f) := ⟨rfl, fun _ => rfl⟩
theorem Laws.Identity.vredMaxStream (f : H2) : Laws.Identity.Statement (.vredMaxStream f) := ⟨rfl, fun _ => rfl⟩
theorem Laws.Identity.vldl (f : H2) : Laws.Identity.Statement (.vldl f) := ⟨rfl, fun _ => rfl⟩
theorem Laws.Identity.vldlIndexed (f : H2) : Laws.Identity.Statement (.vldlIndexed f) := ⟨rfl, fun _ => rfl⟩
theorem Laws.Identity.vstl (f : H2) : Laws.Identity.Statement (.vstl f) := ⟨rfl, fun _ => rfl⟩
theorem Laws.Identity.vstlIndexed (f : H2) : Laws.Identity.Statement (.vstlIndexed f) := ⟨rfl, fun _ => rfl⟩
theorem Laws.Identity.mwld (f : H2) : Laws.Identity.Statement (.mwld f) := ⟨rfl, fun _ => rfl⟩
theorem Laws.Identity.mmla (f : H2) : Laws.Identity.Statement (.mmla f) := ⟨rfl, fun _ => rfl⟩
theorem Laws.Identity.acz (f : H2) : Laws.Identity.Statement (.acz f) := ⟨rfl, fun _ => rfl⟩
theorem Laws.Identity.aci (f : H2) : Laws.Identity.Statement (.aci f) := ⟨rfl, fun _ => rfl⟩
theorem Laws.Identity.aciAdd (f : H2) : Laws.Identity.Statement (.aciAdd f) := ⟨rfl, fun _ => rfl⟩
theorem Laws.Identity.aciSat (f : H2) : Laws.Identity.Statement (.aciSat f) := ⟨rfl, fun _ => rfl⟩
theorem Laws.Identity.acx (f : H2) : Laws.Identity.Statement (.acx f) := ⟨rfl, fun _ => rfl⟩
theorem Laws.Identity.unfCfg (f : H2) : Laws.Identity.Statement (.unfCfg f) := ⟨rfl, fun _ => rfl⟩
theorem Laws.Identity.spwDrain (f : H1) : Laws.Identity.Statement (.spwDrain f) := ⟨rfl, fun _ => rfl⟩
theorem Laws.Identity.spwMode (f : H1) : Laws.Identity.Statement (.spwMode f) := ⟨rfl, fun _ => rfl⟩
theorem Laws.Identity.spwSt (f : H1) : Laws.Identity.Statement (.spwSt f) := ⟨rfl, fun _ => rfl⟩
theorem Laws.Identity.fmtLd (f : H2) : Laws.Identity.Statement (.fmtLd f) := ⟨rfl, fun _ => rfl⟩
theorem Laws.Identity.fmtSt (f : H2) : Laws.Identity.Statement (.fmtSt f) := ⟨rfl, fun _ => rfl⟩
theorem Laws.Identity.dld (f : H2) : Laws.Identity.Statement (.dld f) := ⟨rfl, fun _ => rfl⟩
theorem Laws.Identity.dst (f : H2) : Laws.Identity.Statement (.dst f) := ⟨rfl, fun _ => rfl⟩
theorem Laws.Identity.tcopy (f : H3) : Laws.Identity.Statement (.tcopy f) := ⟨rfl, fun _ => rfl⟩
theorem Laws.Identity.tcopySh (f : H3) : Laws.Identity.Statement (.tcopySh f) := ⟨rfl, fun _ => rfl⟩
theorem Laws.Identity.tcopyCb (f : H3) : Laws.Identity.Statement (.tcopyCb f) := ⟨rfl, fun _ => rfl⟩
theorem Laws.Identity.pub (f : H1) : Laws.Identity.Statement (.pub f) := ⟨rfl, fun _ => rfl⟩
theorem Laws.Identity.tcReg (f : H3) : Laws.Identity.Statement (.tcReg f) := ⟨rfl, fun _ => rfl⟩
theorem Laws.Identity.tcDrop (f : H3) : Laws.Identity.Statement (.tcDrop f) := ⟨rfl, fun _ => rfl⟩
theorem Laws.Identity.tcPf (f : H3) : Laws.Identity.Statement (.tcPf f) := ⟨rfl, fun _ => rfl⟩
theorem Laws.Identity.tcHalo (f : H3) : Laws.Identity.Statement (.tcHalo f) := ⟨rfl, fun _ => rfl⟩
theorem Laws.Identity.tcInv (f : H3) : Laws.Identity.Statement (.tcInv f) := ⟨rfl, fun _ => rfl⟩
theorem Laws.Identity.tcCln (f : H3) : Laws.Identity.Statement (.tcCln f) := ⟨rfl, fun _ => rfl⟩
theorem Laws.Identity.mgrpDef (f : H3) : Laws.Identity.Statement (.mgrpDef f) := ⟨rfl, fun _ => rfl⟩
theorem Laws.Identity.mgrpDrop (f : H3) : Laws.Identity.Statement (.mgrpDrop f) := ⟨rfl, fun _ => rfl⟩
theorem Laws.Identity.mldRed (f : H3) : Laws.Identity.Statement (.mldRed f) := ⟨rfl, fun _ => rfl⟩
theorem Laws.Identity.mst (f : H3) : Laws.Identity.Statement (.mst f) := ⟨rfl, fun _ => rfl⟩
theorem Laws.Identity.mgrpJoin (f : H3) : Laws.Identity.Statement (.mgrpJoin f) := ⟨rfl, fun _ => rfl⟩
theorem Laws.Identity.bwl (f : H3) : Laws.Identity.Statement (.bwl f) := ⟨rfl, fun _ => rfl⟩
theorem Laws.Identity.bwr (f : H3) : Laws.Identity.Statement (.bwr f) := ⟨rfl, fun _ => rfl⟩
theorem Laws.Identity.bwq (f : H3) : Laws.Identity.Statement (.bwq f) := ⟨rfl, fun _ => rfl⟩
theorem Laws.Identity.bwqD (f : H3) : Laws.Identity.Statement (.bwqD f) := ⟨rfl, fun _ => rfl⟩
theorem Laws.Identity.rtOpen (f : H3) : Laws.Identity.Statement (.rtOpen f) := ⟨rfl, fun _ => rfl⟩
theorem Laws.Identity.rtOpenRx (f : H3) : Laws.Identity.Statement (.rtOpenRx f) := ⟨rfl, fun _ => rfl⟩
theorem Laws.Identity.rtAdd (f : H3) : Laws.Identity.Statement (.rtAdd f) := ⟨rfl, fun _ => rfl⟩
theorem Laws.Identity.rtGo (f : H3) : Laws.Identity.Statement (.rtGo f) := ⟨rfl, fun _ => rfl⟩
theorem Laws.Identity.rtRecv (f : H3) : Laws.Identity.Statement (.rtRecv f) := ⟨rfl, fun _ => rfl⟩
theorem Laws.Identity.rtStat (f : H3) : Laws.Identity.Statement (.rtStat f) := ⟨rfl, fun _ => rfl⟩
theorem Laws.Identity.rtClose (f : H3) : Laws.Identity.Statement (.rtClose f) := ⟨rfl, fun _ => rfl⟩
theorem Laws.Identity.rtCloseRx (f : H3) : Laws.Identity.Statement (.rtCloseRx f) := ⟨rfl, fun _ => rfl⟩
theorem Laws.Identity.flmRd (f : H2) : Laws.Identity.Statement (.flmRd f) := ⟨rfl, fun _ => rfl⟩
theorem Laws.Identity.flmSeal (f : H2) : Laws.Identity.Statement (.flmSeal f) := ⟨rfl, fun _ => rfl⟩
theorem Laws.Identity.dgst (f : H2) : Laws.Identity.Statement (.dgst f) := ⟨rfl, fun _ => rfl⟩
theorem Laws.Identity.prtNew (f : H3) : Laws.Identity.Statement (.prtNew f) := ⟨rfl, fun _ => rfl⟩
theorem Laws.Identity.prtAsg (f : H3) : Laws.Identity.Statement (.prtAsg f) := ⟨rfl, fun _ => rfl⟩
theorem Laws.Identity.prtStop (f : H3) : Laws.Identity.Statement (.prtStop f) := ⟨rfl, fun _ => rfl⟩
theorem Laws.Identity.prtKill (f : H3) : Laws.Identity.Statement (.prtKill f) := ⟨rfl, fun _ => rfl⟩
theorem Laws.Identity.prtSt (f : H3) : Laws.Identity.Statement (.prtSt f) := ⟨rfl, fun _ => rfl⟩
theorem Laws.Identity.scbGo (f : H2) : Laws.Identity.Statement (.scbGo f) := ⟨rfl, fun _ => rfl⟩
theorem Laws.Identity.scbSt (f : H2) : Laws.Identity.Statement (.scbSt f) := ⟨rfl, fun _ => rfl⟩
theorem Laws.Identity.keyLd (f : H2) : Laws.Identity.Statement (.keyLd f) := ⟨rfl, fun _ => rfl⟩
theorem Laws.Identity.keyZ (f : H2) : Laws.Identity.Statement (.keyZ f) := ⟨rfl, fun _ => rfl⟩
theorem Laws.Identity.ckpGo (f : H3) : Laws.Identity.Statement (.ckpGo f) := ⟨rfl, fun _ => rfl⟩
theorem Laws.Identity.ckpSt (f : H3) : Laws.Identity.Statement (.ckpSt f) := ⟨rfl, fun _ => rfl⟩
theorem Laws.Identity.ckpRb (f : H3) : Laws.Identity.Statement (.ckpRb f) := ⟨rfl, fun _ => rfl⟩
theorem Laws.Identity.nop : Laws.Identity.Statement .nop := ⟨rfl, fun _ => rfl⟩
theorem Laws.Identity.hint (h : HintWord) : Laws.Identity.Statement (.hint h) := by
  refine ⟨rfl, fun hw => ?_⟩
  simp only [Enc.named]
  split
  · rename_i h0; simp [Instr.wf, Instr.special, h0.1, h0.2] at hw
  · rfl

end Sys2Proof
end

