-- ==== Sys2Proof/Tests/Slice0.lean ====
section
/-! SUPPORT. Tests: words of every encoded instruction written out field by field from the encoding tables, terms that the
well-formedness check refuses, single steps whose results the spec or a published standard gives, and for every statement
with hypotheses a named witness that meets them. -/
namespace Sys2Proof.Tests
open Sys2Proof Sys2Proof.Machine
set_option Elab.async false

/-! ## States for the tests

The state after reset with the device running, a table that maps the first GiB to itself, and what each test adds. -/

/-- A table of three nodes at pages 1 to 3: two levels of pointers and one leaf of 1 GiB with V, RD, WR and EX set, of kind RC (R219). -/
def tables (m : List Host.Cell) : List Host.Cell :=
  setCells (setCells (setCells m 4096 (leBytes 7 0x28000)) 8192 (leBytes 7 0x38000)) 12288 (leBytes 7 0xF440)

/-- The running device: partition 0's management context in a line of one `nop`, with tables at page 1, and host memory below 4 GiB in its reach. -/
def base : State :=
  { State.reset with
    c := { State.reset.c with line := some ⟨0, oneHeadLine 0x3F00 0⟩ }
    boot := .running, tick := 1000, mem := tables [],
    parts := Vector.replicate 64 { Part.reset with root := 1, hostl := 2 ^ 32 } }

/-- With a second GiB of virtual addresses, from 2^31, in host memory, and its leaf held in the core's translation cache. -/
def hosted (s : State) : State :=
  { s with mem := setCells s.mem 12302 (leBytes 7 (2 ^ 55 + 0xF44C))
           tlb := (⟨0, s.c.core⟩, s.c.part, { va := 2 ^ 31, e := 2 ^ 55 + 0xF44C, line := 12288 }) :: s.tlb }

/-- With a changed running context. -/
def ctxOf (s : State) (f : Ctx → Ctx) : State := { s with c := f s.c }

/-- With scalar registers at values. -/
def regs (s : State) (l : List (Nat × Nat)) : State := l.foldl (fun s x => s.setReg x.1 (wd x.2)) s

/-- With bytes at an address. -/
def bytesAt (s : State) (a : Nat) (bs : List Byte) : State := { s with mem := setCells s.mem a bs }

/-- With a 64-bit word at an address. -/
def wordAt (s : State) (a v : Nat) : State := bytesAt s a (leBytes 8 v)

/-- A line of one `nop` at 0x8000. -/
def withLine (s : State) : State := bytesAt s 0x8000 (oneHeadLine 0x3F00 0)

/-- The state that an instruction answers. -/
noncomputable def ran (i : Instr) (s : State) : State :=
  match exec i s with
  | .next t => t
  | _ => s

/-- An access that is made, one that traps with a cause, and one that holds its context. -/
def isOk {α : Type} : R α → Bool
  | .ok _ _ => true
  | _ => false
def isTrap {α : Type} (c : Nat) : R α → Bool
  | .trap d _ => c == d
  | _ => false
def isHold {α : Type} : R α → Bool
  | .hold _ => true
  | _ => false

/-- Operands with every field zero. -/
def h1 : H1 := ⟨0, 0, 0, 0⟩
def h2 : H2 := ⟨0, 0, 0, 0, 0, 0, 0⟩
def h3 : H3 := ⟨0, 0, 0, 0, 0, 0, 0, 0, 0⟩

theorem isOk_elim {α : Type} {r : R α} (h : isOk r = true) : ∃ a u, r = .ok a u := by
  cases r <;> simp_all [isOk]

theorem isTrap_elim {α : Type} {c : Nat} {r : R α} (h : isTrap c r = true) : ∃ u, r = .trap c u := by
  cases r <;> simp_all [isTrap]

/-- A context that can perform a vector instruction whole. -/
def ready (s : State) : Bool := !s.c.vill && !s.c.resuming && s.c.prog.isEmpty && s.c.stop.isNone && s.c.perr.isNone

theorem vecReady_of (s : State) (h : ready s = true) : VecReady s := by
  simp only [ready, Bool.and_eq_true, Bool.not_eq_true', Option.isNone_iff_eq_none, List.isEmpty_iff] at h
  exact ⟨h.1.1.1.1, h.1.1.1.2, by simp [h.1.1.2], h.1.2, h.2⟩

/-- What `Quiet` asks, to be computed. -/
def quiet (s : State) (part core : Nat) : Bool :=
  decide (s.binds = [] ∧ s.poison = [] ∧ (s.part part).st = .live ∧ core < 64 ∧ Memory.wf s.mem = true) &&
    (s.part part).wpt.toList.all fun w => !w.getLsbD 63 && !w.getLsbD 62
theorem quiet_of (s : State) (part core : Nat) (h : quiet s part core = true) : Quiet s part core := by
  simp only [quiet, Bool.and_eq_true, decide_eq_true_eq, List.all_eq_true, Bool.not_eq_true'] at h
  exact ⟨h.1.1, h.1.2.1, h.1.2.2.1, h.1.2.2.2.1, h.1.2.2.2.2, h.2⟩

/-- The state in which an access with an ordering is made. -/
def made (s : State) (acq rel : Bool) (scope a n : Nat) : State :=
  let t := if acq then acquired s scope a n else s
  if rel then releaseAt t scope else t
theorem ordered_made {s : State} {acq rel : Bool} {scope a n : Nat} (h : fillsOut (if acq then acquired s scope a n else s) = false) :
    Ordered s acq rel scope a n (made s acq rel scope a n) := ⟨fun _ => h, rfl⟩

theorem tickPast_of {s : State} {x : Nat} (h : x < s.tick.toNat) : TickPast s x := .inl h
theorem not_tickPast {s : State} {x : Nat} (h : s.tick.toNat < x) : ¬TickPast s x := by
  rintro (h' | ⟨h', -⟩) <;> omega

/-! ## Decoding: one word of every encoded instruction

Each word is written field by field from R79 to R84 and the identity tables of the chapters: an H1 word is A, B, FN above TL, MAJ,
DST, SUB; an H2 word A, B, MASK, TYPE, FN, IMM8; an H3 word A, B, MASK, TYPE, FN, C, DL, IMM16; a wide word IMM44, FN. An instruction's
record holds d, sub, a, b, then mask, ty and, in H3, c, dl, and the immediate. -/

/-- Every word decodes to the instruction it stands for. -/
noncomputable def decodesAll (l : List (Nat × Nat × Instr)) : Bool := l.all fun p => decide (decodeTableWord p.1 p.2.1 = some p.2.2)

theorem test_words_major_01 : decodesAll [
    (32, 0b00101_00110_000000_01_000001_00011_000, .addReg ⟨3, 0, 5, 6⟩),
    (32, 0b00101_00110_000001_01_000001_00011_000, .subReg ⟨3, 0, 5, 6⟩),
    (32, 0b00101_00110_000010_01_000001_00011_000, .andReg ⟨3, 0, 5, 6⟩),
    (32, 0b00101_00110_000011_01_000001_00011_000, .orReg ⟨3, 0, 5, 6⟩),
    (32, 0b00101_00110_000100_01_000001_00011_000, .xorReg ⟨3, 0, 5, 6⟩),
    (32, 0b00101_00110_000101_01_000001_00011_000, .andnReg ⟨3, 0, 5, 6⟩),
    (32, 0b00101_00110_000110_01_000001_00011_000, .shlReg ⟨3, 0, 5, 6⟩),
    (32, 0b00101_00110_000111_01_000001_00011_000, .shrReg ⟨3, 0, 5, 6⟩),
    (32, 0b00101_00110_001000_01_000001_00011_000, .sraReg ⟨3, 0, 5, 6⟩),
    (32, 0b00101_00110_001001_01_000001_00011_000, .rotReg ⟨3, 0, 5, 6⟩),
    (32, 0b00101_00110_001010_01_000001_00011_000, .minReg ⟨3, 0, 5, 6⟩),
    (32, 0b00101_00110_001011_01_000001_00011_000, .maxReg ⟨3, 0, 5, 6⟩),
    (32, 0b00101_00110_001100_01_000001_00011_000, .minN64Reg ⟨3, 0, 5, 6⟩),
    (32, 0b00101_00110_001101_01_000001_00011_000, .maxN64Reg ⟨3, 0, 5, 6⟩)] = true := by
  decide +kernel

theorem test_words_major_02 : decodesAll [
    (64, 0b00101_00000_0000_0000_0000_00000_00000_0000000010100101_11_000010_00011_000, .addImm ⟨3, 0, 5, 0, 0, 0, 0, 0, 165⟩),
    (64, 0b00101_00000_0000_0000_0001_00000_00000_0000000010100101_11_000010_00011_000, .subImm ⟨3, 0, 5, 0, 0, 0, 0, 0, 165⟩),
    (64, 0b00101_00000_0000_0000_0010_00000_00000_0000000010100101_11_000010_00011_000, .andImm ⟨3, 0, 5, 0, 0, 0, 0, 0, 165⟩),
    (64, 0b00101_00000_0000_0000_0011_00000_00000_0000000010100101_11_000010_00011_000, .orImm ⟨3, 0, 5, 0, 0, 0, 0, 0, 165⟩),
    (64, 0b00101_00000_0000_0000_0100_00000_00000_0000000010100101_11_000010_00011_000, .xorImm ⟨3, 0, 5, 0, 0, 0, 0, 0, 165⟩),
    (64, 0b00101_00000_0000_0000_0101_00000_00000_0000000010100101_11_000010_00011_000, .andnImm ⟨3, 0, 5, 0, 0, 0, 0, 0, 165⟩),
    (64, 0b00101_00000_0000_0000_0110_00000_00000_0000000000101011_11_000010_00011_000, .shlImm ⟨3, 0, 5, 0, 0, 0, 0, 0, 43⟩),
    (64, 0b00101_00000_0000_0000_0111_00000_00000_0000000000101011_11_000010_00011_000, .shrImm ⟨3, 0, 5, 0, 0, 0, 0, 0, 43⟩),
    (64, 0b00101_00000_0000_0000_1000_00000_00000_0000000000101011_11_000010_00011_000, .sraImm ⟨3, 0, 5, 0, 0, 0, 0, 0, 43⟩),
    (64, 0b00101_00000_0000_0000_1001_00000_00000_0000000000101011_11_000010_00011_000, .rotImm ⟨3, 0, 5, 0, 0, 0, 0, 0, 43⟩),
    (64, 0b00101_00000_0000_0000_1010_00000_00000_0000000010100101_11_000010_00011_000, .minImm ⟨3, 0, 5, 0, 0, 0, 0, 0, 165⟩),
    (64, 0b00101_00000_0000_0000_1011_00000_00000_0000000010100101_11_000010_00011_000, .maxImm ⟨3, 0, 5, 0, 0, 0, 0, 0, 165⟩),
    (64, 0b00101_00000_0000_0000_1100_00000_00000_0000000010100101_11_000010_00011_000, .minN64Imm ⟨3, 0, 5, 0, 0, 0, 0, 0, 165⟩),
    (64, 0b00101_00000_0000_0000_1101_00000_00000_0000000010100101_11_000010_00011_000, .maxN64Imm ⟨3, 0, 5, 0, 0, 0, 0, 0, 165⟩)] = true := by
  decide +kernel

theorem test_words_major_03 : decodesAll [
    (64, 0b00000000000000000000000010011010101111001101_0000_11_000011_00011_000, .li ⟨3, 0, 633805⟩),
    (64, 0b00000000000000000000000010011010101111001101_0001_11_000011_00011_000, .lea ⟨3, 0, 633805⟩),
    (64, 0b00000000000000000000000010011010101111001101_0010_11_000011_00011_000, .lih ⟨3, 0, 633805⟩)] = true := by
  decide +kernel

theorem test_words_major_04 : decodesAll [
    (64, 0b00101_00110_0000_0000_0000_00000_00000_0000000000000000_11_000100_00011_000, .mul ⟨3, 0, 5, 6, 0, 0, 0, 0, 0⟩),
    (64, 0b00101_00110_0000_1000_0001_00000_00000_0000000000000000_11_000100_00011_000, .mulh ⟨3, 0, 5, 6, 0, 8, 0, 0, 0⟩),
    (64, 0b00101_00110_0000_1000_0010_00000_00000_0000000000000000_11_000100_00011_000, .div ⟨3, 0, 5, 6, 0, 8, 0, 0, 0⟩),
    (64, 0b00101_00110_0000_1000_0011_00000_00000_0000000000000000_11_000100_00011_000, .rem ⟨3, 0, 5, 6, 0, 8, 0, 0, 0⟩),
    (64, 0b00101_00110_0000_1100_1000_00000_00000_0000000000000000_11_000100_00011_000, .fadd ⟨3, 0, 5, 6, 0, 12, 0, 0, 0⟩),
    (64, 0b00101_00110_0000_1100_1001_00000_00000_0000000000000000_11_000100_00011_000, .fsub ⟨3, 0, 5, 6, 0, 12, 0, 0, 0⟩),
    (64, 0b00101_00110_0000_1100_1010_00000_00000_0000000000000000_11_000100_00011_000, .fmul ⟨3, 0, 5, 6, 0, 12, 0, 0, 0⟩),
    (64, 0b00101_00110_0000_1100_1011_00000_00000_0000000000000000_11_000100_00011_000, .fdiv ⟨3, 0, 5, 6, 0, 12, 0, 0, 0⟩),
    (64, 0b00101_00110_0000_1100_1100_00111_00000_0000000000000000_11_000100_00011_000, .fma ⟨3, 0, 5, 6, 0, 12, 7, 0, 0⟩),
    (64, 0b00101_00000_0000_0100_1101_00000_00000_0000000000001011_11_000100_00011_000, .fcvt ⟨3, 0, 5, 0, 0, 4, 0, 0, 11⟩)] = true := by
  decide +kernel

theorem test_words_major_05 : decodesAll [
    (32, 0b00101_00000_000000_01_000101_00011_000, .clz ⟨3, 0, 5, 0⟩),
    (32, 0b00101_00000_000001_01_000101_00011_000, .ctz ⟨3, 0, 5, 0⟩),
    (32, 0b00101_00000_000010_01_000101_00011_000, .popc ⟨3, 0, 5, 0⟩),
    (32, 0b00101_00000_000011_01_000101_00011_000, .sextS8 ⟨3, 0, 5, 0⟩),
    (32, 0b00101_00000_000100_01_000101_00011_000, .sextS16 ⟨3, 0, 5, 0⟩),
    (32, 0b00101_00000_000101_01_000101_00011_000, .sextS32 ⟨3, 0, 5, 0⟩),
    (32, 0b00101_00000_000110_01_000101_00011_000, .zextN8 ⟨3, 0, 5, 0⟩),
    (32, 0b00101_00000_000111_01_000101_00011_000, .zextN16 ⟨3, 0, 5, 0⟩),
    (32, 0b00101_00000_001000_01_000101_00011_000, .zextN32 ⟨3, 0, 5, 0⟩)] = true := by
  decide +kernel

theorem test_words_major_06 : decodesAll [
    (48, 0b00101_00110_0000_1000_000000_00000000_10_000110_00011_000, .cmp ⟨3, 0, 5, 6, 0, 8, 0⟩),
    (48, 0b00101_00110_0000_0000_000001_00000000_10_000110_00011_000, .setEq ⟨3, 0, 5, 6, 0, 0, 0⟩),
    (48, 0b00101_00110_0000_0000_000010_00000000_10_000110_00011_000, .setNe ⟨3, 0, 5, 6, 0, 0, 0⟩),
    (48, 0b00101_00110_0000_1000_000011_00000000_10_000110_00011_000, .setLt ⟨3, 0, 5, 6, 0, 8, 0⟩),
    (48, 0b00101_00110_0000_1000_000100_00000000_10_000110_00011_000, .setGe ⟨3, 0, 5, 6, 0, 8, 0⟩),
    (48, 0b00101_00110_0000_1100_010000_00000000_10_000110_00011_000, .fcmpEq ⟨3, 0, 5, 6, 0, 12, 0⟩),
    (48, 0b00101_00110_0000_1100_010001_00000000_10_000110_00011_000, .fcmpLt ⟨3, 0, 5, 6, 0, 12, 0⟩),
    (48, 0b00101_00110_0000_1100_010010_00000000_10_000110_00011_000, .fcmpLe ⟨3, 0, 5, 6, 0, 12, 0⟩),
    (48, 0b00101_00110_0000_1100_010011_00000000_10_000110_00011_000, .fcmpUn ⟨3, 0, 5, 6, 0, 12, 0⟩)] = true := by
  decide +kernel

theorem test_words_major_07 : decodesAll [
    (64, 0b00101_00000_0000_1000_0000_00000_00000_0000000010100101_11_000111_00011_000, .ld ⟨3, 0, 5, 0, 0, 8, 0, 0, 165⟩),
    (64, 0b00101_00000_0000_1000_0001_00000_00000_0000000010100101_11_000111_00011_000, .ldAcq ⟨3, 0, 5, 0, 0, 8, 0, 0, 165⟩)] = true := by
  decide +kernel

theorem test_words_major_08 : decodesAll [
    (64, 0b00101_00110_0000_1000_0000_00000_00000_0000000010100101_11_001000_00000_000, .st ⟨0, 0, 5, 6, 0, 8, 0, 0, 165⟩),
    (64, 0b00101_00110_0000_1000_0001_00000_00000_0000000010100101_11_001000_00000_000, .stRel ⟨0, 0, 5, 6, 0, 8, 0, 0, 165⟩)] = true := by
  decide +kernel

theorem test_words_major_09 : decodesAll [
    (64, 0b00101_00110_0000_1000_0000_00111_00000_0000000000011011_11_001001_00011_001, .amoAdd ⟨3, 1, 5, 6, 0, 8, 7, 0, 27⟩),
    (64, 0b00101_00110_0000_1100_0001_00111_00000_0000000000011011_11_001001_00011_001, .amoFadd ⟨3, 1, 5, 6, 0, 12, 7, 0, 27⟩),
    (64, 0b00101_00110_0000_1000_0010_00111_00000_0000000000011011_11_001001_00011_001, .amoAnd ⟨3, 1, 5, 6, 0, 8, 7, 0, 27⟩),
    (64, 0b00101_00110_0000_1000_0011_00111_00000_0000000000011011_11_001001_00011_001, .amoOr ⟨3, 1, 5, 6, 0, 8, 7, 0, 27⟩),
    (64, 0b00101_00110_0000_1000_0100_00111_00000_0000000000011011_11_001001_00011_001, .amoXor ⟨3, 1, 5, 6, 0, 8, 7, 0, 27⟩),
    (64, 0b00101_00110_0000_1000_0101_00111_00000_0000000000011011_11_001001_00011_001, .amoMin ⟨3, 1, 5, 6, 0, 8, 7, 0, 27⟩),
    (64, 0b00101_00110_0000_1000_0110_00111_00000_0000000000011011_11_001001_00011_001, .amoMax ⟨3, 1, 5, 6, 0, 8, 7, 0, 27⟩),
    (64, 0b00101_00110_0000_1000_0111_00111_00000_0000000000011011_11_001001_00011_001, .amoSwap ⟨3, 1, 5, 6, 0, 8, 7, 0, 27⟩),
    (64, 0b00101_00110_0000_1000_1000_00111_00000_0000000000011011_11_001001_00011_001, .amoCas ⟨3, 1, 5, 6, 0, 8, 7, 0, 27⟩)] = true := by
  decide +kernel

theorem test_words_major_0A : decodesAll [
    (64, 0b00101_00110_0000_0000_0000_00000_00000_0000000010100101_11_001010_00000_000, .bEq ⟨0, 0, 5, 6, 0, 0, 0, 0, 165⟩),
    (64, 0b00101_00110_0000_0000_0001_00000_00000_0000000010100101_11_001010_00000_000, .bNe ⟨0, 0, 5, 6, 0, 0, 0, 0, 165⟩),
    (64, 0b00101_00110_0000_0000_0010_00000_00000_0000000010100101_11_001010_00000_000, .bLt ⟨0, 0, 5, 6, 0, 0, 0, 0, 165⟩),
    (64, 0b00101_00110_0000_0000_0011_00000_00000_0000000010100101_11_001010_00000_000, .bGe ⟨0, 0, 5, 6, 0, 0, 0, 0, 165⟩),
    (64, 0b00101_00110_0000_0000_0100_00000_00000_0000000010100101_11_001010_00000_000, .bLtN64 ⟨0, 0, 5, 6, 0, 0, 0, 0, 165⟩),
    (64, 0b00101_00110_0000_0000_0101_00000_00000_0000000010100101_11_001010_00000_000, .bGeN64 ⟨0, 0, 5, 6, 0, 0, 0, 0, 165⟩)] = true := by
  decide +kernel

theorem test_words_major_0B : decodesAll [
    (64, 0b00000_00000_0000_0000_0000_00111_01001_0000000010100101_11_001011_00000_000, .jmp ⟨0, 0, 0, 0, 0, 0, 7, 9, 165⟩),
    (64, 0b00000_00000_0000_0000_0001_00111_01001_0000000010100101_11_001011_00011_000, .call ⟨3, 0, 0, 0, 0, 0, 7, 9, 165⟩),
    (64, 0b00101_00000_0000_0000_0010_00000_00000_0000000000000000_11_001011_00011_000, .jr ⟨3, 0, 5, 0, 0, 0, 0, 0, 0⟩)] = true := by
  decide +kernel

theorem test_words_major_0C : decodesAll [
    (48, 0b00000_00000_0000_0000_000000_00001011_10_001100_00011_000, .csrr ⟨3, 0, 0, 0, 0, 0, 11⟩),
    (48, 0b00101_00000_0000_0000_000001_00001011_10_001100_00000_000, .csrw ⟨0, 0, 5, 0, 0, 0, 11⟩),
    (48, 0b00101_00000_0000_0000_000010_00001011_10_001100_00000_000, .csrs ⟨0, 0, 5, 0, 0, 0, 11⟩),
    (48, 0b00101_00000_0000_0000_000011_00001011_10_001100_00000_000, .csrc ⟨0, 0, 5, 0, 0, 0, 11⟩)] = true := by
  decide +kernel

theorem test_words_major_0D : decodesAll [
    (16, 0b00_001101_10101_000, .trap { arg := 21 }),
    (16, 0b00_001101_00000_001, .eret { arg := 0 }),
    (16, 0b00_001101_00000_010, .wfe { arg := 0 }),
    (16, 0b00_001101_00000_011, .fenceSv { arg := 0 }),
    (16, 0b00_001101_00000_100, .fenceVs { arg := 0 }),
    (16, 0b00_001101_00100_101, .fenceRel { arg := 4 }),
    (16, 0b00_001101_00100_110, .fenceAcq { arg := 4 }),
    (16, 0b00_001101_00100_111, .fenceFull { arg := 4 })] = true := by
  decide +kernel

theorem test_words_major_0E : decodesAll [
    (64, 0b00000_00000_0000_0000_0000_00000_00000_0000000000000000_11_001110_00011_000, .tick ⟨3, 0, 0, 0, 0, 0, 0, 0, 0⟩),
    (64, 0b00000_00000_0000_0000_0001_00000_01001_0000000000000000_11_001110_00000_000, .waitt ⟨0, 0, 0, 0, 0, 0, 0, 9, 0⟩),
    (64, 0b00000_00110_0000_0000_0010_00000_01001_0000000000101111_11_001110_00000_000, .nbArr ⟨0, 0, 0, 6, 0, 0, 0, 9, 47⟩),
    (64, 0b00000_00000_0000_0000_0011_00111_01001_0000000000101111_11_001110_00011_000, .nbWait ⟨3, 0, 0, 0, 0, 0, 7, 9, 47⟩),
    (64, 0b00000_00110_0000_0000_0100_00111_01001_0000000000101111_11_001110_00011_000, .nbSync ⟨3, 0, 0, 6, 0, 0, 7, 9, 47⟩),
    (64, 0b00000_00000_0000_0000_0101_00000_00000_0000000000101111_11_001110_00011_000, .nbJoin ⟨3, 0, 0, 0, 0, 0, 0, 0, 47⟩)] = true := by
  decide +kernel

theorem test_words_major_0F : decodesAll [
    (64, 0b00101_00110_0000_0000_0000_00000_00000_0000000010100101_11_001111_00000_001, .mtInit ⟨0, 1, 5, 6, 0, 0, 0, 0, 165⟩),
    (64, 0b00101_00110_0000_0000_0001_00000_01001_0000000000000000_11_001111_00000_000, .mtArr ⟨0, 0, 5, 6, 0, 0, 0, 9, 0⟩),
    (64, 0b00101_00110_0000_0000_0010_00111_01001_0000000000000000_11_001111_00011_000, .mtWait ⟨3, 0, 5, 6, 0, 0, 7, 9, 0⟩),
    (64, 0b00101_00110_0000_0000_0011_00111_01001_0000000000000000_11_001111_00011_000, .mtSync ⟨3, 0, 5, 6, 0, 0, 7, 9, 0⟩),
    (64, 0b00101_00110_0000_0000_0100_00000_00000_0000000000000000_11_001111_00011_000, .mtJoin ⟨3, 0, 5, 6, 0, 0, 0, 0, 0⟩)] = true := by
  decide +kernel

theorem test_words_major_10 : decodesAll [
    (64, 0b00101_00110_0000_0000_0000_00000_01001_0000000000000000_11_010000_00011_000, .lkAcq ⟨3, 0, 5, 6, 0, 0, 0, 9, 0⟩),
    (64, 0b00101_00000_0000_0000_0001_00000_00000_0000000000000000_11_010000_00000_000, .lkRel ⟨0, 0, 5, 0, 0, 0, 0, 0, 0⟩),
    (64, 0b00101_00000_0000_0000_0010_00000_00000_0000000000000000_11_010000_00000_000, .lkMend ⟨0, 0, 5, 0, 0, 0, 0, 0, 0⟩)] = true := by
  decide +kernel

theorem test_words_major_11 : decodesAll [
    (64, 0b00101_00000_0000_0000_0000_00000_00000_0000000010100101_11_010001_00011_000, .cbDef ⟨3, 0, 5, 0, 0, 0, 0, 0, 165⟩),
    (64, 0b00000_00000_0000_0000_0001_00111_01001_0000000010100101_11_010001_00011_000, .cbClaim ⟨3, 0, 0, 0, 0, 0, 7, 9, 165⟩),
    (64, 0b00101_00000_0000_0000_0010_00000_00000_0000000010100101_11_010001_00000_000, .cbFill ⟨0, 0, 5, 0, 0, 0, 0, 0, 165⟩),
    (64, 0b00000_00110_0000_0000_0011_00111_01001_0000000010100101_11_010001_00011_000, .recv ⟨3, 0, 0, 6, 0, 0, 7, 9, 165⟩),
    (64, 0b00101_00000_0000_0000_0100_00000_00000_0000000010100101_11_010001_00000_000, .cbFree ⟨0, 0, 5, 0, 0, 0, 0, 0, 165⟩),
    (64, 0b00000_00000_0000_0000_0101_00000_00000_0000000010100101_11_010001_00011_000, .cbSt ⟨3, 0, 0, 0, 0, 0, 0, 0, 165⟩),
    (64, 0b00101_00000_0000_0000_0110_00000_00000_0000000000101011_11_010001_00011_000, .chainDef ⟨3, 0, 5, 0, 0, 0, 0, 0, 43⟩),
    (64, 0b00101_00000_0000_0000_0111_00000_00000_0000000000101011_11_010001_00000_000, .chainPub ⟨0, 0, 5, 0, 0, 0, 0, 0, 43⟩)] = true := by
  decide +kernel

theorem test_words_major_12 : decodesAll [
    (64, 0b00101_00000_0000_0000_0000_00111_01001_0000000010100101_11_010010_00011_000, .spawn ⟨3, 0, 5, 0, 0, 0, 7, 9, 165⟩),
    (64, 0b00101_00110_0000_0000_0001_00000_00000_0000000000001011_11_010010_00011_000, .gdef ⟨3, 0, 5, 6, 0, 0, 0, 0, 11⟩),
    (64, 0b00000_00000_0000_0000_0010_00000_00000_0000000000001011_11_010010_00011_000, .gstart ⟨3, 0, 0, 0, 0, 0, 0, 0, 11⟩),
    (64, 0b00000_00000_0000_0000_0011_00000_00000_0000000000000000_11_010010_00000_000, .exit ⟨0, 0, 0, 0, 0, 0, 0, 0, 0⟩),
    (64, 0b00000_00000_0000_0000_0100_00000_00000_0000000000000000_11_010010_00000_000, .yield ⟨0, 0, 0, 0, 0, 0, 0, 0, 0⟩)] = true := by
  decide +kernel

theorem test_words_major_13 : decodesAll [
    (64, 0b00101_00000_0000_0000_0000_00000_00000_0000000000000000_11_010011_00011_000, .vsetl ⟨3, 0, 5, 0, 0, 0, 0, 0, 0⟩),
    (64, 0b00101_00000_0000_0000_0001_00000_01001_0000000000101011_11_010011_00011_000, .vsetlChained ⟨3, 0, 5, 0, 0, 0, 0, 9, 43⟩),
    (64, 0b00000_00000_0000_0000_0010_00000_00000_0000000000000000_11_010011_00011_000, .vnext ⟨3, 0, 0, 0, 0, 0, 0, 0, 0⟩),
    (64, 0b00000_00000_0000_1110_0011_00000_00000_0000000000001011_11_010011_00000_000, .vcfg ⟨0, 0, 0, 0, 0, 14, 0, 0, 11⟩),
    (64, 0b00000_00000_0000_0000_0100_00000_00000_0000000000000000_11_010011_00011_000, .vlanes ⟨3, 0, 0, 0, 0, 0, 0, 0, 0⟩),
    (64, 0b00101_00110_0000_0000_0101_00000_01001_0000000000000000_11_010011_00011_000, .vgang ⟨3, 0, 5, 6, 0, 0, 0, 9, 0⟩)] = true := by
  decide +kernel

theorem test_words_major_14 : decodesAll [
    (48, 0b00101_00110_0101_1000_000000_00000000_10_010100_00011_000, .vadd ⟨3, 0, 5, 6, 5, 8, 0⟩),
    (48, 0b00101_00110_0101_1000_000001_00000000_10_010100_00011_000, .vsub ⟨3, 0, 5, 6, 5, 8, 0⟩),
    (48, 0b00101_00110_0101_1000_000010_00000000_10_010100_00011_000, .vrsub ⟨3, 0, 5, 6, 5, 8, 0⟩),
    (48, 0b00101_00110_0101_1000_000011_00000000_10_010100_00011_000, .vand ⟨3, 0, 5, 6, 5, 8, 0⟩),
    (48, 0b00101_00110_0101_1000_000100_00000000_10_010100_00011_000, .vor ⟨3, 0, 5, 6, 5, 8, 0⟩),
    (48, 0b00101_00110_0101_1000_000101_00000000_10_010100_00011_000, .vxor ⟨3, 0, 5, 6, 5, 8, 0⟩),
    (48, 0b00101_00110_0101_1000_000110_00000000_10_010100_00011_000, .vandn ⟨3, 0, 5, 6, 5, 8, 0⟩),
    (48, 0b00101_00110_0101_1000_000111_00000000_10_010100_00011_000, .vshl ⟨3, 0, 5, 6, 5, 8, 0⟩),
    (48, 0b00101_00110_0101_1000_001000_00000000_10_010100_00011_000, .vshr ⟨3, 0, 5, 6, 5, 8, 0⟩),
    (48, 0b00101_00110_0101_1000_001001_00000000_10_010100_00011_000, .vsra ⟨3, 0, 5, 6, 5, 8, 0⟩),
    (48, 0b00101_00110_0101_1000_001010_00000000_10_010100_00011_000, .vmin ⟨3, 0, 5, 6, 5, 8, 0⟩),
    (48, 0b00101_00110_0101_1000_001011_00000000_10_010100_00011_000, .vmax ⟨3, 0, 5, 6, 5, 8, 0⟩),
    (48, 0b00101_00110_0101_1000_001100_00000000_10_010100_00011_000, .vmul ⟨3, 0, 5, 6, 5, 8, 0⟩),
    (48, 0b00101_00110_0101_1000_001101_00000000_10_010100_00011_000, .vmulh ⟨3, 0, 5, 6, 5, 8, 0⟩),
    (48, 0b00101_00110_0101_1000_001110_00000000_10_010100_00011_000, .vadds ⟨3, 0, 5, 6, 5, 8, 0⟩),
    (48, 0b00101_00110_0101_1000_001111_00000000_10_010100_00011_000, .vsubs ⟨3, 0, 5, 6, 5, 8, 0⟩)] = true := by
  decide +kernel

theorem test_words_major_15 : decodesAll [
    (48, 0b00101_00110_0101_1100_000000_00000000_10_010101_00011_000, .vfadd ⟨3, 0, 5, 6, 5, 12, 0⟩),
    (48, 0b00101_00110_0101_1100_000001_00000000_10_010101_00011_000, .vfsub ⟨3, 0, 5, 6, 5, 12, 0⟩),
    (48, 0b00101_00110_0101_1100_000010_00000000_10_010101_00011_000, .vfmul ⟨3, 0, 5, 6, 5, 12, 0⟩),
    (48, 0b00101_00110_0101_1100_000011_00000000_10_010101_00011_000, .vfdiv ⟨3, 0, 5, 6, 5, 12, 0⟩),
    (48, 0b00101_00110_0101_1100_000100_00000000_10_010101_00011_000, .vfmin ⟨3, 0, 5, 6, 5, 12, 0⟩),
    (48, 0b00101_00110_0101_1100_000101_00000000_10_010101_00011_000, .vfmax ⟨3, 0, 5, 6, 5, 12, 0⟩),
    (48, 0b00101_00000_0101_1100_000110_00000000_10_010101_00011_000, .vfsqrt ⟨3, 0, 5, 0, 5, 12, 0⟩),
    (48, 0b00101_00000_0101_1100_000111_00000000_10_010101_00011_000, .vfabs ⟨3, 0, 5, 0, 5, 12, 0⟩),
    (48, 0b00101_00000_0101_1100_001000_00000000_10_010101_00011_000, .vfneg ⟨3, 0, 5, 0, 5, 12, 0⟩),
    (48, 0b00101_00110_0101_1100_001001_00000000_10_010101_00011_000, .vfsgn ⟨3, 0, 5, 6, 5, 12, 0⟩)] = true := by
  decide +kernel

theorem test_words_major_16 : decodesAll [
    (48, 0b00101_00110_0101_1100_000000_00000000_10_010110_00011_000, .vfma ⟨3, 0, 5, 6, 5, 12, 0⟩),
    (48, 0b00101_00110_0101_1100_000001_00000000_10_010110_00011_000, .vfms ⟨3, 0, 5, 6, 5, 12, 0⟩),
    (48, 0b00101_00110_0101_1100_000010_00000000_10_010110_00011_000, .vfnma ⟨3, 0, 5, 6, 5, 12, 0⟩),
    (48, 0b00101_00110_0101_1100_000011_00000000_10_010110_00011_000, .vfnms ⟨3, 0, 5, 6, 5, 12, 0⟩),
    (48, 0b00101_00110_0101_1000_001000_00000000_10_010110_00011_000, .vmac ⟨3, 0, 5, 6, 5, 8, 0⟩),
    (48, 0b00101_00110_0101_1000_001001_00000000_10_010110_00011_000, .vnmsc ⟨3, 0, 5, 6, 5, 8, 0⟩)] = true := by
  decide +kernel

theorem test_words_major_17 : decodesAll [
    (48, 0b00101_00110_0101_1100_000000_00000000_10_010111_00011_000, .vcmpEq ⟨3, 0, 5, 6, 5, 12, 0⟩),
    (48, 0b00101_00110_0101_1100_000001_00000000_10_010111_00011_000, .vcmpNe ⟨3, 0, 5, 6, 5, 12, 0⟩),
    (48, 0b00101_00110_0101_1100_000010_00000000_10_010111_00011_000, .vcmpLt ⟨3, 0, 5, 6, 5, 12, 0⟩),
    (48, 0b00101_00110_0101_1100_000011_00000000_10_010111_00011_000, .vcmpLe ⟨3, 0, 5, 6, 5, 12, 0⟩),
    (48, 0b00101_00110_0101_1100_000100_00000000_10_010111_00011_000, .vcmpGt ⟨3, 0, 5, 6, 5, 12, 0⟩),
    (48, 0b00101_00110_0101_1100_000101_00000000_10_010111_00011_000, .vcmpGe ⟨3, 0, 5, 6, 5, 12, 0⟩),
    (48, 0b00101_00110_0101_1100_000110_00000000_10_010111_00011_000, .vcmpUn ⟨3, 0, 5, 6, 5, 12, 0⟩)] = true := by
  decide +kernel

theorem test_words_major_18 : decodesAll [
    (48, 0b00101_00000_0101_1001_000000_00000011_10_011000_00011_000, .vcvt ⟨3, 0, 5, 0, 5, 9, 3⟩),
    (48, 0b00101_00110_0101_1101_000001_00110101_10_011000_00011_000, .vqnt ⟨3, 0, 5, 6, 5, 13, 53⟩),
    (48, 0b00101_00110_0101_1011_000010_00110000_10_011000_00011_000, .vdq ⟨3, 0, 5, 6, 5, 11, 48⟩),
    (48, 0b00101_00000_0101_1101_000011_00110101_10_011000_00011_000, .vbsc ⟨3, 0, 5, 0, 5, 13, 53⟩)] = true := by
  decide +kernel

theorem test_words_major_19 : decodesAll [
    (48, 0b00101_00000_0101_1011_000000_00000000_10_011001_00011_000, .vfrcp ⟨3, 0, 5, 0, 5, 11, 0⟩),
    (48, 0b00101_00000_0101_1011_000001_00000000_10_011001_00011_000, .vfrsq ⟨3, 0, 5, 0, 5, 11, 0⟩),
    (48, 0b00101_00000_0101_1011_000010_00000000_10_011001_00011_000, .vfexp2 ⟨3, 0, 5, 0, 5, 11, 0⟩),
    (48, 0b00101_00000_0101_1011_000011_00000000_10_011001_00011_000, .vflog2 ⟨3, 0, 5, 0, 5, 11, 0⟩),
    (48, 0b00101_00000_0101_1011_000100_00000000_10_011001_00011_000, .vfexp ⟨3, 0, 5, 0, 5, 11, 0⟩),
    (48, 0b00101_00000_0101_1011_000101_00000000_10_011001_00011_000, .vftanh ⟨3, 0, 5, 0, 5, 11, 0⟩),
    (48, 0b00101_00000_0101_1011_000110_00000000_10_011001_00011_000, .vfsig ⟨3, 0, 5, 0, 5, 11, 0⟩)] = true := by
  decide +kernel

theorem test_words_major_1A : decodesAll [
    (48, 0b00101_00110_0101_1100_000000_00000000_10_011010_00011_000, .vrsum ⟨3, 0, 5, 6, 5, 12, 0⟩ false),
    (48, 0b00101_00110_0101_1100_010000_00000000_10_011010_00011_000, .vrsum ⟨3, 0, 5, 6, 5, 12, 0⟩ true),
    (48, 0b00101_00110_0101_1100_000001_00000000_10_011010_00011_000, .vrmin ⟨3, 0, 5, 6, 5, 12, 0⟩ false),
    (48, 0b00101_00110_0101_1100_010001_00000000_10_011010_00011_000, .vrmin ⟨3, 0, 5, 6, 5, 12, 0⟩ true),
    (48, 0b00101_00110_0101_1100_000010_00000000_10_011010_00011_000, .vrmax ⟨3, 0, 5, 6, 5, 12, 0⟩ false),
    (48, 0b00101_00110_0101_1100_010010_00000000_10_011010_00011_000, .vrmax ⟨3, 0, 5, 6, 5, 12, 0⟩ true),
    (48, 0b00101_00110_0101_1000_000011_00000000_10_011010_00011_000, .vrand ⟨3, 0, 5, 6, 5, 8, 0⟩ false),
    (48, 0b00101_00110_0101_1000_010011_00000000_10_011010_00011_000, .vrand ⟨3, 0, 5, 6, 5, 8, 0⟩ true),
    (48, 0b00101_00110_0101_1000_000100_00000000_10_011010_00011_000, .vror ⟨3, 0, 5, 6, 5, 8, 0⟩ false),
    (48, 0b00101_00110_0101_1000_010100_00000000_10_011010_00011_000, .vror ⟨3, 0, 5, 6, 5, 8, 0⟩ true),
    (48, 0b00101_00110_0101_1000_000101_00000000_10_011010_00011_000, .vrxor ⟨3, 0, 5, 6, 5, 8, 0⟩ false),
    (48, 0b00101_00110_0101_1000_010101_00000000_10_011010_00011_000, .vrxor ⟨3, 0, 5, 6, 5, 8, 0⟩ true),
    (48, 0b00101_00110_0101_1100_100000_00000000_10_011010_00011_000, .vscanAdd ⟨3, 0, 5, 6, 5, 12, 0⟩),
    (48, 0b00101_00110_0101_1100_100001_00000000_10_011010_00011_000, .vscanMin ⟨3, 0, 5, 6, 5, 12, 0⟩),
    (48, 0b00101_00110_0101_1100_100010_00000000_10_011010_00011_000, .vscanMax ⟨3, 0, 5, 6, 5, 12, 0⟩)] = true := by
  decide +kernel

theorem test_words_major_1B : decodesAll [
    (48, 0b00101_00110_0101_1101_000000_00000000_10_011011_00011_000, .vperm ⟨3, 0, 5, 6, 5, 13, 0⟩),
    (48, 0b00101_00110_0101_1101_000001_00000000_10_011011_00011_001, .vslup ⟨3, 1, 5, 6, 5, 13, 0⟩),
    (48, 0b00101_00110_0101_1101_000010_00000000_10_011011_00011_001, .vsldn ⟨3, 1, 5, 6, 5, 13, 0⟩),
    (48, 0b00101_00000_0101_1101_000011_00000000_10_011011_00011_000, .vcomp ⟨3, 0, 5, 0, 5, 13, 0⟩),
    (48, 0b00101_00000_0101_1101_000100_00000000_10_011011_00011_000, .vexpd ⟨3, 0, 5, 0, 5, 13, 0⟩),
    (48, 0b00101_00000_0101_1101_000101_00000000_10_011011_00011_000, .vxchg ⟨3, 0, 5, 0, 5, 13, 0⟩)] = true := by
  decide +kernel

theorem test_words_major_1C : decodesAll [
    (48, 0b00101_00000_0101_1101_000000_00000000_10_011100_00011_000, .vmov ⟨3, 0, 5, 0, 5, 13, 0⟩),
    (48, 0b00101_00000_0101_1101_000001_00000000_10_011100_00011_000, .vbcast ⟨3, 0, 5, 0, 5, 13, 0⟩),
    (48, 0b00000_00000_0101_1000_000001_10100101_10_011100_00011_010, .vbcastImm ⟨3, 2, 0, 0, 5, 8, 165⟩),
    (48, 0b00000_00000_0101_1000_000010_00000000_10_011100_00011_000, .vidx ⟨3, 0, 0, 0, 5, 8, 0⟩),
    (48, 0b00101_00110_0101_1101_000011_00000000_10_011100_00011_000, .vmerge ⟨3, 0, 5, 6, 5, 13, 0⟩),
    (48, 0b00101_00110_0000_1101_000100_00000000_10_011100_00011_000, .vgetx ⟨3, 0, 5, 6, 0, 13, 0⟩),
    (48, 0b00101_00110_0000_1101_000101_00000000_10_011100_00011_000, .vsetx ⟨3, 0, 5, 6, 0, 13, 0⟩),
    (48, 0b00101_00000_0101_1000_000110_00000000_10_011100_00011_000, .vm2v ⟨3, 0, 5, 0, 5, 8, 0⟩)] = true := by
  decide +kernel

theorem test_words_major_1D : decodesAll [
    (32, 0b00101_00110_000000_01_011101_00011_000, .mand ⟨3, 0, 5, 6⟩),
    (32, 0b00101_00110_000001_01_011101_00011_000, .mor ⟨3, 0, 5, 6⟩),
    (32, 0b00101_00110_000010_01_011101_00011_000, .mxor ⟨3, 0, 5, 6⟩),
    (32, 0b00101_00110_000011_01_011101_00011_000, .mandn ⟨3, 0, 5, 6⟩),
    (32, 0b00101_00000_000100_01_011101_00011_000, .mnot ⟨3, 0, 5, 0⟩),
    (32, 0b00000_00000_000101_01_011101_00011_000, .mset ⟨3, 0, 0, 0⟩),
    (32, 0b00000_00000_000110_01_011101_00011_000, .mclr ⟨3, 0, 0, 0⟩),
    (32, 0b00101_00000_000111_01_011101_00011_000, .mmov ⟨3, 0, 5, 0⟩),
    (32, 0b00101_00000_001000_01_011101_00011_000, .mpop ⟨3, 0, 5, 0⟩),
    (32, 0b00101_00000_001001_01_011101_00011_000, .mfirst ⟨3, 0, 5, 0⟩)] = true := by
  decide +kernel

theorem test_words_major_1E : decodesAll [
    (48, 0b00101_00110_0000_0000_000000_00000000_10_011110_00011_000, .qset ⟨3, 0, 5, 6, 0, 0, 0⟩),
    (48, 0b00101_00000_0000_0000_000001_10100101_10_011110_00011_000, .qsetImm ⟨3, 0, 5, 0, 0, 0, 165⟩),
    (48, 0b00101_00000_0000_0000_000010_00000000_10_011110_00011_000, .qadv ⟨3, 0, 5, 0, 0, 0, 0⟩),
    (48, 0b00101_00000_0000_0000_000011_00000000_10_011110_00011_000, .qinfo ⟨3, 0, 5, 0, 0, 0, 0⟩),
    (48, 0b00101_00000_0000_0000_000100_00000000_10_011110_00011_000, .qinfoB ⟨3, 0, 5, 0, 0, 0, 0⟩),
    (48, 0b00101_00000_0000_0000_000101_00000000_10_011110_00011_000, .qinfoS ⟨3, 0, 5, 0, 0, 0, 0⟩)] = true := by
  decide +kernel

theorem test_words_major_1F : decodesAll [
    (48, 0b00101_00000_0101_1101_000000_00000000_10_011111_00011_000, .vld ⟨3, 0, 5, 0, 5, 13, 0⟩),
    (48, 0b00101_00000_0101_1101_000001_00000101_10_011111_00011_000, .vlds ⟨3, 0, 5, 0, 5, 13, 5⟩),
    (48, 0b00101_00000_0000_0000_000010_10100101_10_011111_00000_000, .vpf ⟨0, 0, 5, 0, 0, 0, 165⟩)] = true := by
  decide +kernel

theorem test_words_major_20 : decodesAll [
    (48, 0b00101_00110_0101_1101_000000_00000000_10_100000_00000_000, .vst ⟨0, 0, 5, 6, 5, 13, 0⟩),
    (48, 0b00101_00110_0101_1101_000001_00000101_10_100000_00000_000, .vsts ⟨0, 0, 5, 6, 5, 13, 5⟩)] = true := by
  decide +kernel

theorem test_words_major_21 : decodesAll [
    (48, 0b00101_00110_0101_1101_000000_00000000_10_100001_00011_000, .vldx ⟨3, 0, 5, 6, 5, 13, 0⟩),
    (48, 0b00101_00110_0101_1101_000001_00000000_10_100001_00011_000, .vstx ⟨3, 0, 5, 6, 5, 13, 0⟩)] = true := by
  decide +kernel

theorem test_words_major_22 : decodesAll [
    (48, 0b00101_00110_0101_1000_000000_01000000_10_100010_00011_010, .vamoAdd ⟨3, 2, 5, 6, 5, 8, 64⟩),
    (48, 0b00101_00110_0101_1100_000001_01000000_10_100010_00011_010, .vamoFadd ⟨3, 2, 5, 6, 5, 12, 64⟩),
    (48, 0b00101_00110_0101_1000_000010_01000000_10_100010_00011_010, .vamoAnd ⟨3, 2, 5, 6, 5, 8, 64⟩),
    (48, 0b00101_00110_0101_1000_000011_01000000_10_100010_00011_010, .vamoOr ⟨3, 2, 5, 6, 5, 8, 64⟩),
    (48, 0b00101_00110_0101_1000_000100_01000000_10_100010_00011_010, .vamoXor ⟨3, 2, 5, 6, 5, 8, 64⟩),
    (48, 0b00101_00110_0101_1000_000101_01000000_10_100010_00011_010, .vamoMin ⟨3, 2, 5, 6, 5, 8, 64⟩),
    (48, 0b00101_00110_0101_1000_000110_01000000_10_100010_00011_010, .vamoMax ⟨3, 2, 5, 6, 5, 8, 64⟩),
    (48, 0b00101_00110_0101_1000_000111_01000000_10_100010_00011_010, .vamoSwap ⟨3, 2, 5, 6, 5, 8, 64⟩),
    (48, 0b00101_00110_0101_1000_001000_01011011_10_100010_00011_010, .vamoCas ⟨3, 2, 5, 6, 5, 8, 91⟩)] = true := by
  decide +kernel

theorem test_words_major_23 : decodesAll [
    (48, 0b00101_00110_0101_1000_000000_10000000_10_100011_00011_010, .vredAddIndexed ⟨3, 2, 5, 6, 5, 8, 128⟩),
    (48, 0b00101_00110_0101_1100_000001_10000000_10_100011_00011_010, .vredFaddIndexed ⟨3, 2, 5, 6, 5, 12, 128⟩),
    (48, 0b00101_00110_0101_1000_000010_10000000_10_100011_00011_010, .vredAndIndexed ⟨3, 2, 5, 6, 5, 8, 128⟩),
    (48, 0b00101_00110_0101_1000_000011_10000000_10_100011_00011_010, .vredOrIndexed ⟨3, 2, 5, 6, 5, 8, 128⟩),
    (48, 0b00101_00110_0101_1000_000100_10000000_10_100011_00011_010, .vredXorIndexed ⟨3, 2, 5, 6, 5, 8, 128⟩),
    (48, 0b00101_00110_0101_1000_000101_10000000_10_100011_00011_010, .vredMinIndexed ⟨3, 2, 5, 6, 5, 8, 128⟩),
    (48, 0b00101_00110_0101_1000_000110_10000000_10_100011_00011_010, .vredMaxIndexed ⟨3, 2, 5, 6, 5, 8, 128⟩),
    (48, 0b00101_00000_0101_1000_100000_10000000_10_100011_00011_010, .vredAddStream ⟨3, 2, 5, 0, 5, 8, 128⟩),
    (48, 0b00101_00000_0101_1100_100001_10000000_10_100011_00011_010, .vredFaddStream ⟨3, 2, 5, 0, 5, 12, 128⟩),
    (48, 0b00101_00000_0101_1000_100010_10000000_10_100011_00011_010, .vredAndStream ⟨3, 2, 5, 0, 5, 8, 128⟩),
    (48, 0b00101_00000_0101_1000_100011_10000000_10_100011_00011_010, .vredOrStream ⟨3, 2, 5, 0, 5, 8, 128⟩),
    (48, 0b00101_00000_0101_1000_100100_10000000_10_100011_00011_010, .vredXorStream ⟨3, 2, 5, 0, 5, 8, 128⟩),
    (48, 0b00101_00000_0101_1000_100101_10000000_10_100011_00011_010, .vredMinStream ⟨3, 2, 5, 0, 5, 8, 128⟩),
    (48, 0b00101_00000_0101_1000_100110_10000000_10_100011_00011_010, .vredMaxStream ⟨3, 2, 5, 0, 5, 8, 128⟩)] = true := by
  decide +kernel

theorem test_words_major_24 : decodesAll [
    (48, 0b00101_00000_0101_1101_000000_00000000_10_100100_00011_000, .vldl ⟨3, 0, 5, 0, 5, 13, 0⟩),
    (48, 0b00101_00110_0101_1101_000001_00000000_10_100100_00011_000, .vldlIndexed ⟨3, 0, 5, 6, 5, 13, 0⟩),
    (48, 0b00101_00000_0101_1101_000010_00000000_10_100100_00011_000, .vstl ⟨3, 0, 5, 0, 5, 13, 0⟩),
    (48, 0b00101_00110_0101_1101_000011_00000000_10_100100_00011_000, .vstlIndexed ⟨3, 0, 5, 6, 5, 13, 0⟩)] = true := by
  decide +kernel

theorem test_words_major_25 : decodesAll [
    (48, 0b00101_00000_0000_0000_000000_00000000_10_100101_00011_000, .mwld ⟨3, 0, 5, 0, 0, 0, 0⟩)] = true := by
  decide +kernel

theorem test_words_major_26 : decodesAll [
    (48, 0b00000_00000_0101_0000_000000_00000000_10_100110_00011_000, .mmla ⟨3, 0, 0, 0, 5, 0, 0⟩)] = true := by
  decide +kernel

theorem test_words_major_27 : decodesAll [
    (48, 0b00000_00000_0101_0000_000000_00000000_10_100111_00011_000, .acz ⟨3, 0, 0, 0, 5, 0, 0⟩),
    (48, 0b00101_00000_0101_1011_000001_00000000_10_100111_00011_000, .aci ⟨3, 0, 5, 0, 5, 11, 0⟩),
    (48, 0b00101_00000_0101_1011_000010_00000000_10_100111_00011_000, .aciAdd ⟨3, 0, 5, 0, 5, 11, 0⟩),
    (48, 0b00101_00000_0000_0000_000011_00000000_10_100111_00011_000, .aciSat ⟨3, 0, 5, 0, 0, 0, 0⟩),
    (48, 0b00101_00000_0101_1001_001000_10000000_10_100111_00011_000, .acx ⟨3, 0, 5, 0, 5, 9, 128⟩)] = true := by
  decide +kernel

theorem test_words_major_28 : decodesAll [
    (48, 0b00101_00110_0000_0000_000000_00000000_10_101000_00011_000, .unfCfg ⟨3, 0, 5, 6, 0, 0, 0⟩)] = true := by
  decide +kernel

theorem test_words_major_29 : decodesAll [
    (32, 0b00000_00000_000000_01_101001_00000_000, .spwDrain ⟨0, 0, 0, 0⟩),
    (32, 0b00101_00000_000001_01_101001_00011_000, .spwMode ⟨3, 0, 5, 0⟩),
    (32, 0b00000_00000_000010_01_101001_00011_000, .spwSt ⟨3, 0, 0, 0⟩)] = true := by
  decide +kernel

theorem test_words_major_2A : decodesAll [
    (48, 0b00101_00000_0000_0000_000000_10100101_10_101010_00011_000, .fmtLd ⟨3, 0, 5, 0, 0, 0, 165⟩),
    (48, 0b00101_00110_0000_0000_000001_10100101_10_101010_00000_000, .fmtSt ⟨0, 0, 5, 6, 0, 0, 165⟩)] = true := by
  decide +kernel

theorem test_words_major_2B : decodesAll [
    (48, 0b00101_00110_0000_0000_000000_00000000_10_101011_00011_000, .dld ⟨3, 0, 5, 6, 0, 0, 0⟩),
    (48, 0b00101_00110_0000_0000_000001_00000000_10_101011_00000_000, .dst ⟨0, 0, 5, 6, 0, 0, 0⟩)] = true := by
  decide +kernel

theorem test_words_major_2C : decodesAll [
    (64, 0b00101_00000_0000_0000_0000_00000_00000_0000000000000000_11_101100_00011_000, .tcopy ⟨3, 0, 5, 0, 0, 0, 0, 0, 0⟩),
    (64, 0b00101_00000_0000_0000_0001_00000_00000_0000000000000000_11_101100_00011_000, .tcopySh ⟨3, 0, 5, 0, 0, 0, 0, 0, 0⟩),
    (64, 0b00101_00110_0000_0000_0010_00111_01001_0000000010100101_11_101100_00011_000, .tcopyCb ⟨3, 0, 5, 6, 0, 0, 7, 9, 165⟩)] = true := by
  decide +kernel

theorem test_words_major_2D : decodesAll [
    (32, 0b00101_00000_000000_01_101101_00011_000, .pub ⟨3, 0, 5, 0⟩)] = true := by
  decide +kernel

theorem test_words_major_2E : decodesAll [
    (64, 0b00101_00110_0000_0000_0000_00000_00000_0000000000000010_11_101110_00011_000, .tcReg ⟨3, 0, 5, 6, 0, 0, 0, 0, 2⟩),
    (64, 0b00101_00000_0000_0000_0001_00000_00000_0000000000000000_11_101110_00011_000, .tcDrop ⟨3, 0, 5, 0, 0, 0, 0, 0, 0⟩),
    (64, 0b00101_00000_0000_0000_0010_00000_00000_0000000000000111_11_101110_00000_000, .tcPf ⟨0, 0, 5, 0, 0, 0, 0, 0, 7⟩),
    (64, 0b00101_00110_0000_0000_0011_00000_00000_0000101010111100_11_101110_00000_000, .tcHalo ⟨0, 0, 5, 6, 0, 0, 0, 0, 2748⟩),
    (64, 0b00101_00000_0000_0000_0100_00000_00000_0000000000000000_11_101110_00011_000, .tcInv ⟨3, 0, 5, 0, 0, 0, 0, 0, 0⟩),
    (64, 0b00101_00000_0000_0000_0101_00000_00000_0000000000000000_11_101110_00011_000, .tcCln ⟨3, 0, 5, 0, 0, 0, 0, 0, 0⟩)] = true := by
  decide +kernel

theorem test_words_major_2F : decodesAll [
    (64, 0b00101_00000_0000_0000_0000_00000_00000_0000000000101011_11_101111_00011_000, .mgrpDef ⟨3, 0, 5, 0, 0, 0, 0, 0, 43⟩),
    (64, 0b00000_00000_0000_0000_0001_00000_00000_0000000000101011_11_101111_00011_000, .mgrpDrop ⟨3, 0, 0, 0, 0, 0, 0, 0, 43⟩),
    (64, 0b00101_00110_0000_1011_0010_00111_01001_0000000000101011_11_101111_00011_000, .mldRed ⟨3, 0, 5, 6, 0, 11, 7, 9, 43⟩),
    (64, 0b00101_00110_0101_1101_0011_00000_00000_0000000000101011_11_101111_00011_000, .mst ⟨3, 0, 5, 6, 5, 13, 0, 0, 43⟩),
    (64, 0b00000_00000_0000_0000_0100_00000_00000_0000000000101011_11_101111_00011_000, .mgrpJoin ⟨3, 0, 0, 0, 0, 0, 0, 0, 43⟩)] = true := by
  decide +kernel

theorem test_words_major_30 : decodesAll [
    (64, 0b00101_00110_0000_0000_0000_00000_00000_0000000001010010_11_110000_00011_000, .bwl ⟨3, 0, 5, 6, 0, 0, 0, 0, 82⟩),
    (64, 0b00000_00000_0000_0000_0001_00000_00000_0000000000001011_11_110000_00011_000, .bwr ⟨3, 0, 0, 0, 0, 0, 0, 0, 11⟩),
    (64, 0b00000_00000_0000_0000_0010_00000_00000_0000000000001011_11_110000_00011_000, .bwq ⟨3, 0, 0, 0, 0, 0, 0, 0, 11⟩),
    (64, 0b00000_00000_0000_0000_0011_00000_00000_0000000000001001_11_110000_00011_000, .bwqD ⟨3, 0, 0, 0, 0, 0, 0, 0, 9⟩)] = true := by
  decide +kernel

theorem test_words_major_31 : decodesAll [
    (64, 0b00101_00110_0000_0000_0000_00000_00000_0000000000000000_11_110001_00011_000, .rtOpen ⟨3, 0, 5, 6, 0, 0, 0, 0, 0⟩),
    (64, 0b00101_00000_0000_0000_0001_00000_00000_0000000010100101_11_110001_00011_000, .rtOpenRx ⟨3, 0, 5, 0, 0, 0, 0, 0, 165⟩),
    (64, 0b00101_00110_0000_0000_0010_00000_00000_0000000000000000_11_110001_00011_000, .rtAdd ⟨3, 0, 5, 6, 0, 0, 0, 0, 0⟩),
    (64, 0b00000_00000_0000_0000_0011_00000_00000_0000000000000000_11_110001_00011_000, .rtGo ⟨3, 0, 0, 0, 0, 0, 0, 0, 0⟩),
    (64, 0b00000_00110_0000_0000_0100_00000_01001_0000000110100101_11_110001_00011_000, .rtRecv ⟨3, 0, 0, 6, 0, 0, 0, 9, 421⟩),
    (64, 0b00101_00000_0000_0000_0101_00000_00000_0000000000000000_11_110001_00011_000, .rtStat ⟨3, 0, 5, 0, 0, 0, 0, 0, 0⟩),
    (64, 0b00000_00000_0000_0000_0110_00000_00000_0000000000000000_11_110001_00011_000, .rtClose ⟨3, 0, 0, 0, 0, 0, 0, 0, 0⟩),
    (64, 0b00000_00000_0000_0000_0111_00000_00000_0000000010100101_11_110001_00011_000, .rtCloseRx ⟨3, 0, 0, 0, 0, 0, 0, 0, 165⟩)] = true := by
  decide +kernel

theorem test_words_major_32 : decodesAll [
    (48, 0b00101_00000_0000_0000_000000_00011011_10_110010_00011_000, .flmRd ⟨3, 0, 5, 0, 0, 0, 27⟩),
    (48, 0b00101_00000_0000_0000_000001_00000000_10_110010_00011_000, .flmSeal ⟨3, 0, 5, 0, 0, 0, 0⟩),
    (48, 0b00101_00110_0000_0000_000010_00000000_10_110010_00011_000, .dgst ⟨3, 0, 5, 6, 0, 0, 0⟩)] = true := by
  decide +kernel

theorem test_words_major_33 : decodesAll [
    (64, 0b00101_00110_0000_0000_0000_00000_00000_0000000000000000_11_110011_00011_000, .prtNew ⟨3, 0, 5, 6, 0, 0, 0, 0, 0⟩),
    (64, 0b00101_00110_0000_0000_0001_00000_00000_0000000000000000_11_110011_00011_000, .prtAsg ⟨3, 0, 5, 6, 0, 0, 0, 0, 0⟩),
    (64, 0b00101_00000_0000_0000_0010_00000_00000_0000000000000000_11_110011_00011_000, .prtStop ⟨3, 0, 5, 0, 0, 0, 0, 0, 0⟩),
    (64, 0b00101_00110_0000_0000_0011_00000_00000_0000000000000000_11_110011_00011_000, .prtKill ⟨3, 0, 5, 6, 0, 0, 0, 0, 0⟩),
    (64, 0b00101_00000_0000_0000_0100_00000_00000_0000000000000000_11_110011_00011_000, .prtSt ⟨3, 0, 5, 0, 0, 0, 0, 0, 0⟩)] = true := by
  decide +kernel

theorem test_words_major_34 : decodesAll [
    (48, 0b00101_00110_0000_0000_000000_00000000_10_110100_00011_000, .scbGo ⟨3, 0, 5, 6, 0, 0, 0⟩),
    (48, 0b00101_00000_0000_0000_000001_00000000_10_110100_00011_000, .scbSt ⟨3, 0, 5, 0, 0, 0, 0⟩),
    (48, 0b00101_00110_0000_0000_000010_00000000_10_110100_00011_000, .keyLd ⟨3, 0, 5, 6, 0, 0, 0⟩),
    (48, 0b00101_00000_0000_0000_000011_00000000_10_110100_00011_000, .keyZ ⟨3, 0, 5, 0, 0, 0, 0⟩)] = true := by
  decide +kernel

theorem test_words_major_35 : decodesAll [
    (64, 0b00101_00000_0000_0000_0000_00000_00000_0000000000000000_11_110101_00011_000, .ckpGo ⟨3, 0, 5, 0, 0, 0, 0, 0, 0⟩),
    (64, 0b00101_00000_0000_0000_0001_00000_00000_0000000000000000_11_110101_00011_000, .ckpSt ⟨3, 0, 5, 0, 0, 0, 0, 0, 0⟩),
    (64, 0b00101_00000_0000_0000_0010_00000_00000_0000000000000000_11_110101_00011_000, .ckpRb ⟨3, 0, 5, 0, 0, 0, 0, 0, 0⟩)] = true := by
  decide +kernel

theorem test_words_major_3F : decodesAll [
    (16, 0b00_111111_00000000, .nop),
    (48, 0b1010_0000_0000_0000_0000_0000_0000_0101_10_111111_00010001, .hint { tl := 2, ha := 0x11, tail := 0xA0000005 })] = true := by
  decide +kernel

/-! ## Well-formedness: an ill-formed term of every check, refused

Each term differs in one field from a well-formed one. -/

theorem test_wf_none : (Instr.clz ⟨3, 0, 5, 6⟩).wf = false ∧ (Instr.clz ⟨3, 0, 5, 0⟩).wf = true := by decide
theorem test_wf_sub : (Instr.addReg ⟨3, 1, 5, 6⟩).wf = false ∧ (Instr.li ⟨3, 1, 0⟩).wf = false := by decide
theorem test_wf_arg : (Instr.eret ⟨1⟩).wf = false ∧ (Instr.fenceRel ⟨5⟩).wf = false ∧ (Instr.fenceRel ⟨4⟩).wf = true ∧
    (Instr.trap ⟨31⟩).wf = true := by decide
theorem test_wf_mask_register : (Instr.mand ⟨8, 0, 5, 6⟩).wf = false ∧ (Instr.mand ⟨7, 0, 5, 6⟩).wf = true := by decide
theorem test_wf_sixteen : (Instr.qadv ⟨16, 0, 5, 0, 0, 0, 0⟩).wf = false ∧ (Instr.qadv ⟨15, 0, 5, 0, 0, 0, 0⟩).wf = true := by decide
theorem test_wf_status_register : (Instr.amoAdd ⟨3, 0, 5, 6, 0, 8, 7, 0, 0⟩).wf = false ∧
    (Instr.amoAdd ⟨3, 1, 5, 6, 0, 8, 7, 0, 0⟩).wf = true := by decide
theorem test_wf_count : (Instr.recv ⟨3, 0, 0, 6, 0, 0, 0, 9, 1⟩).wf = false ∧ (Instr.recv ⟨3, 0, 0, 6, 0, 0, 1, 9, 1⟩).wf = true := by
  decide
theorem test_wf_operand_sub2 : (Instr.vadd ⟨3, 2, 5, 6, 0, 3, 1⟩).wf = false ∧ (Instr.vadd ⟨3, 2, 5, 0, 0, 3, 1⟩).wf = true ∧
    (Instr.vslup ⟨3, 2, 5, 6, 0, 3, 1⟩).wf = false := by decide
theorem test_wf_acx_format : (Instr.acx ⟨3, 0, 5, 16, 0, 13, 0⟩).wf = false ∧ (Instr.acx ⟨3, 0, 5, 1, 0, 9, 0⟩).wf = false ∧
    (Instr.acx ⟨3, 0, 5, 15, 0, 13, 0⟩).wf = true := by decide
theorem test_wf_imm_zero : (Instr.mul ⟨3, 0, 5, 6, 0, 0, 0, 0, 1⟩).wf = false := by decide
theorem test_wf_shift_amount : (Instr.shlImm ⟨3, 0, 5, 0, 0, 0, 0, 0, 64⟩).wf = false ∧
    (Instr.shlImm ⟨3, 0, 5, 0, 0, 0, 0, 0, 63⟩).wf = true := by decide
theorem test_wf_lih : (Instr.lih ⟨3, 0, 0x100000⟩).wf = false ∧ (Instr.lih ⟨3, 0, 0xFFFFF⟩).wf = true := by decide
theorem test_wf_scalar_convert : (Instr.fcvt ⟨3, 0, 5, 0, 0, 4, 0, 0, 4⟩).wf = false ∧ (Instr.fcvt ⟨3, 0, 5, 0, 0, 4, 0, 0, 9⟩).wf = false ∧
    (Instr.fcvt ⟨3, 0, 5, 0, 0, 4, 0, 0, 12⟩).wf = true := by decide
theorem test_wf_vector_convert : (Instr.vcvt ⟨3, 0, 5, 0, 0, 9, 9⟩).wf = false ∧ (Instr.vcvt ⟨3, 0, 5, 0, 0, 9, 13⟩).wf = false ∧
    (Instr.vcvt ⟨3, 0, 5, 0, 0, 9, 12⟩).wf = true := by decide
theorem test_wf_quantise : (Instr.vqnt ⟨3, 0, 5, 6, 0, 13, 13⟩).wf = false ∧ (Instr.vqnt ⟨3, 0, 5, 6, 0, 13, 0⟩).wf = false ∧
    (Instr.vdq ⟨3, 0, 5, 6, 0, 9, 1⟩).wf = false ∧ (Instr.vqnt ⟨3, 0, 5, 6, 0, 13, 12⟩).wf = true := by decide
theorem test_wf_atomic_order : (Instr.amoAdd ⟨3, 0, 5, 6, 0, 8, 0, 0, 32⟩).wf = false ∧ (Instr.amoAdd ⟨3, 0, 5, 6, 0, 8, 0, 0, 1⟩).wf = false ∧
    (Instr.amoAdd ⟨3, 0, 5, 6, 0, 8, 0, 0, 13⟩).wf = false ∧ (Instr.amoAdd ⟨3, 0, 5, 6, 0, 8, 0, 0, 12⟩).wf = true := by decide
theorem test_wf_vector_order : (Instr.vamoAdd ⟨3, 0, 5, 6, 0, 8, 1⟩).wf = false ∧ (Instr.vamoCas ⟨3, 0, 5, 6, 0, 8, 0x20⟩).wf = false ∧
    (Instr.vredAddStream ⟨0, 0, 5, 6, 0, 8, 0x40⟩).wf = false ∧ (Instr.vamoCas ⟨3, 0, 5, 6, 0, 8, 0x1F⟩).wf = true := by decide
theorem test_wf_control_register : (Instr.csrr ⟨3, 0, 0, 0, 0, 0, 0x0D⟩).wf = false ∧ (Instr.csrw ⟨0, 0, 5, 0, 0, 0, 0x09⟩).wf = false ∧
    (Instr.csrr ⟨3, 0, 0, 0, 0, 0, 0x09⟩).wf = true := by decide
theorem test_wf_object_numbers : (Instr.nbWait ⟨3, 0, 0, 0, 0, 0, 7, 9, 48⟩).wf = false ∧ (Instr.cbDef ⟨3, 0, 5, 0, 0, 0, 0, 0, 256⟩).wf = false ∧
    (Instr.chainDef ⟨3, 0, 5, 0, 0, 0, 0, 0, 64⟩).wf = false ∧ (Instr.gstart ⟨3, 0, 0, 0, 0, 0, 0, 0, 16⟩).wf = false := by decide
theorem test_wf_vcfg : (Instr.vcfg ⟨0, 0, 0, 0, 0, 1, 0, 0, 20⟩).wf = false ∧ (Instr.vcfg ⟨0, 0, 0, 0, 0, 15, 0, 0, 0⟩).wf = false ∧
    (Instr.vcfg ⟨0, 0, 0, 0, 0, 14, 0, 0, 19⟩).wf = true := by decide
theorem test_wf_fields_of_segment : (Instr.vlds ⟨3, 0, 5, 0, 0, 3, 1⟩).wf = false ∧ (Instr.vlds ⟨3, 0, 5, 0, 0, 3, 9⟩).wf = false ∧
    (Instr.vlds ⟨3, 0, 5, 0, 0, 3, 8⟩).wf = true := by decide
theorem test_wf_acx_function : (Instr.acx ⟨3, 0, 5, 0, 0, 9, 0x20⟩).wf = false ∧ (Instr.acx ⟨3, 0, 5, 0, 0, 9, 1⟩).wf = false ∧
    (Instr.acx ⟨3, 0, 5, 0, 0, 1, 0x81⟩).wf = false ∧ (Instr.acx ⟨3, 0, 5, 0, 0, 9, 0x81⟩).wf = true := by decide
theorem test_wf_small_ranges : (Instr.tcReg ⟨3, 0, 5, 6, 0, 0, 0, 0, 3⟩).wf = false ∧ (Instr.tcPf ⟨0, 0, 5, 0, 0, 0, 0, 0, 9⟩).wf = false ∧
    (Instr.bwqD ⟨3, 0, 0, 0, 0, 0, 0, 0, 10⟩).wf = false ∧ (Instr.tcHalo ⟨0, 0, 5, 6, 0, 0, 0, 0, 4096⟩).wf = false ∧
    (Instr.flmRd ⟨3, 0, 5, 0, 0, 0, 32⟩).wf = false := by decide
theorem test_wf_lease : (Instr.bwl ⟨3, 0, 5, 6, 0, 0, 0, 0, 0x55⟩).wf = false ∧ (Instr.bwl ⟨3, 0, 5, 6, 0, 0, 0, 0, 0xA2⟩).wf = false ∧
    (Instr.bwl ⟨3, 0, 5, 6, 0, 0, 0, 0, 0x12A⟩).wf = false ∧ (Instr.bwl ⟨3, 0, 5, 6, 0, 0, 0, 0, 0x95⟩).wf = true := by decide
theorem test_wf_rt_recv : (Instr.rtRecv ⟨3, 0, 0, 6, 0, 0, 0, 9, 255⟩).wf = false ∧ (Instr.rtRecv ⟨3, 0, 0, 6, 0, 0, 0, 9, 256⟩).wf = true := by
  decide
theorem test_wf_mask : (Instr.vadd ⟨3, 0, 5, 6, 1, 3, 0⟩).wf = false ∧ (Instr.vgetx ⟨3, 0, 5, 6, 4, 3, 0⟩).wf = false ∧
    (Instr.vadd ⟨3, 0, 5, 6, 4, 3, 0⟩).wf = true := by decide
theorem test_wf_types : (Instr.ld ⟨3, 0, 5, 0, 0, 4, 0, 0, 0⟩).wf = false ∧ (Instr.cmp ⟨3, 0, 5, 6, 0, 3, 0⟩).wf = false ∧
    (Instr.vfadd ⟨3, 0, 5, 6, 0, 8, 0⟩).wf = false ∧ (Instr.ld ⟨3, 0, 5, 0, 0, 8, 0, 0, 0⟩).wf = true := by decide
theorem test_wf_extra : (Instr.mtInit ⟨0, 0, 5, 6, 0, 0, 0, 0, 0⟩).wf = false ∧ (Instr.vbcastImm ⟨3, 1, 0, 0, 0, 3, 7⟩).wf = false ∧
    (Instr.vmerge ⟨3, 0, 5, 6, 0, 3, 0⟩).wf = false ∧ (Instr.vcmpEq ⟨3, 2, 5, 0, 0, 9, 7⟩).wf = false ∧
    (Instr.vbcast ⟨3, 2, 5, 0, 0, 3, 0⟩).wf = false := by decide
theorem test_wf_hint : (Instr.hint ⟨0, 0, 0⟩).wf = false ∧ (Instr.hint ⟨1, 0, 0x10000⟩).wf = false ∧ (Instr.hint ⟨1, 0, 0xFFFF⟩).wf = true := by
  decide

/-- The decoder refuses what is not well formed, and names why (R91, in the order of its checks). -/
theorem test_decode_errors :
    (match decodeHead 0b00_110110_00000_000 0 with | .error .reservedMajor => true | _ => false) = true ∧
    (match decodeHead 0b10_000001_00011_000 0 with | .error .tailLength => true | _ => false) = true ∧
    (match decodeHead 0b01_000001_00011_000 0b00101_00110_001110 with | .error .noSuchIdentity => true | _ => false) = true ∧
    (match decodeHead 0b01_000001_00011_001 0b00101_00110_000000 with | .error .badField => true | _ => false) = true := by
  decide +kernel

/-- Two heads of one line (R73, R74): `eret`, whose tail is empty, then `add s3, s5, s6` whose 16-bit tail ends at byte 62. -/
theorem test_two_heads :
    let line := leBytes 2 0b00_001101_00000_001 ++ leBytes 2 0b01_000001_00011_000 ++ List.replicate 56 (0 : Byte) ++
      leBytes 2 0b00101_00110_000000 ++ [2, 0]
    lineValid line = true ∧ (match decodeLine line 0, decodeLine line 1 with
      | .ok i, .ok j => decide (i = .eret ⟨0⟩ ∧ j = .addReg ⟨3, 0, 5, 6⟩)
      | _, _ => false) = true := by
  decide +kernel

/-! ## Witnesses: memory accesses of scalar instructions -/

/-- Partition 0 LIVE, with s1 at a byte of its core scratchpad share, s2 a value, and poison and watchpoints absent. -/
def win (o v : Nat) : State := regs (base.setPart 0 fun p => { p with st := .live }) [(1, 0xFE01 * 2 ^ 40 + o), (2, v)]

/-- `st.n32` and `ld.s32` with A = s1 and B = s2. -/
def st32 : H3 := { h3 with a := 1, b := 2, ty := 7 }
def ld32 : H3 := { h3 with d := 4, a := 1, ty := 3 }

/-- A fill of the running context's copy is on its way. -/
def filling : State :=
  { base with msgs := [{ who := { base.who with id := engineId, slot := 0 }, die := 0, arrive := 1001, obj := .buf 0 7, req := .cbFill 0 true }] }

theorem witness_Ordered : Ordered (win 8 0) true false 3 (0xFE01 * 2 ^ 40 + 8) 4 (made (win 8 0) true false 3 (0xFE01 * 2 ^ 40 + 8) 4) ∧
    Ordered (win 8 0) false true 3 (0xFE01 * 2 ^ 40 + 8) 4 (made (win 8 0) false true 3 (0xFE01 * 2 ^ 40 + 8) 4) ∧
    Ordered (win 8 0) false false 0 (0xFE01 * 2 ^ 40 + 8) 4 (win 8 0) ∧ fillsOut filling = true :=
  ⟨ordered_made (by decide +kernel), ordered_made (by decide +kernel), ordered_made (acq := false) (rel := false) (by decide +kernel),
    by decide +kernel⟩
theorem witness_ScalarLoadsAndStores : (scalarAddr (win 8 0) ld32).toNat % (tyWidth ld32.ty.toNat / 8) = 0 ∧
    isOk (loadMem (made (win 8 0) true false 3 (0xFE01 * 2 ^ 40 + 8) 4) (win 8 0).agent (scalarAddr (win 8 0) ld32).toNat 4) = true ∧
    isOk (storeMem (made (win 8 0) false true 3 (0xFE01 * 2 ^ 40 + 8) 4) (win 8 0).agent (scalarAddr (win 8 0) st32).toNat (leBytes 4 7)) = true := by decide +kernel

/-- The last aligned word of the share, and the first byte. -/
theorem witness_WindowAccess (o : Nat) (ho : o = 0 ∨ o = 0xBFFFC) :
    let s := win o 5
    let a := s.reg st32.a.toNat + BitVec.ofInt 64 st32.imm.toInt
    a.toNat = 0xFE01 * 2 ^ 40 + o ∧ o + 4 ≤ 0x300000 ∧ o % 4 = 0 ∧ o / 0xC0000 = (o + 4 - 1) / 0xC0000 ∧ st32.ty ∈ [1#4, 2, 3, 5, 6, 7, 8] ∧
    ownsPos s s.c.part s.c.core (o / 0xC0000) = true ∧ s.myPart.st = .live ∧ sluiceFor s s.agent a.toNat = a.toNat ∧
    s.ansOf s.agent = none ∧ s.poison = [] ∧
    (s.myPart.wpt.toList.all fun w => !w.getLsbD 63 && !w.getLsbD 62) = true ∧ Memory.wf s.mem = true := by
  rcases ho with rfl | rfl <;> decide +kernel

/-- A store and the load after it: sign-extension, byte order and the neighbours of the word. -/
theorem test_store_load : (ran (.ld ld32) (ran (.st st32) (win 8 0x1_8000_0001))).reg 4 = 0xFFFFFFFF80000001 ∧
    (ran (.st st32) (win 8 0x1_8000_0001)).byteAt (keyCore 64 8) = 1 ∧ (ran (.st st32) (win 8 0x1_8000_0001)).byteAt (keyCore 64 11) = 0x80 ∧
    (ran (.st st32) (win 8 0x1_8000_0001)).byteAt (keyCore 64 12) = 0 := by decide +kernel

/-- A place that a store through the tables resolves, and a scratchpad place; neither is a cached windowed line. -/
theorem witness_StoreFrames : (match resolve (regs base [(1, 0x9000)]) base.agent .store 0x9000 4 with
      | .ok (.near p, u) => decide (p.key = 0x9000 ∧ p.pa = some 0x9000 ∧ Memory.wf u.mem = true ∧ u.byteAt 12288 = 0x4C ∧ watchHit u 0 .store 0x9000 4 = false ∧ p.pa.any (switching u) = false) | _ => false) = true ∧
    (match resolve (win 8 5) (win 8 5).agent .store (0xFE01 * 2 ^ 40 + 8) 8 with
      | .ok (.near p, u) => decide (p.key = keyCore 64 8 ∧ Memory.wf u.mem = true) | _ => false) = true ∧
    (fmtAddr (win 8 5) { h2 with a := 1, b := 3 }).toNat % 8 = 0 ∧ (scalarAddr (win 9 5) st32).toNat % (tyWidth st32.ty.toNat / 8) ≠ 0 ∧
    (win 9 5).c.firing = none ∧ (win 8 5).ansOf (win 8 5).agent = none ∧
    (made (win 8 5) false true 3 (0xFE01 * 2 ^ 40 + 8) 4).ansOf (win 8 5).agent = none := by decide +kernel
theorem witness_StoreFrames_next : (∃ t, exec (.st st32) (win 8 5) = .next t) ∧ (∃ t, exec (.st st32) (win 9 5) = .next t) ∧
    ∃ t, exec (.fmtSt { h2 with a := 1, b := 3 }) (win 8 5) = .next t :=
  ⟨⟨_, rfl⟩, ⟨_, rfl⟩, ⟨_, rfl⟩⟩

/-- Misaligned; not mapped (0x06, 0x07); and an atomic at an unmapped address with a status register, which gets cause 0x08. -/
theorem witness_ScalarAccessTraps : (win 9 5).c.tst.getLsbD 2 = false ∧ (scalarAddr (win 9 5) ld32).toNat % 4 ≠ 0 ∧
    ((win 9 5).reg 1).toNat % 4 ≠ 0 ∧ isTrap 0x06 (loadMem (regs base [(1, 2 ^ 40)]) base.agent (2 ^ 40) 4) = true ∧
    isTrap 0x07 (storeMem (regs base [(1, 2 ^ 40)]) base.agent (2 ^ 40) (leBytes 4 0)) = true ∧
    (scalarAddr (regs base [(1, 2 ^ 40)]) ld32).toNat = 2 ^ 40 ∧
    isTrap 0x08 (atomicMem (regs base [(1, 0xFE05 * 2 ^ 40)]) base.agent (0xFE05 * 2 ^ 40) 0 7 5 0) = true ∧
    (1 : BitVec 3).getLsbD 0 = true ∧
    (match loadMem (regs base [(1, 2 ^ 40)]) base.agent (2 ^ 40) 4 with | .trap _ v => decide (v.c = (regs base [(1, 2 ^ 40)]).c) | _ => false) = true := by
  decide +kernel
theorem witness_ScalarAccessTraps_poison : isTrap 0x0C (loadMem { win 8 5 with poison := [keyCore 64 8 / 64] } base.agent
    (0xFE01 * 2 ^ 40 + 8) 4) = true := by decide +kernel

theorem witness_ScalarAtomics : isOk (atomicMem (win 8 5) (win 8 5).agent (0xFE01 * 2 ^ 40 + 8) 0 7 5 0) = true ∧
    ((win 8 5).reg 1).toNat % (tyWidth 7 / 8) = 0 ∧ (1 : BitVec 3).getLsbD 0 = true ∧ (0 : BitVec 3).getLsbD 0 = false ∧
    Memory.wf (win 8 5).mem = true ∧ (7 : Nat) ∈ [3, 4, 7, 8] ∧
    (let p : Place := { key := 0x9000, kind := 1, tile := some (tileKey base 0x9000 false), pa := some 0x9000, line := none, die := 0 };
      p.pa.any (switching base) = false ∧ p.tile.isSome = true ∧ p.pa.isSome = true) := by decide +kernel
/-- `amo.add.n32` gives the old value and wraps. -/
theorem test_amo_add : (ran (.amoAdd { h3 with d := 4, a := 1, b := 2, ty := 7 }) (bytesAt (win 8 2) (keyCore 64 8) (leBytes 4 0xFFFFFFFF))).reg 4 = 0xFFFFFFFF ∧
    getCells (ran (.amoAdd { h3 with d := 4, a := 1, b := 2, ty := 7 }) (bytesAt (win 8 2) (keyCore 64 8) (leBytes 4 0xFFFFFFFF))).mem (keyCore 64 8) 4 =
      [1, 0, 0, 0] := by decide +kernel
/-- `amo.min.s32` compares as signed numbers. -/
theorem test_amo_min_signed : getCells (ran (.amoMin { h3 with d := 4, a := 1, b := 2, ty := 3 })
    (bytesAt (win 8 1) (keyCore 64 8) (leBytes 4 0xFFFFFFFF))).mem (keyCore 64 8) 4 = [0xFF, 0xFF, 0xFF, 0xFF] := by decide +kernel

theorem witness_FencesAndHints : base.c.vill = false ∧ fillsOut base = false ∧ fillsOut filling = true := by decide +kernel

/-! ## Witnesses: waits -/

/-- A deadline at the horizon, one beyond it, one in the past, and one ahead. -/
theorem witness_TicksAndPauses_deadlines :
    ((regs base [(1, 1000 + 0x100000)]).reg 1).toNat ≤ base.tick.toNat + base.myPart.whz.toNat ∧
    base.tick.toNat + base.myPart.whz.toNat < ((regs base [(1, 1001 + 0x100000)]).reg 1).toNat ∧
    ((regs base [(1, 1000)]).reg 1).toNat ≤ base.tick.toNat ∧ base.tick.toNat < ((regs base [(1, 1001)]).reg 1).toNat := by decide +kernel

/-- A wait of the running context. -/
def waiting (s : State) (op : WaitOp) (obj : Option Obj) (dev u : Nat) : State :=
  ctxOf s fun c => { c with wait := some { op := op, obj := obj, dev := dev, stamp := s.now, u := u, limit := none } }

theorem witness_TicksAndPauses_events : ((waiting base .tick none 0 1000).ctx? 0).map Ctx.alive = some true ∧
    ((waiting base .tick none 0 1000).ctx? 0).map (fun c => c.line.isSome) = some true ∧
    (1000 ≤ base.tick.toNat ∧ base.tick.toNat < 1001) ∧
    ((waiting base .pause none 0 0).ctx? 0).bind Ctx.wait ≠ none ∧ (1 : Nat) ≠ (base.part 0).evSeq ∧ (0 : Nat) = (base.part 0).evSeq ∧
    base.tick.toNat < base.now + 2 := by decide +kernel

/-- `waitt` for a tick to come holds its context; at that tick WAITT_COMPLETION lets it go on with `ws` 0. -/
theorem test_waitt : (ran (.waitt { h3 with dl := 1 }) (regs base [(1, 1001)])).c.wait.isSome = true ∧
    (ran (.waittCompletion 0) { ran (.waitt { h3 with dl := 1 }) (regs base [(1, 1001)]) with tick := 1001 }).c.wait = none := by decide +kernel

/-- A record at 0x9000, a party number at each end, and a deadline at the horizon. -/
def atRecord (b dl : Nat) : State := regs base [(1, 0x9000), (2, b), (3, dl)]

theorem witness_MeetingRequests_barriers : (11 : Nat) < 12 * base.mySeat.size ∧ 12 * base.mySeat.size ≤ 12 ∧
    ((atRecord 1 (1000 + 0x100000)).reg 3).toNat ≤ base.tick.toNat + base.myPart.whz.toNat ∧
    base.tick.toNat + base.myPart.whz.toNat < ((atRecord 1 (1001 + 0x100000)).reg 3).toNat := by decide +kernel
theorem witness_MeetingRequests_record (b dl : Nat) (h : (b = 63 ∨ b = 64) ∧ dl = 1000 + 0x100000) :
    (match recordAt (atRecord b dl) 0x9000 with
      | .ok (r, u) => decide (r.pa = 0x9000 ∧ r.dev = u.dev ∧ u.uns = true ∧ meetScope u r < 4 ∧ u.c = (atRecord b dl).c ∧
          boundOf u 2 = 2 ∧ fillsOut u = false)
      | _ => false) = true ∧ dl ≤ (atRecord b dl).tick.toNat + (atRecord b dl).myPart.whz.toNat := by
  obtain ⟨rfl | rfl, rfl⟩ := h <;> decide +kernel

/-! ## Witnesses: locks, buffers and chains as a program asks, and bindings -/

/-- A buffer of four slots of partition 0, of device scope, and its chain. -/
def bufOf4 (slots : List SlotSt) : Buf :=
  { part := 0, n := 7, pa := 0x9000, home := 0, die := 0, base := 0xA000, cap := 4, lgsz := 6, host := false, np := false, scope := 3, rsv := 0,
    fre := 0, con := 0, hpr := 0, rpos := 1, fpos := 0, cpos := 0, slots := slots, claims := [], recvs := [], expert := none, events := false }

def withBuf (s : State) (b : Buf) : State := { s with bufs := [b] }

def chain7 : Chain := { part := 0, n := 7, pa := 0x9000, home := 0, die := 0, h := 5, scope := 3, waits := [] }
def withChain (s : State) (c : Chain) : State := { s with chains := [c] }

/-- With the tick synchronised. -/
def synced (s : State) : State := { s with tgb := s.tgb &&& ~~~0x100000000#64 }

theorem witness_LockAndBufferRequests_record : (match recordAt (atRecord 2000 1500) 0x9000 with
      | .ok (r, u) => decide (u.c = (atRecord 2000 1500).c ∧ placeScope u r < 4 ∧ fillsOut u = false) | _ => false) = true ∧
    fillsOut filling = true ∧ fillsOut base = false ∧
    (1500 ≤ base.tick.toNat + base.myPart.whz.toNat ∧ base.tick.toNat + base.myPart.whz.toNat < 0x200000) := by decide +kernel
/-- A record of another device, with the tick not synchronised: a remote leaf of 64 KiB at 0x4000_0000. -/
def farRecord : State := bytesAt (regs base [(1, 2 ^ 30), (2, 2000), (3, 1500)]) 12295 (leBytes 7 ((2 ^ 24 * 3) * 2 ^ 16 + 0xF441))

theorem witness_LockAndBufferRequests_far : (match recordAt farRecord (2 ^ 30) with
      | .ok (r, u) => decide (u.c = farRecord.c ∧ r.dev = 3 ∧ u.uns = true ∧ 4 ≤ placeScope u r ∧ 4 ≤ meetScope u r) | _ => false) = true := by
  decide +kernel
theorem witness_LockAndBufferRequests_buffer :
    (let s := withBuf base (bufOf4 [.filled, .free, .free, .free])
    match bufOf s 0 7 with
      | some b => decide (b.reach s < 4 ∧ b.closed = false ∧ b.home = s.dev) | none => false) = true ∧
    (let s := withBuf base { bufOf4 [.filled, .free, .free, .free] with home := 3 }
    match bufOf s 0 7 with
      | some b => decide (4 ≤ b.reach s ∧ s.uns = true ∧ b.closed = false ∧ b.home ≠ s.dev) | none => false) = true ∧
    (let s := withBuf base { bufOf4 [.filled, .free, .free, .free] with host := true }
    match bufOf s 0 7 with
      | some b => decide (b.closed = true) | none => false) = true ∧
    bufOf base 0 7 = none := by decide +kernel
theorem witness_LockAndBufferRequests_chain :
    (let s := withChain base chain7
    match chainOf s 0 7 with
      | some b => decide (b.reach s < 4) | none => false) = true ∧
    (let s := withChain base { chain7 with home := 3 }
    match chainOf s 0 7 with
      | some b => decide (4 ≤ b.reach s ∧ s.uns = true) | none => false) = true ∧ chainOf base 0 7 = none := by decide +kernel

/-- A good buffer record: base 0xA000, CAP 4, LGSZ 6, scope 3; and a good chain record of scope 3. -/
def bufBytes : List Byte := leBytes 8 0xA000 ++ leBytes 2 4 ++ [6, 3] ++ List.replicate 52 0
def chainBytes : List Byte := leBytes 8 5 ++ [3] ++ List.replicate 55 0

def recordHolds (s : State) (bad : Bool) (f : List Byte → Bool) : Bool :=
  match recordAt s 0x9000 with
  | .ok (r, u) => decide (u.c = s.c ∧ u.bufs = s.bufs ∧ u.chains = s.chains ∧ r.dev = u.dev ∧ u.dev = s.dev ∧
      poisoned u (physKey u r.pa) 64 = false ∧ f (peek u r.pa 64) = bad)
  | _ => false

theorem witness_Bindings_record : recordHolds (bytesAt base 0x9000 bufBytes) false bufRecordBad = true ∧ recordHolds base true bufRecordBad = true ∧
    recordHolds (bytesAt base 0x9000 chainBytes) false chainRecordBad = true ∧ recordHolds base true chainRecordBad = true ∧
    fieldAt bufBytes 11 1 % 8 < 4 ∧ fieldAt chainBytes 8 1 < 4 := by decide +kernel
theorem witness_Bindings_old : bufOf base 0 7 = none ∧ chainOf base 0 7 = none ∧
    (match bufOf (withBuf base (bufOf4 [.filled, .free, .free, .free])) 0 7 with
      | some b => b.home == base.dev && !bufHeld b && bufBusy b && decide (b.scope < 4) | none => false) = true ∧
    (match bufOf (withBuf base (bufOf4 (List.replicate 4 .free))) 0 7 with
      | some b => b.home == base.dev && !bufHeld b && !bufBusy b | none => false) = true ∧
    (match chainOf (withChain base chain7) 0 7 with
      | some c => c.home == base.dev && decide (c.scope < 4) && c.waits.isEmpty | none => false) = true ∧
    (withChain base { chain7 with waits := [⟨base.who, 4, 3, 900⟩] }).chains.all (fun c => !c.waits.isEmpty) = true := by decide +kernel

/-- The request asks its home, which binds a good record. -/
theorem test_cb_def : (ran (.cbDef { h3 with d := 4, a := 1, imm := 7 }) (bytesAt (atRecord 0 0) 0x9000 bufBytes)).msgs.map (fun m => (m.obj, m.req)) =
    [(.buf 0 7, .query 0 0x9001)] := by decide +kernel
/-- A record with poison, and a binding whose old home is another device, with the tick synchronised and not. -/
theorem witness_Bindings_far : (match recordAt { base with poison := [0x9000 / 64] } 0x9000 with
      | .ok (r, u) => u.c == base.c && r.dev == u.dev && poisoned u (physKey u r.pa) 64 | _ => false) = true ∧
    (let s := withBuf (bytesAt base 0x9000 bufBytes) { bufOf4 [] with home := 3 }
    match bufOf s 0 7, recordAt s 0x9000 with
      | some b, .ok (r, u) => b.home != r.dev && !bufRecordBad (peek u r.pa 64) && u.uns && decide (4 ≤ b.reach s) | _, _ => false) = true ∧
    (synced base).uns = false := by decide +kernel

/-! ## Witnesses: homes -/

/-- A party of this device on core c. -/
def partyOf (core stamp : Nat) : Who := { dev := 0, part := 0, core := core, pos := 0, slot := 0, id := 50 + core, stamp := stamp }

/-- A request of that party that stands at its home. -/
def req (core stamp : Nat) (o : Obj) (q : Req) : Msg := { who := partyOf core stamp, die := 0, arrive := 990, obj := o, req := q }
def sends (s : State) (m : Msg) : State := { s with msgs := [m] }

/-- A meeting of parties 0, 1 and 2 at which party 0 has arrived for a deadline of 995. -/
def meet0 : Meet :=
  { freshMeet (.meet 0x9000) 0 0 7 2 3 0 with arr := 1, dl := 995, dlv := true, held := [(0, false)] }
def withMeet (s : State) (m : Meet) : State := { s with meets := [m] }

theorem due_sends (s : State) (m : Msg) (h : m.who.dev = s.dev ∧ m.arrive ≤ s.now) : Due (sends s m) m :=
  ⟨h.1, List.mem_singleton.2 rfl, h.2⟩

/-- A request about a binding, of a partition that is there and of one that stops, over a good record and a bad one, with an old
binding that a unit holds, that is busy, and that is neither. -/
theorem witness_Bindings_home : Due (sends base (req 1 980 (.buf 0 7) (.query 0 0x9001))) (req 1 980 (.buf 0 7) (.query 0 0x9001)) ∧
    Due (sends base (req 1 980 (.chain 0 7) (.query 1 0x9001))) (req 1 980 (.chain 0 7) (.query 1 0x9001)) ∧
    partLive base 0 = true ∧ partLive (base.setPart 5 fun p => { p with st := .stopped }) 5 = false ∧
    bufRecordBad (peek (bytesAt base 0x9000 bufBytes) 0x9000 64) = false ∧ bufRecordBad (peek base 0x9000 64) = true ∧
    chainRecordBad (peek (bytesAt base 0x9000 chainBytes) 0x9000 64) = false ∧ chainRecordBad (peek base 0x9000 64) = true ∧
    bufHeld { bufOf4 [] with expert := some 0 } = true ∧ bufHeld { bufOf4 (List.replicate 4 .free) with host := true } = false ∧
    bufBusy (rereadHpr (bytesAt base (0x9000 + 28) [1]) { bufOf4 (List.replicate 4 .free) with host := true }) = true ∧
    bufBusy (rereadHpr base { bufOf4 (List.replicate 4 .free) with host := true }) = false ∧
    (withBuf base { bufOf4 [] with expert := some 0 }).bufs.all bufHeld = true := by
  refine ⟨due_sends _ _ ⟨rfl, by decide⟩, due_sends _ _ ⟨rfl, by decide⟩, ?_⟩
  decide +kernel
theorem test_cb_def_home : (bufOf (ran (.bufferFreeAtHome (req 1 980 (.buf 0 7) (.query 0 0x9001)))
    (sends (bytesAt base 0x9000 bufBytes) (req 1 980 (.buf 0 7) (.query 0 0x9001)))) 0 7).map (fun b => (b.cap, b.base)) = some (4, 0xA000) := by
  decide +kernel
theorem witness_MeetingsAtHome_init : Due (sends base (req 1 980 (.meet 0x9000) (.mtInit 7 2 3))) (req 1 980 (.meet 0x9000) (.mtInit 7 2 3)) ∧
    meetOf (sends base (req 1 980 (.meet 0x9000) (.mtInit 7 2 3))) (.meet 0x9000) = none ∧ entryFree base 0 0 = true ∧
    entryFree (base.setPart 0 fun p => { p with hga := 0 }) 0 0 = false := by
  refine ⟨due_sends _ _ ⟨rfl, by decide⟩, ?_⟩
  decide +kernel
theorem witness_MeetingsAtHome_arrival : Due (sends (withMeet base meet0) (req 1 980 (.meet 0x9000) (.mtArrive 1 995 false 0)))
      (req 1 980 (.meet 0x9000) (.mtArrive 1 995 false 0)) ∧
    meetOf (withMeet base meet0) (.meet 0x9000) = some meet0 ∧ meet0.digest = 0 ∧ meet0.memb &&& (1#64 <<< 1) ≠ 0 ∧
    meet0.held.all (fun h => h.1 != 1) = true ∧ meet0.arr ≠ meet0.memb ∧ meet0.arr ||| (1#64 <<< 1) ≠ meet0.memb ∧
    meet0.memb &&& (1#64 <<< 63) = 0 ∧ meet0.waits = [] ∧ meet0.arr ≠ meet0.memb ||| (1#64 <<< 63) := by
  refine ⟨due_sends _ _ ⟨rfl, by decide⟩, ?_⟩
  decide +kernel

/-- An arrival of another device's party. -/
def farArrival : Msg := { req 1 980 (.meet 0x9000) (.mtArrive 1 995 false 0) with who := { partyOf 1 980 with dev := 3 } }
/-- Its stream, once it has come and has no answer yet. -/
def metStream : OStream := { msgStream base farArrival with met := [⟨0, farArrival, false, []⟩] }
theorem witness_MeetingsAtHome_far : farArrival.who.dev ≠ base.dev ∧ base.msgs.contains farArrival = false ∧
    (sends base farArrival).msgs.contains farArrival = true ∧ farArrival.arrive ≤ base.now ∧ msgSeen base farArrival = none ∧
    msgBusy base farArrival = false ∧ msgGone base farArrival = false ∧
    msgGone base { farArrival with who := { farArrival.who with part := 5 } } = true ∧
    msgSeen { base with streams := [metStream] } farArrival = some ⟨0, farArrival, false, []⟩ := by
  decide +kernel

theorem witness_MeetingClose_deadline : meetOf (withMeet base meet0) (.meet 0x9000) = some meet0 ∧ meet0.dlv = true ∧
    closeHeld (withMeet base meet0) (.meet 0x9000) = false ∧ meet0.dl + meet0.grace ≤ base.tick.toNat ∧
    ¬base.tick.toNat < meet0.dl + meet0.grace ∧ base.tick.toNat < ({ meet0 with dl := 999 } : Meet).dl + meet0.grace ∧
    (meet0.held.map Prod.fst).Nodup := by decide +kernel
/-- The last arrival, in time. -/
def meetLast : Meet := { meet0 with arr := 5, held := [(0, false), (2, false)] }
theorem witness_MeetingClose_last : Due (sends (withMeet base meetLast) (req 1 980 (.meet 0x9000) (.mtArrive 1 995 true 0)))
      (req 1 980 (.meet 0x9000) (.mtArrive 1 995 true 0)) ∧
    closeHeld { sends (withMeet base meetLast) (req 1 980 (.meet 0x9000) (.mtArrive 1 995 true 0)) with msgs := [] } (.meet 0x9000) = false ∧
    meetLast.memb &&& 1#64 <<< 1 ≠ 0 ∧ meetLast.held.all (fun h => h.1 != 1) = true ∧ meetLast.waits = [] ∧
    meetLast.arr ||| 1#64 <<< 1 = meetLast.memb ∧ (980 : Nat) ≤ meetLast.dl ∧ meetLast.digest = 0 := by
  refine ⟨due_sends _ _ ⟨rfl, by decide⟩, ?_⟩
  decide +kernel
theorem witness_MeetingClose_waiter : isGroup (.meet 0x9000) = false ∧ (partyOf 1 980).dev = base.dev ∧
    (⟨partyOf 1 980, 0, 990, false⟩ : MtWaiter).gave = false ∧ TickPast base (990 + meet0.grace) ∧ ¬TickPast base (999 + meet0.grace) :=
  ⟨rfl, rfl, rfl, tickPast_of (by decide), not_tickPast (by decide)⟩
/-- The last cycle of the tick itself, and an earlier one. -/
theorem witness_TickPast : TickPast { base with cyc := 12 } 1000 ∧ ¬TickPast base 1000 :=
  ⟨.inr ⟨rfl, by decide⟩, by rintro (h | ⟨-, h⟩) <;> revert h <;> decide⟩
/-- GRACE past the deadline the meeting closes: party 1 and 2 are absent, the generation moves on, and party 0's verdict is kept. -/
theorem test_meeting_close : (match meetOf (ran (.meetingCloseDeadline (.meet 0x9000)) (withMeet base meet0)) (.meet 0x9000) with
    | some m => decide (m.labs = 6 ∧ m.memb = 1 ∧ m.gen = 1 ∧ m.arr = 0 ∧ m.kept = [⟨0, wsABSENT, 6, 0⟩]) | none => false) = true := by decide +kernel

/-- A lock that core 1 holds until 1000, and one that core 1 let lapse. -/
def lock1 : Lock := { pa := 0x9000, part := 0, die := 0, holder := some (partyOf 1 900), hdl := 1000, abdl := 0, abn := false, queue := [] }
def withLock (s : State) (l : Lock) : State := { s with locks := [l] }
def lkWaiter : LkWaiter := { who := partyOf 2 950, hdl := 1001, u := 990, b := 10 }

theorem witness_LocksAtHome_acquire : Due (sends base (req 2 980 (.lock 0x9000) (.lkAcquire 1001 990))) (req 2 980 (.lock 0x9000) (.lkAcquire 1001 990)) ∧
    lockOf (sends base (req 2 980 (.lock 0x9000) (.lkAcquire 1001 990))) 0x9000 = none ∧ entryFree base 0 0 = true ∧ base.tick.toNat < 1001 ∧
    (1000 : Nat) ≤ base.tick.toNat ∧ entryFree (base.setPart 0 fun p => { p with hga := 0 }) 0 0 = false ∧ Memory.wf base.mem = true ∧
    lockOf (withLock base lock1) 0x9000 = some lock1 ∧ sameParty (partyOf 2 980) (partyOf 1 900) = false ∧
    sameParty (partyOf 1 980) (partyOf 1 900) = true := by
  refine ⟨due_sends _ _ ⟨rfl, by decide⟩, ?_⟩
  decide +kernel
theorem witness_LocksAtHome_release : Due (sends (withLock base lock1) (req 1 980 (.lock 0x9000) .lkRelease)) (req 1 980 (.lock 0x9000) .lkRelease) ∧
    Due (sends (withLock base lock1) (req 1 980 (.lock 0x9000) .lkMend)) (req 1 980 (.lock 0x9000) .lkMend) ∧
    sameParty (partyOf 1 980) (partyOf 1 900) = true ∧ base.tick.toNat ≤ lock1.hdl ∧ lock1.queue = [] ∧ base.tick.toNat < lkWaiter.hdl ∧
    ({ lock1 with hdl := 999 } : Lock).hdl < base.tick.toNat := by
  refine ⟨due_sends _ _ ⟨rfl, by decide⟩, due_sends _ _ ⟨rfl, by decide⟩, ?_⟩
  decide +kernel
theorem witness_LocksAtHome_lapse : lock1.holder.isSome = true ∧ ({ lock1 with hdl := 999 } : Lock).hdl < base.tick.toNat ∧
    base.tick.toNat ≤ lock1.hdl ∧ lkWaiter.who.dev = base.dev ∧ TickPast base (989 + lkWaiter.b) ∧ ¬TickPast base (991 + lkWaiter.b) := by
  refine ⟨rfl, by decide, by decide, rfl, tickPast_of (by decide), not_tickPast (by decide)⟩
theorem test_lock_lapse : lockOf (ran (.lockHoldLapse 0x9000) (withLock base { lock1 with hdl := 999 })) 0x9000 =
    some { lock1 with holder := none, hdl := 999, abn := true, abdl := 999 } := by decide +kernel

theorem witness_BuffersAtHome_buffer : bufOf (withBuf base (bufOf4 [.filled, .hole, .taken, .reserved 1000])) 0 7 =
      some (bufOf4 [.filled, .hole, .taken, .reserved 1000]) ∧
    (0, 7, 3) ∈ ({ base with holes := [(0, 7, 3)] } : State).holes ∧ (0, 7, 3) ∉ base.holes ∧
    (bufOf4 [.filled, .hole, .taken, .reserved 1000]).slots.length = (bufOf4 []).cap ∧ (bufOf4 []).rpos < 4 ∧ (bufOf4 []).cpos < 4 := by
  decide +kernel
theorem witness_BuffersAtHome_claim : Due (sends (withBuf base (bufOf4 (List.replicate 4 .free))) (req 1 980 (.buf 0 7) (.cbClaim 4 990 990)))
      (req 1 980 (.buf 0 7) (.cbClaim 4 990 990)) ∧ 4 ≤ bufFree (bufOf4 (List.replicate 4 .free)) ∧
    bufFree { bufOf4 (List.replicate 4 .taken) with rsv := 4 } < 4 ∧ (bufOf4 []).cap < 5 := by
  refine ⟨due_sends _ _ ⟨rfl, by decide⟩, ?_⟩
  decide +kernel
theorem witness_BuffersAtHome_fill : Due (sends (withBuf base (bufOf4 [.reserved 980, .free, .free, .free])) (req 1 980 (.buf 0 7) (.cbFill 0 false)))
      (req 1 980 (.buf 0 7) (.cbFill 0 false)) ∧ slotAt (bufOf4 [.reserved 980, .free, .free, .free]) 0 = .reserved 980 ∧
    slotAt (bufOf4 [.reserved 979, .free, .free, .free]) 0 = .reserved 979 ∧ (979 : Nat) < 980 := by
  refine ⟨due_sends _ _ ⟨rfl, by decide⟩, ?_⟩
  decide +kernel
theorem witness_BuffersAtHome_receive : Due (sends (withBuf base (bufOf4 [.filled, .hole, .free, .free])) (req 1 980 (.buf 0 7) (.cbRecv 1 990 false)))
      (req 1 980 (.buf 0 7) (.cbRecv 1 990 false)) ∧ 1 ≤ bufFilled (bufOf4 [.filled, .hole, .free, .free]) ∧
    slotAt (bufOf4 [.hole, .free, .free, .free]) 0 = .hole ∧ slotAt (bufOf4 [.free, .free, .free, .free]) 0 = .free := by
  refine ⟨due_sends _ _ ⟨rfl, by decide⟩, ?_⟩
  decide +kernel
theorem witness_BuffersAtHome_free : Due (sends (withBuf base (bufOf4 [.taken, .free, .free, .free])) (req 1 980 (.buf 0 7) (.cbFree 0)))
      (req 1 980 (.buf 0 7) (.cbFree 0)) ∧ slotAt (bufOf4 [.taken, .free, .free, .free]) 0 = .taken ∧
    slotAt (bufOf4 [.taken, .free, .free, .free]) 3 ≠ .taken ∧ (0 : Nat) = (bufOf4 []).fpos := by
  refine ⟨due_sends _ _ ⟨rfl, by decide⟩, ?_⟩
  decide +kernel
/-- A claim of three slots that waits while three are free; and a claim of a buffer that only the hardware fills. -/
theorem witness_BuffersAtHome_waiting : (3 : Nat) ≤ bufFree (bufOf4 [.filled, .free, .free, .free]) ∧
    ({ bufOf4 [] with expert := some 0 } : Buf).closed = true ∧
    Due (sends (withBuf base (bufOf4 [])) (req 1 980 (.buf 0 7) (.query 2 0))) (req 1 980 (.buf 0 7) (.query 2 0)) ∧
    TickPast base (990 + boundOf base 3) ∧ ¬TickPast base (999 + boundOf base 3) :=
  ⟨by decide, rfl, due_sends _ _ ⟨rfl, by decide⟩, tickPast_of (by decide), not_tickPast (by decide)⟩
theorem witness_BuffersAtHome_clocks : 990 + boundOf base 3 ≤ base.tick.toNat ∧ base.tick.toNat < 999 + boundOf base 3 ∧
    (partyOf 1 980).dev = base.dev ∧ slotAt (bufOf4 [.free, .free, .free, .free]) 0 ≠ .hole ∧
    slotAt (bufOf4 [.free, .free, .free, .free]) 0 ≠ .filled := by decide +kernel
theorem test_slot_hole : (bufOf (ran (.slotHoleConversion 0 7 3) (withBuf base (bufOf4 [.filled, .hole, .taken, .reserved 990]))) 0 7).map Buf.slots =
    some [.filled, .hole, .taken, .hole] := by decide +kernel

theorem witness_ChainsAtHome : chainOf (withChain base chain7) 0 7 = some chain7 ∧
    Due (sends (withChain base chain7) (req 1 980 (.chain 0 7) (.chPub 6))) (req 1 980 (.chain 0 7) (.chPub 6)) ∧
    Due (sends (withChain base chain7) (req 1 980 (.chain 0 7) (.chRead 5 0 990))) (req 1 980 (.chain 0 7) (.chRead 5 0 990)) ∧
    (6 : Nat) < 2 ^ 64 ∧ 5 ≤ chain7.h.toNat - 0 ∧ chain7.h.toNat - 0 < 6 ∧ (partyOf 1 980).dev = base.dev ∧
    (6 : Nat) ≤ max chain7.h.toNat 6 - 0 ∧ TickPast base (990 + boundOf base chain7.scope) ∧ ¬TickPast base (999 + boundOf base chain7.scope) :=
  ⟨by decide +kernel, due_sends _ _ ⟨rfl, by decide⟩, due_sends _ _ ⟨rfl, by decide⟩, by decide, by decide, by decide, rfl, by decide,
    tickPast_of (by decide), not_tickPast (by decide)⟩

/-! ## Witnesses: scalar and control instructions

For each obligation with hypotheses, a concrete state and operands that meet those of each clause. -/

/-- With a valid stream register 1. -/
def streamed : State := ctxOf base fun c => { c with q := c.q.setIfInBounds 1 { c.stream 1 with valid := true } }
theorem witness_ScalarFrames : (∃ t, exec (.addReg ⟨3, 0, 1, 2⟩) base = .next t) ∧ (∃ t, exec (.cmp ⟨0, 0, 1, 2, 0, 4, 0⟩) base = .next t) ∧
    csrReadLevel 0x23 ≤ base.c.priv.toNat ∧ (∃ t, exec (.csrr ⟨3, 0, 0, 0, 0, 0, 0x23⟩) base = .next t) ∧
    (∃ t, exec (.mul ⟨31, 0, 1, 2, 0, 0, 0, 0, 0⟩) base = .next t) ∧ (∃ t, exec (.li ⟨31, 0, 5⟩) base = .next t) ∧
    streamed.c.vill = false ∧ (streamed.c.stream 1).valid = true ∧ (∃ t, exec (.qinfoB ⟨3, 0, 1, 0, 0, 0, 0⟩) streamed = .next t) ∧ (∃ t, exec (.tick { h3 with d := 3 }) base = .next t) := by
  refine ⟨⟨_, rfl⟩, ⟨_, rfl⟩, by decide, ⟨_, rfl⟩, ⟨_, rfl⟩, ⟨_, rfl⟩, by decide, by decide, ⟨_, rfl⟩, ⟨_, rfl⟩⟩

theorem witness_RegisterZero : Sets (.addReg ⟨0, 0, 1, 2⟩) base 0 0 ∧ (Instr.mand ⟨7, 0, 7, 7⟩).wf = true ∧
    (Instr.qset ⟨15, 0, 1, 2, 0, 0, 0⟩).wf = true ∧ (Instr.fmtLd ⟨15, 0, 1, 0, 0, 0, 0⟩).wf = true ∧ (Instr.dld ⟨15, 0, 1, 2, 0, 0, 0⟩).wf = true ∧
    (Instr.cbClaim ⟨3, 0, 0, 0, 0, 0, 31, 9, 255⟩).wf = true ∧ (Instr.chainPub ⟨0, 0, 1, 0, 0, 0, 0, 0, 63⟩).wf = true ∧
    (Instr.nbArr ⟨0, 0, 0, 6, 0, 0, 0, 9, 47⟩).wf = true := by
  refine ⟨rfl, ?_⟩
  decide

/-- From pc 0 the target 0x8000: LDELTA 0x200, HIDX 0. -/
def branchBy : H3 := { h3 with a := 1, b := 2, imm := 0x4000 }

def targetOf (s : State) (f : H3) : Nat :=
  (((s.c.pc.toNat / 64 * 64 : Nat) + 64 * (f.imm.extractLsb' 5 11).toInt + 2 * (f.imm.extractLsb' 0 5).toNat) % 2 ^ 56 : Int).toNat

theorem witness_Branches_taken : (withLine base).reg 1 = (withLine base).reg 2 ∧ targetOf (withLine base) branchBy = 0x8000 ∧
    isOk (enterLine (withLine base) 0x8000) = true := by decide +kernel
theorem witness_Branches_trapped : base.reg 1 = base.reg 2 ∧ targetOf base branchBy = 0x8000 ∧ isTrap 0x02 (enterLine base 0x8000) = true := by
  decide +kernel
theorem witness_Branches_not_taken : ¬(regs base [(1, 1)]).reg 1 = (regs base [(1, 1)]).reg 2 := by decide +kernel
/-- The last line of LDELTA's range and the one before the first: a backward target wraps below 0 to the top of the space. -/
theorem test_branch_target_backward : targetOf base { h3 with imm := 0xFFE3 } = 2 ^ 56 - 64 + 6 ∧
    branchTarget base 0xFFE3 = 2 ^ 56 - 64 + 6 := by decide +kernel

def jumpOf (s : State) (f : H3) : Nat :=
  let v := f.c.toNat * 2 ^ 21 + f.dl.toNat * 2 ^ 16 + f.imm.toNat
  (((s.c.pc.toNat / 64 * 64 : Nat) + 64 * (BitVec.ofNat 21 (v / 32)).toInt + 2 * (v % 32 : Nat)) % 2 ^ 56 : Int).toNat

theorem witness_JumpsAndCalls_label : jumpOf (withLine base) { h3 with d := 1, imm := 0x4000 } = 0x8000 ∧
    isOk (enterLine (withLine base) 0x8000) = true ∧ isTrap 0x02 (enterLine base 0x8000) = true := by decide +kernel
theorem witness_JumpsAndCalls_register : ((regs (withLine base) [(5, 0x8000)]).reg 5).toNat < 2 ^ 56 ∧
    ((regs (withLine base) [(5, 0x8000)]).reg 5).getLsbD 0 = false ∧ isOk (enterLine (regs (withLine base) [(5, 0x8000)]) 0x8000) = true := by
  decide +kernel
theorem witness_JumpsAndCalls_misaligned : ((regs base [(5, 1)]).reg 5).getLsbD 0 = true ∧ ((regs base [(5, 2 ^ 56)]).reg 5).toNat ≥ 2 ^ 56 := by
  decide +kernel

/-- A task below partition level in partition 5, and the head after its trap in a line that can be entered. -/
def trapState : State := ctxOf (withLine base) fun c => { c with pc := 0x7FC0, priv := 1, line := some ⟨0x7FC0, oneHeadLine 0x0D00 0⟩ }

theorem witness_TrapInstruction : trapState.c.tst.getLsbD 2 = false ∧ trapState.c.LevelOk ∧ trapState.c.nextPc.getLsbD 0 = false ∧
    isOk (enterLine (ran (.trap ⟨31⟩) trapState) trapState.c.nextPc.toNat) = true := by
  refine ⟨by decide, ⟨by decide, by decide⟩, by decide +kernel, by decide +kernel⟩

/-- In a handler at partition level, about to return to 0x8000 at level 1. -/
def inHandler : State := ctxOf (withLine base) fun c => { c with priv := 1, tst := 5, epc := 0x8000, trapPc := some 0x8000, resume := some ⟨0x8000, 0, false, none, none, false⟩ }

theorem witness_TrapReturn_level : (ctxOf inHandler fun c => { c with priv := 0 }).c.priv.toNat < 1 ∧
    1 ≤ (ctxOf inHandler fun c => { c with tst := 6 }).c.priv.toNat ∧ (ctxOf inHandler fun c => { c with tst := 6 }).c.priv.toNat < 2 := by decide
theorem witness_TrapReturn_target : 1 ≤ inHandler.c.priv.toNat ∧ (inHandler.c.tst.setWidth 2 : BitVec 2).toNat ≤ inHandler.c.priv.toNat ∧
    inHandler.c.epc.toNat < 2 ^ 56 ∧ inHandler.c.epc.getLsbD 0 = false ∧ isOk (enterLine inHandler 0x8000) = true ∧
    (match enterLine inHandler 0x8000 with | .ok _ u => decide (u.c = inHandler.c) | _ => false) = true ∧
    inHandler.c.trapPc = some (inHandler.c.epc.setWidth 56) ∧ inHandler.c.resume.map Resume.pc = some (inHandler.c.epc.setWidth 56) ∧
    (ctxOf inHandler fun c => { c with epc := 2 ^ 56 }).c.epc.toNat ≥ 2 ^ 56 ∧
    isTrap 0x02 (enterLine (ctxOf inHandler fun c => { c with epc := 0x9000 }) 0x9000) = true := by decide +kernel

theorem witness_TrapEntry : base.c.tst.getLsbD 2 = false ∧ inHandler.c.tst.getLsbD 2 = true ∧ inHandler.c.firing = none ∧
    inHandler.c.part < 64 ∧ inHandler.myPart.evs.length < 64 := by decide +kernel

/-- A task of partition 5 at level 0. -/
def task5 : State := ctxOf base fun c => { c with priv := 0, part := 5 }

theorem witness_PrivilegeTraps : task5.c.priv ≠ 2 ∧ task5.c.priv = 0 ∧ task5.c.tst.getLsbD 2 = false ∧ 0x20 ≤ (0x20 : BitVec 8).toNat ∧
    (0x24 : BitVec 8) ≠ 6 ∧ (0x24 : BitVec 8) ≠ 7 := by decide +kernel

/-- `csrr` of `csp` words needs no level; a write of `tvec` needs level 1. -/
theorem witness_ControlRegisters_levels : csrReadLevel 0x24 ≤ (ctxOf base fun c => { c with priv := 1 }).c.priv.toNat ∧
    csrWriteLevel 0x24 ≤ (ctxOf base fun c => { c with priv := 1 }).c.priv.toNat ∧ csrReadLevel 0x06 ≤ task5.c.priv.toNat ∧
    csrWriteLevel 0x06 ≤ task5.c.priv.toNat ∧ ¬csrWriteLevel 0x24 ≤ task5.c.priv.toNat := by decide +kernel
theorem witness_ControlRegisters_part : (ctxOf base fun c => { c with part := 63 }).c.part < 64 ∧ (0x0A : Nat) ≠ 0x0B ∧ (0x0A : Nat) ≠ 0x0C := by decide

/-- A seat of core 3 with no context on it, whose `lpr` waits. -/
def lprWaits : State := { base with seats := base.seats ++ [{ Seat.start 3 0 1 0 0 with lprNew := some 0x108 }] }

theorem witness_ControlRegisters_lpr : (lprWaits.seat? 3 0).bind Seat.lprNew = some 0x108 ∧
    (match lprWaits.seat? 3 0 with | some t => seatEmpty lprWaits t | none => false) = true := by decide +kernel

/-! ## Witnesses: how waits end, tasks and the scheduler -/

/-- The running context waits for the home of a lock, and an answer has come. -/
def met : Ans := { ctx := 0, stamp := 1000, arrive := 1000, code := wsMET, r1 := 5, r2 := 6, trap := none }
def answered (s : State) (r : Ans) : State := { s with answers := [r] }
def waitsLock : State := waiting base (.plain 31 1) (some (.lock 0x9000)) 0 1500

theorem witness_WaitEnds_verdict : met.ctx ≤ engineId ∧ (Option.some (Obj.lock 0x9000)).isSome = true ∧ met ∈ (answered waitsLock met).answers ∧ met.arrive ≤ waitsLock.tick.toNat ∧
    ((answered waitsLock met).ctx? met.ctx).bind Ctx.wait = some ⟨.plain 31 1, some (.lock 0x9000), 0, 1000, 1500, none⟩ ∧
    ((answered waitsLock met).ctx? met.ctx).map (fun c => (c.alive, c.line.isSome)) = some (true, true) ∧ redGroup (answered waitsLock met) met.ctx met.stamp = none ∧
    met.trap = none ∧ met.code < 8 ∧ ({ met with trap := some (0x08, 7) } : Ans).trap = some (0x08, 7) ∧ waitsLock.c.tst.getLsbD 2 = false := by
  decide +kernel
theorem test_verdict : (ran (.verdictReceived met) (answered waitsLock met)).reg 31 = 5 ∧
    (ran (.verdictReceived met) (answered waitsLock met)).reg 1 = 6 := by decide +kernel

/-- A wait at a meeting of device 3 that a lost home ends at `l`. -/
def limited (l : Nat) : State :=
  ctxOf base fun c => { c with wait := some { op := .plain 3 4, obj := some (.meet 0x9000), dev := 3, stamp := 1000, u := 1500, limit := some l } }
theorem witness_WaitEnds_limit : ((limited 1000).ctx? 0).bind (fun c => c.wait.bind Wait.limit) = some 1000 ∧ (3 : Nat) ≠ base.dev ∧
    (Option.some (Obj.meet 0x9000)).any isMeeting = true ∧ (1000 : Nat) ≤ base.tick.toNat ∧ base.tick.toNat < 1001 ∧
    ((limited 1001).ctx? 0).isSome = true := by decide +kernel

/-- A context that stands at `amo.add.n64 s4, [s1], s2` with an answer of the host. -/
def atAmo : State := ctxOf (win 8 5) fun c =>
  { c with pc := 0x8000, line := some ⟨0x8000, oneHeadLine 0xC920 (BitVec.ofNat 48 (2 ^ 43 + 2 * 2 ^ 38 + 8 * 2 ^ 30))⟩,
           hold := some { stamp := 900, tag := some 3, ans := some { st := 0, val := 9 } } }
theorem witness_WaitEnds_atomic : atomicAt atAmo.c = some (0, { h3 with d := 4, a := 1, b := 2, ty := 8 }) ∧ atAmo.c.alive = true ∧
    atAmo.c.hold.bind Hold.ans = some { st := 0, val := 9 } ∧ (atAmo.reg 1).toNat % 8 = 0 ∧
    fillsOut atAmo = false ∧ made atAmo false false 0 (atAmo.reg 1).toNat 8 = atAmo ∧
    (match atomicMem atAmo atAmo.agent (atAmo.reg 1).toNat 0 8 (atAmo.reg 2).toNat (atAmo.reg 4).toNat with
      | .ok _ t => decide (t.c.id = atAmo.c.id) && t.c.alive | _ => false) = true := by decide +kernel
/-- A `FetchAdd` of 7 in host memory. -/
def hostAdd : HostOp := { key := hostKey + 0x100, fn := 0, ty := 7, b := 7, e := 0 }
theorem witness_WaitEnds_host : (let s : State := { ctxOf base fun c => { c with hold := some { stamp := 900, tag := some 3 } } with
      resvs := [⟨3, 0, blankFlit, 900, none, some hostAdd, none⟩] }
    hostAdd.done = false ∧ hostWord s hostAdd = (0 : Word).toNat % 2 ^ 32 ∧ hostWord s hostAdd ≠ (9 : Word).toNat % 2 ^ 32 ∧
    (s.resvs.all fun q => q.tag == 3 || q.host.all fun y => y.key != hostAdd.key) = true ∧
    s.c.alive = true ∧ s.c.hold = some { stamp := 900, tag := some 3 } ∧ Memory.wf s.mem = true ∧ hostAdd.ty ∈ [3, 4, 7, 8] ∧
    (s.resvs.find? fun r => r.tag == 3 && r.ctx == s.c.id) = some ⟨3, 0, blankFlit, 900, none, some hostAdd, none⟩) := by
  decide +kernel

/-- A copy of the running context that stands at a fault. -/
def copyX : Copy :=
  { id := 1, part := 0, ctx := 0, core := 64, pos := 0, devl := false, kind := .shadow 0 true, dst := [], src := [], slot := some 3, at_ := 0,
    next := 2, fault := some (0x06, 0xB000), delivered := false, cur := [], got := none, far := none, ans := none }
theorem witness_WaitEnds_copy : copyFault { base with copies := [copyX] } 0 = some copyX ∧ base.c.wait = none ∧ base.c.hold = none ∧
    base.c.vq = [] ∧ base.c.tst.getLsbD 2 = false := by decide +kernel
/-- An invalidation of line 0x3000 in stream register 2 of context 0, which holds a leaf of it. -/
def shot : State :=
  { ctxOf base fun c => { c with q := c.q.setIfInBounds 2 { c.stream 2 with held := [{ va := 0, e := 0xF44C, line := 0x3000 }] } } with
    shoot := [{ holder := ⟨6, 0⟩, line := 0x3000, by_ := 0 }] }
theorem witness_WaitEnds_shootdown : (shot.shoot.any fun x => x.holder == ⟨6, 0⟩ && x.line == 0x3000) = true ∧ (shot.ctx? 0).isSome = true ∧
    ((shot.c.stream 2).held.any fun x => x.line == 0x3000) = true ∧ base.shoot = [] := by decide +kernel
theorem test_shootdown_ack : let t := ran (.shootdownAck ⟨6, 0⟩ 0x3000) shot
    t.shoot = [] ∧ (t.c.stream 2).held = [] ∧ (t.c.stream 2).stale = true := by decide +kernel

/-- A seat of core 3 for partition 0, free. -/
def seated : State := { base with seats := base.seats ++ [Seat.start 3 0 1 0 0] }

theorem witness_TasksAndGraphs_spawn : seated.c.part < 64 ∧ (3 : Nat) < 64 ∧ (Seat.start 3 0 1 0 0) ∈ seated.seats ∧
    seated.myPart.spawnQ.length < 1024 ∧ fillsOut seated = false ∧ fillsOut filling = true ∧ base.seats.all (fun t => 64 ≤ t.core) = true := by decide +kernel
theorem witness_TasksAndGraphs_full : 1024 ≤ (List.replicate 1024 (⟨0, 0, 3, 3, 0, 900⟩ : Spawn)).length := Nat.le_of_eq List.length_replicate.symm

/-- A stage record of entry 0x8000 on core 3 with no inputs or outputs. -/
def stageBytes : List Byte := leBytes 8 0x8000 ++ List.replicate 24 0 ++ leBytes 8 8 ++ List.replicate 8 0 ++ leBytes 4 100 ++ List.replicate 12 0

theorem witness_TasksAndGraphs_gdef : (0x9001 : Nat) % 64 ≠ 0 ∧ 0x9000 % 64 = 0 ∧
    (match loadLines (bytesAt (regs seated [(1, 0x9000), (2, 1)]) 0x9000 stageBytes) base.agent 0x9000 1 with
      | .ok bs u => decide (u.c.part = 0 ∧ graphFault u [bs.take 64] = none) | _ => false) = true ∧
    (match loadLines (bytesAt (regs seated [(1, 0x9000), (2, 1)]) 0x9000 [1, 0, 0, 0, 0, 0, 0, 1]) base.agent 0x9000 1 with
      | .ok bs u => decide ((graphFault u [bs.take 64]).map Prod.fst = some 1) | _ => false) = true := by decide +kernel

def graph0 : Graph := { part := 0, g := 2, stages := [stageOfRecord stageBytes], running := false }
def graphs (s : State) (g : Graph) : State := { s with graphs := [g] }

theorem witness_TasksAndGraphs_gstart : (seated.graphs.find? fun x => x.part == 0 && x.g == 2) = none ∧
    ((graphs seated graph0).graphs.find? fun x => x.part == 0 && x.g == 2) = some graph0 ∧
    (graph0.stages.all fun t => (t.ins ++ t.outs).all fun x => x.2 == 0) = true ∧ graph0.running = false ∧
    ({ graph0 with running := true } : Graph).running = true ∧
    (stageOfRecord (leBytes 8 0x8000 ++ [7, 1] ++ List.replicate 54 0)).ins.head? = some (7, 1) ∧ bufOf seated 0 7 = none := by decide +kernel
theorem witness_TasksAndGraphs_exit : (base.copies.all fun x => x.ctx != base.c.id) = true ∧
    (({ base with copies := [copyX] } : State).copies.any fun x => x.ctx == base.c.id) = true ∧ base.c.firing = none := by decide +kernel

/-- The graph runs and its root stage is due. -/
def firing : State := graphs seated { graph0 with running := true, stages := graph0.stages.map fun x => { x with due := 1 } }
def spawnX : Spawn := { entry := 0x8000, arg := 9, scope := 3, core := 3, prio := 0, at_ := 900 }
def spawned : State := seated.setPart 0 fun p => { p with spawnQ := [spawnX] }
/-- A saved context of partition 0 that fits core 3. -/
def savedX : Saved :=
  { part := 0, addr := 0x20000, seat := none, ctx := Ctx.start 9 3 0 0 0 0 0x8000, len := 0, dlen := 8, lanes := 256, rrows := 0, kept := none }
def savedS : State := { seated with saved := [savedX] }

theorem witness_SchedulerEvents_bids : ((firstBid (clockStages firing) 0).map Bid.who = some (.stage 2 0)) ∧
    (stageOf (clockStages firing) 0 2 0).isSome = true ∧ (firing.ctxs.all fun x => x.id != firing.nextId) = true ∧
    (firstBid (clockStages spawned) 0).map Bid.who = some (.spawn 0) ∧ (spawned.part 0).spawnQ[0]? = some spawnX ∧
    (firstBid (clockStages savedS) 0).map Bid.who = some (.saved 0) ∧ savedS.saved[0]? = some savedX ∧
    imagePoisoned savedS savedX.addr (savedX.len / 64) = false ∧ (savedS.ctxs.all fun y => y.id != 9) = true := by decide +kernel
theorem test_stage_firing : ((ran (.stageFiring 0) firing).ctx? 1).map (fun c => (c.core, c.pc.toNat, c.priv.toNat)) = some (3, 0x8000, 0) := by
  decide +kernel
theorem test_spawn_placement : ((ran (.spawnPlacement 0) spawned).ctx? 1).map (fun c => (c.core, c.pc.toNat, (c.reg 1).toNat)) =
    some (3, 0x8000, 9) := by decide +kernel

theorem witness_SchedulerEvents_aging : (stageOf (ran (.stageFiring 0) firing) 0 2 0).isSome = true ∧
    (match stageOf (clockStages firing) 0 2 0 with | some x => x.since == some 1000 | none => false) = true := by decide +kernel
theorem witness_SchedulerEvents_preemption : (let s := base.setPart 0 fun p => { p with savesz := 1 }
    s.c.alive = true ∧ s.c.part < 64 ∧ s.myPart.savesz ≠ 0 ∧ s.c.tst.getLsbD 2 = false ∧ stoppable s s.c = true ∧ s.others = [] ∧
      s.myPart.evs.length < 64) ∧ inHandler.c.tst.getLsbD 2 = true := by decide +kernel
/-- A context with `vmov` at the head of its vector queue. -/
def atVmov : State := ctxOf base fun c =>
  { c with vq := [{ pc := 0x8000, line := some ⟨0x8000, oneHeadLine 0x9C00 0x0000C000⟩, s := c.s, avl := c.avl, vl := c.vl, vcfg := c.vcfg,
                    hold := none, delay := 0 }] }
theorem witness_SchedulerEvents_beat : atVmov.issue = [] ∧
    ((atVmov.seat? 64 0).map fun x => (ownsBeat atVmov x, ownsBeat { atVmov with cycle := 1 } x,
      (seatChoice atVmov 64 0 fun y => vectorReady atVmov y && sideFree atVmov x (x.laneSide y.slot)) == some atVmov.c)) = some (true, false, true) ∧
    ({ atVmov with issue := [0] } : State).issue = [atVmov.c.id] ∧ suspectOk (2, 0xF03) = true ∧ suspectOk (2, 0xF00) = false := by
  decide +kernel
theorem witness_SchedulerEvents_issue : seatChoice atVmov 64 0 (headReady atVmov) = some atVmov.c ∧
    seatChoice atVmov 64 0 (vectorReady atVmov) = some atVmov.c ∧ atVmov.ctx? 0 = some atVmov.c ∧
    (atVmov.seat? 64 0).map Seat.lanePart = some false := by decide +kernel
/-- Two assigned partitions. -/
def assigned2 : State := (base.setPart 5 fun p => { p with st := .assigned }).setPart 6 fun p => { p with st := .assigned }
def rot56 : Rot := { core := 3, pos := 0, turns := [(5, 2048), (6, 1024)], holder := 5, since := 900 }
theorem witness_SchedulerEvents_rotation : rotOf assigned2 3 0 = none ∧ (assigned2.part 5).st ≠ .live ∧ (base.seats.all fun t => !t.spans 3 0) = true ∧ rot56.turns.length = 2 ∧
    (rot56.turns.map Prod.fst).Nodup ∧ (assigned2.part 5).st = .assigned ∧ (assigned2.part 6).st = .assigned ∧ 2 ^ 10 ≤ 1024 ∧ 2048 ≤ 2 ^ 24 := by
  decide +kernel
theorem witness_SchedulerEvents_slice : rotOf { assigned2 with rots := [rot56] } 3 0 = some rot56 ∧
    (rot56.turns.find? fun t => t.1 == rot56.holder) = some (5, 2048) ∧ assigned2.now < rot56.since + 2048 ∧
    rot56.since + 2048 ≤ ({ assigned2 with tick := 2948 } : State).now ∧ (assigned2.ctxs.all fun c => c.core != 3) = true ∧
    stoppableWhole assigned2 assigned2.c = true := by decide +kernel
theorem witness_SchedulerEvents_retire : (0 : Nat) < 16 ∧ (base.ctxs.all fun c => 64 ≤ c.core) = true := by decide +kernel
theorem witness_SchedulerEvents_lend : (let s := seated.setPart 0 fun p => { p with loose := true }
    (s.seats.all fun t => !t.spans 3 1 && !(t.core == 3 && t.lent.contains 1)) = true ∧ (s.seat? 3 0).isSome = true ∧ s.rots = [] ∧ (s.part 0).loose = true) := by
  decide +kernel

/-! ## Witnesses: vector length -/

/-- A configuration of 32-bit elements (TYPE 3), group factor 1, space 0, and a grant of four elements. -/
def vec (ty grant : Nat) : State := ctxOf base fun c => { c with vcfg := wd (ty * 2 ^ 8), avl := 4, vl := wd grant }

theorem witness_VectorLength_streams : streamed.c.vill = false ∧ (1 : BitVec 5).toNat < 16 ∧ (streamed.c.stream 1).valid = true ∧
    (base.c.stream 1).valid = false := by decide +kernel
theorem test_qset_qadv : let t := ran (.qadv { h2 with d := 15, a := 3 }) (ran (.qset { h2 with d := 15, a := 1, b := 2 }) (regs base
      [(1, 0x40), (2, 8), (3, 2 ^ 48 - 1)]))
    (t.c.stream 15).base = 0x40 ∧ (t.c.stream 15).stride = 8 ∧ (t.c.stream 15).pos.toInt = -1 := by decide +kernel
theorem witness_VectorLength : (vec 3 4).vlmax < 2 ^ 22 ∧ (vec 3 4).c.chv = false ∧ (vec 3 4).lanes < 2 ^ 12 ∧ (vec 3 4).dlen < 2 ^ 8 ∧
    (vec 3 4).c.gang.length < 8 ∧ (vec 3 4).c.ew = 32 ∧ (vec 3 4).c.vlen = 4 := by decide +kernel
theorem witness_VectorLength_chained : chainOf (withChain base chain7) 0 7 = some chain7 ∧ chain7.reach base < 4 ∧
    (1000 : Nat) ≤ base.tick.toNat + base.myPart.whz.toNat ∧ base.tick.toNat + base.myPart.whz.toNat < 2 ^ 21 ∧ chainOf base 0 7 = none ∧
    (ctxOf base fun c => { c with vl := wd (2 ^ 63 + 7 * 2 ^ 56 + 4) }).c.chv = true ∧
    (ctxOf base fun c => { c with vl := wd (2 ^ 63 + 7 * 2 ^ 56 + 4) }).c.chn = 7 := by decide +kernel
/-- A chained wait whose answer has come. -/
def chainAns : Ans := { ctx := 0, stamp := 1000, arrive := 1000, code := wsMET, r1 := 3, r2 := 0, trap := none }
theorem witness_VectorLength_answer : (let s := answered (waiting (vec 3 0) (.grant 4 false 10 7) (some (.chain 0 7)) 0 1500) chainAns
    s.c.alive = true ∧ s.c.line.isSome = true ∧ s.c.wait = some ⟨.grant 4 false 10 7, some (.chain 0 7), 0, 1000, 1500, none⟩ ∧ chainAns ∈ s.answers ∧
    chainAns.ctx = s.c.id ∧ chainAns.arrive ≤ s.tick.toNat ∧ s.vlmax < 2 ^ 22 ∧ redGroup s chainAns.ctx chainAns.stamp = none ∧
    chainAns.code < 8 ∧ s.c.resuming = false ∧ chainAns.ctx ≤ engineId ∧ (Option.some (Obj.chain 0 7)).isSome = true ∧ 7 < 64) := by decide +kernel
theorem test_vsetl_chained_answer : (let s := answered (waiting (vec 3 0) (.grant 4 false 10 7) (some (.chain 0 7)) 0 1500) chainAns
    (ran (.verdictReceived chainAns) s).reg 4 = 3 ∧ (ran (.verdictReceived chainAns) s).c.vlen = 3) := by decide +kernel
/-- A gang of core 3's seat: allowed and free, taken by another, or not allowed. -/
theorem witness_VectorLength_gang : gangSeats 12 1 = [(3, 0)] ∧ (gangSeats 12 1).Nodup ∧ gangAllowed seated (3, 0) = true ∧
    gangFree { detachSeats seated seated.c.id with c := { seated.c with gang := [] } } (3, 0) = true ∧ gangAllowed base (3, 0) = false ∧
    (let s : State := { seated with seats := base.seats ++ [{ Seat.start 3 0 1 0 0 with gangOf := some 9 }] }
    gangAllowed s (3, 0) = true ∧ gangFree { detachSeats s s.c.id with c := { s.c with gang := [] } } (3, 0) = false) ∧
    gangSeats 0x0C0C 2 = [(3, 0), (3, 0)] := by decide +kernel

/-! ## Witnesses: vector instructions -/

/-- With elements of width w at the start of a group. -/
def elems (s : State) (w reg : Nat) (xs : List Nat) : State :=
  (xs.zipIdx).foldl (fun s x => s.setElem w reg x.2 x.1) s

/-- Four 32-bit elements in v2 and v3, and v4 free; TYPE 3 (signed) or 11 (FP32) by the test. -/
def vecAB (ty : Nat) (a b : List Nat) : State := elems (elems (vec ty 4) 32 2 a) 32 3 b
def fAB (ty : BitVec 4) : H2 := ⟨4, 0, 2, 3, 0, ty, 0⟩

theorem vecForm_of (s : State) (ty : BitVec 4) (l : List (BitVec 5))
    (h : ready s && (tyWidth ty.toNat == s.c.ew && l.all fun r => decide (r.toNat % s.c.grp = 0 ∧ r.toNat + s.c.grp ≤ 32)) = true) :
    VecForm s ty l := by
  simp only [Bool.and_eq_true, beq_iff_eq, List.all_eq_true, decide_eq_true_eq] at h
  exact ⟨vecReady_of _ h.1, h.2.1, h.2.2⟩

theorem vecSpace_of (s : State) (w n : Nat)
    (h : decide (w ∈ [8, 16, 32, 64] ∧ 1 ≤ s.lanes ∧ s.lanes ≤ 2048 ∧ s.dlen ≤ 32 ∧ s.c.vlen ≤ s.groupCap w n ∧ Memory.wf s.c.v = true) = true) :
    VecSpace s w n := by
  have := of_decide_eq_true h
  exact this

theorem witness_VectorIntegers : VecForm (vecAB 3 [1, 2, 3, 4] [5, 6, 7, 8]) 3 [4, 2, 3] ∧ tyFloat 3 = false ∧
    VecSpace (vecAB 3 [1, 2, 3, 4] [5, 6, 7, 8]) 32 1 ∧ (fAB 3).sub = 0 :=
  ⟨vecForm_of _ _ _ (by decide +kernel), rfl, vecSpace_of _ _ _ (by decide +kernel), rfl⟩
/-- `vadds.s32` saturates at both ends and `vmulh.s32` keeps the high half. -/
theorem test_vadds : let t := ran (.vadds (fAB 3)) (vecAB 3 [0x7FFFFFFF, 0x80000000, 5, 1] [1, 0xFFFFFFFF, 6, 2])
    (List.range 4).map (t.elem 32 4) = [0x7FFFFFFF, 0x80000000, 11, 3] := by decide +kernel
theorem test_vmulh : let t := ran (.vmulh (fAB 3)) (vecAB 3 [0x80000000, 0x40000000, 0xFFFFFFFF, 1] [0x80000000, 8, 1, 1])
    (List.range 4).map (t.elem 32 4) = [0x40000000, 2, 0xFFFFFFFF, 0] := by decide +kernel
/-- Under a mask the inactive elements keep their values. -/
theorem test_vadd_masked : let t := ran (.vadd { fAB 3 with mask := 13 }) (ctxOf (vecAB 3 [1, 2, 3, 4] [5, 6, 7, 8]) fun c => { c with m := c.m.set 5 5 })
    (List.range 4).map (t.elem 32 4) = [6, 0, 10, 0] := by decide +kernel

theorem witness_VectorFloats : VecForm (vecAB 11 [0x3F800000] [0x40000000]) 11 [4, 2, 3] ∧ tyFloat 11 = true ∧
    VecSpace (vecAB 11 [0x3F800000] [0x40000000]) 32 1 :=
  ⟨vecForm_of _ _ _ (by decide +kernel), rfl, vecSpace_of _ _ _ (by decide +kernel)⟩
/-- `vfadd.fp32` of 1 + 2, 0.1 + 0.2 (inexact), ∞ − ∞ (invalid) and −0 + 0. -/
theorem test_vfadd : let t := ran (.vfadd (fAB 11)) (vecAB 11 [0x3F800000, 0x3DCCCCCD, 0x7F800000, 0x80000000] [0x40000000, 0x3E4CCCCD, 0xFF800000, 0])
    (List.range 4).map (t.elem 32 4) = [0x40400000, 0x3E99999A, 0x7FC00000, 0] ∧ t.c.fps.toNat % 64 = (fNV ||| fNX) := by decide +kernel

theorem witness_VectorCompares : VecForm (vecAB 3 [1, 2, 3, 4] [5, 6, 7, 8]) 3 [2, 3] ∧ (7 : BitVec 5).toNat < 8 ∧ tyFloat 3 = false ∧
    VecForm (vecAB 11 [0x3F800000] [0x40000000]) 11 [2, 3] ∧ tyFloat 11 = true ∧ (vec 3 4).c.vill = false :=
  ⟨vecForm_of _ _ _ (by decide +kernel), by decide, rfl, vecForm_of _ _ _ (by decide +kernel), rfl, by decide +kernel⟩
/-- Signed and unsigned compares differ on the sign bit. -/
theorem test_vcmp_lt : ((ran (.vcmpLt ⟨7, 0, 2, 3, 0, 3, 0⟩) (vecAB 3 [0xFFFFFFFF, 1, 5, 9] [0, 1, 6, 8])).c.mask 7) = 5 ∧
    ((ran (.vcmpLt ⟨7, 0, 2, 3, 0, 7, 0⟩) (vecAB 3 [0xFFFFFFFF, 1, 5, 9] [0, 1, 6, 8])).c.mask 7) = 4 := by decide +kernel
theorem test_mfirst : (ran (.mfirst ⟨4, 0, 5, 0⟩) (ctxOf (vec 3 4) fun c => { c with m := c.m.set 5 20 })).reg 4 = 2 ∧
    (ran (.mfirst ⟨4, 0, 5, 0⟩) (vec 3 4)).reg 4 = 0xFFFFFFFFFFFFFFFF := by decide +kernel

/-- A format of eight bits, E4M3 with bias 7, a format register that holds it, and INT8. -/
def e4m3 : Nat := 8 + 4 * 2 ^ 7 + 7 * 2 ^ 20
def int8 : Nat := 8 + 2 ^ 18
def withFormat (s : State) (k x : Nat) : State := ctxOf s fun c => { c with f := c.f.setIfInBounds k (wd x) }

theorem witness_VectorConversions : VecReady (vec 11 4) ∧
    (max 32 32 = (vec 11 4).c.ew ∧ groupOk 1 4 = true ∧ groupOk 1 2 = true ∧ VecSpace (vec 11 4) 32 1) ∧
    (fmtValid (wd e4m3) = true ∧ fmtCLS (wd e4m3) < 2 ∧ fmtCLS (wd e4m3) = 0 ∧ hasEsc (wd e4m3) = false ∧ hasScl (wd e4m3) = false ∧
      groupRegs 1 8 32 = 1 ∧ groupsOk [(4, 1)] [(2, 1)] = true ∧ (vec 11 4).rm ≠ 4 ∧ VecSpace (vec 11 4) 8 1) ∧
    fmtValid 7 = false ∧ (vec 11 4).c.ew ≠ max 64 32 := by
  refine ⟨vecReady_of _ (by decide +kernel), ⟨by decide +kernel, by decide +kernel, by decide +kernel,
    vecSpace_of _ _ _ (by decide +kernel)⟩, ⟨by decide +kernel, by decide +kernel, by decide +kernel, by decide +kernel, by decide +kernel,
    by decide +kernel, by decide +kernel, by decide +kernel, vecSpace_of _ _ _ (by decide +kernel)⟩, by decide +kernel, by decide +kernel⟩
/-- E4M3 with subnormals: the codes of 1, 256, −2⁻⁹ (the smallest subnormal) and 0; and back. -/
theorem test_vqnt : let t := ran (.vqnt ⟨4, 0, 2, 0, 0, 13, 0x1B⟩) (withFormat (vecAB 11 [0x3F800000, 0x43800000, 0xBB000000, 0] []) 1 (e4m3 + 2 ^ 11))
    (List.range 4).map (t.elem 8 4) = [0x38, 0x78, 0x81, 0] := by decide +kernel
theorem test_vdq : let t := ran (.vdq ⟨4, 0, 2, 0, 0, 11, 0x10⟩) (withFormat (elems (vec 11 4) 8 2 [0x38, 0x78, 0x81, 0]) 1 (e4m3 + 2 ^ 11))
    (List.range 4).map (t.elem 32 4) = [0x3F800000, 0x43800000, 0xBB000000, 0] := by decide +kernel

theorem witness_VectorReductions : VecForm (vecAB 3 [1, 2, 3, 4] [10]) 3 [4, 2, 3] ∧ VecSpace (vecAB 3 [1, 2, 3, 4] [10]) 32 1 ∧
    (4 : BitVec 5) ≠ 2 ∧ (4 : BitVec 5) ≠ 3 ∧ VecForm (vecAB 3 [1, 2, 3, 4] [10]) 3 [2, 2, 3] :=
  ⟨vecForm_of _ _ _ (by decide +kernel), vecSpace_of _ _ _ (by decide +kernel), by decide, by decide, vecForm_of _ _ _ (by decide +kernel)⟩
theorem test_vrsum : (ran (.vrsum (fAB 3) false) (vecAB 3 [1, 2, 3, 0xFFFFFFFF] [10])).elem 32 4 0 = 15 := by decide +kernel
theorem test_vscan : let t := ran (.vscanAdd (fAB 3)) (vecAB 3 [1, 2, 3, 4] [10])
    (List.range 4).map (t.elem 32 4) = [11, 13, 16, 20] := by decide +kernel

theorem witness_VectorMoves : VecSpace (vecAB 3 [1, 2, 3, 4] [3, 0, 9, 1]) 32 1 ∧ VecForm (vecAB 3 [1, 2, 3, 4] [3, 0, 9, 1]) 3 [4, 2] ∧
    VecForm (vecAB 3 [1, 2, 3, 4] [3, 0, 9, 1]) 3 [3] ∧ VecForm (vecAB 3 [1, 2, 3, 4] [3, 0, 9, 1]) 3 [2, 3] ∧ (4 : BitVec 5) ≠ 2 ∧
    (vecAB 3 [1, 2, 3, 4] [3, 0, 9, 1]).segments = [{ lo := 0, n := (vecAB 3 [1, 2, 3, 4] [3, 0, 9, 1]).lanes }] :=
  ⟨vecSpace_of _ _ _ (by decide +kernel), vecForm_of _ _ _ (by decide +kernel), vecForm_of _ _ _ (by decide +kernel),
    vecForm_of _ _ _ (by decide +kernel), by decide, by decide +kernel⟩
/-- A gang across two dies, half the lanes on each: a seat of core 3 with one of core 35. -/
def gangState : State :=
  { base with
    c := { base.c with core := 3, vcfg := 0x300, vl := 512, gang := [(35, 0)] }
    seats := base.seats ++ [Seat.start 3 0 1 0 0, { Seat.start 35 0 1 0 0 with gangOf := some 0 }] }
theorem witness_VectorMoves_exchange : VecSpace gangState 32 1 ∧ VecForm gangState 3 [4, 2] ∧ gangState.lanes = 2 * 256 ∧
    gangState.segments = [{ lo := 0, n := 256 }, { lo := 256, n := 256 }] ∧ gangState.c.vlen % (2 * 256) = 0 :=
  ⟨vecSpace_of _ _ _ (by decide +kernel), vecForm_of _ _ _ (by decide +kernel), by decide +kernel, by decide +kernel, by decide +kernel⟩
theorem test_vperm : let t := ran (.vperm (fAB 3)) (vecAB 3 [1, 2, 3, 4] [3, 0, 9, 1])
    (List.range 4).map (t.elem 32 4) = [4, 1, 0, 2] := by decide +kernel
theorem test_vcomp : let t := ran (.vcomp ⟨4, 0, 2, 0, 13, 3, 0⟩) (ctxOf (vecAB 3 [1, 2, 3, 4] []) fun c => { c with m := c.m.set 5 10 })
    (List.range 4).map (t.elem 32 4) = [2, 4, 0, 0] := by decide +kernel

theorem witness_VectorTraps : (ctxOf base fun c => { c with vcfg := 2 ^ 63 }).c.vill = true ∧ tyWidth 8 ≠ (vec 3 4).c.ew ∧
    (ctxOf (vec 3 4) fun c => { c with vcfg := 0x310 }).c.grp = 2 ∧
    (let s := ctxOf (vec 3 4) fun c => { c with perr := some (0, 7) }
    s.c.vill = false ∧ s.c.resuming = false ∧ s.c.prog = [] ∧ s.c.stop = none ∧ s.c.perr = some (0, 7) ∧ 0 / 256 * 256 < s.c.vlen ∧ tyWidth 3 = s.c.ew ∧ s.c.grp = 1 ∧
      s.c.tst.getLsbD 2 = false ∧ (s.part 0).evs.length < 64) := by decide +kernel

/-! ## Witnesses: vector memory -/

/-- Four 32-bit elements of stream 5 in the scratchpad from 0x40, stride 8, with stream 6 invalid. -/
def vmem (vst : Bool) : State :=
  let s := ctxOf (vecAB 3 [1, 2, 3, 4] [4, 0, 8, 12]) fun c =>
    { c with vcfg := 0x301, q := c.q.setIfInBounds 5 { base := 0x40, stride := 8, valid := true } }
  { (s.setPart 0 fun p => { p with st := .live }) with
    mem := if vst then [] else setCells (setCells [] (keyCore 64 0x40) (leBytes 4 0x11223344)) (keyCore 64 0x48) (leBytes 4 0x55667788) }

theorem witness_VectorMemory : (vmem false).c.hold = none ∧ (vmem false).c.stop = none ∧ (vmem false).c.stopping = none ∧
    (vmem false).c.perr = none ∧ fillsOut (vmem false) = false ∧ (vmem false).c.vill = false ∧ tyWidth 3 = (vmem false).c.ew ∧
    ((vmem false).c.stream 5).valid = true ∧ ((vmem false).c.stream 6).valid = false ∧ (15 : BitVec 5).toNat < 16 ∧ (vmem false).c.grp = 1 ∧
    (31 : BitVec 5).toNat + 1 ≤ 32 ∧ (29 : BitVec 5).toNat + 3 * (vmem false).c.grp ≤ 32 ∧ base.c.tst.getLsbD 2 = false := by decide +kernel
theorem witness_VectorMemory_loop : (let p := loadPlan (vmem false) 4 4 fun e => (List.range 1).map (streamElt (vmem false) 5 ((vmem false).c.stream 5) 4 e)
    let es := (vmem false).c.actives 0 (vmem false).c.startElem (vmem false).c.vlen
    let all := es.flatMap p.accesses
    meetsSO (vmem false) p all = false ∧
    (match vecElems p ((vmem false).setHold fun h => { h with pos := some 0 }) es with | .done _ => true | _ => false) = true) := by decide +kernel
/-- With stream 5 elsewhere: its first element is in the scratchpad share, and its second is misaligned or lies in no share. -/
def vmemAt (b stride : Nat) : State :=
  ctxOf (vmem false) fun c => { c with q := c.q.setIfInBounds 5 { base := wd b, stride := wd stride, valid := true } }
theorem witness_VectorMemory_fault : (let s := vmemAt 0xBFFF8 8
    match vecElems (loadPlan s 4 4 fun e => [streamElt s 5 (s.c.stream 5) 4 e 0]) s [0, 1, 2, 3] with
      | .fault c k _ _ _ => decide (c = 0x08 ∧ k = 1) | _ => false) = true := by decide +kernel
/-- The first GiB is an SO page, and the second element of the stream misses its translation. -/
theorem witness_VectorMemory_SO : (let s := ctxOf (bytesAt (vec 3 4) 12288 (leBytes 7 0xF040)) fun c =>
      { c with q := c.q.setIfInBounds 5 { base := 0x3FFFFFF8, stride := 8, valid := true } }
    let p := loadPlan s 4 4 fun e => [streamElt s 5 (s.c.stream 5) 4 e 0]
    let all := (s.c.actives 0 s.c.startElem s.c.vlen).flatMap p.accesses
    meetsSO s p all = true ∧ all.findSome? (fun x => (eltFault s x.1 p.w x.2).map fun c => (c, x.2.tv)) = some (0x06, 0x40000000)) := by
  decide +kernel
theorem test_vld : let t := ran (.vld ⟨4, 0, 5, 0, 0, 3, 0⟩) (vmem false)
    (List.range 4).map (t.elem 32 4) = [0x11223344, 0x55667788, 0, 0] ∧ (t.c.stream 5).pos = 4 := by decide +kernel
theorem test_vst : let t := ran (.vst ⟨0, 0, 5, 2, 0, 3, 0⟩) (vmem true)
    t.byteAt (keyCore 64 0x40) = 1 ∧ t.byteAt (keyCore 64 0x58) = 4 ∧ t.byteAt (keyCore 64 0x44) = 0 ∧ (t.c.stream 5).pos = 4 := by decide +kernel
/-- The second element misses its translation: space 0 at 0x3FFFFFF8 with stride 8 runs off the only mapped GiB. -/
theorem test_vld_fault : let s := ctxOf (vec 3 4) fun c => { c with q := c.q.setIfInBounds 5 { base := 0x3FFFFFF8, stride := 8, valid := true } }
    let t := ran (.vld ⟨4, 0, 5, 0, 0, 3, 0⟩) s
    t.c.cause = 0x06 ∧ t.c.tval = 0x40000000 ∧ t.c.es = 1 ∧ t.c.esk = 1 := by decide +kernel

/-- `vmem` on core 3. -/
def vmem3 : State :=
  { vmem false with c := { (vmem false).c with core := 3 }, seats := base.seats ++ [Seat.start 3 0 1 0 0],
                    mem := setCells (setCells [] (keyCore 3 0x40) (leBytes 4 0x11223344)) (keyCore 3 0x48) (leBytes 4 0x55667788) }
theorem witness_VectorLocalAccess_ready : VecReady vmem3 ∧ Quiet vmem3 vmem3.c.part vmem3.c.core ∧ VecSpace vmem3 32 1 :=
  ⟨vecReady_of _ (by decide +kernel), quiet_of _ _ _ (by decide +kernel), vecSpace_of _ _ _ (by decide +kernel)⟩
theorem witness_VectorLocalAccess_space : VecSpace (vmem false) 32 1 := vecSpace_of _ _ _ (by decide +kernel)
/-- The addresses of a stream form, of one of two fields, of an indexed form, and of the indexed lane form. -/
theorem witness_VectorLocalAccess : let s := vmem3
    let good := fun a => decide (a % 4 = 0 ∧ a + 4 ≤ 0x300000) && ownsPos s s.c.part s.c.core (a / 0xC0000)
    tyWidth 3 = s.c.ew ∧ s.c.hold = none ∧ s.c.stopping = none ∧ s.c.space = 1 ∧ (s.c.stream 5).valid = true ∧ s.c.tst.getLsbD 2 = false ∧ fillsOut s = false ∧
    ((List.range s.c.vlen).all fun e => good (0x40 + e * 8) && good (0x44 + e * 8)) = true ∧
    ((List.range s.c.vlen).map fun e => s.elem 32 3 e) = [4, 0, 8, 12] ∧ ([0x44, 0x40, 0x48, 0x4C].all good) = true ∧
    s.c.gang = [] ∧ (0x46 : Nat) % 4 ≠ 0 ∧ ownsPos s s.c.part s.c.core (0xC0000 / 0xC0000) = false ∧
    s.mySeat.laneBase s.c.slot + s.lanes ≤ 256 ∧ s.mySeat.part = s.c.part ∧ s.mySeat ∈ s.seats ∧ s.mySeat.core = s.c.core ∧
    ((List.range s.c.vlen).all fun e => decide ((e / s.lanes * 4) % 4 = 0 ∧ (e / s.lanes * 4) / 512 < s.mySeat.pos + s.mySeat.size)) = true ∧
    ([4, 0, 8, 12].all fun a => decide (a % 4 = 0 ∧ s.mySeat.pos ≤ a / 512 ∧ a / 512 < s.mySeat.pos + s.mySeat.size)) = true := by
  decide +kernel

/-! ## Witnesses: the matrix array, descriptors, copies and the tile cache -/

/-- A descriptor image: SPACE, BASE, TYPE, KIND, ALT, and EXT and STR of its dimensions; the rest have EXT 1 (R332). -/
def image (space at_ ty bk alt : Nat) (dims : List (Nat × Nat)) : List Byte :=
  leBytes 8 (space * 2 ^ 56 + at_) ++ [BitVec.ofNat 8 ty, BitVec.ofNat 8 bk, 0, 0] ++ leBytes 8 alt ++
    ((dims ++ List.replicate (9 - dims.length) (1, 0)).flatMap fun (d : Nat × Nat) => leBytes 12 (d.1 + d.2 * 2 ^ 32))

/-- A descriptor register with an image. -/
def withDesc (s : State) (n : Nat) (img : List Byte) : State := ctxOf s fun c => { c with d := c.d.setIfInBounds n img }

/-- An INT8 pass of one element: A(0, 0) is the byte at the scratchpad's start, W(0, 0) = 2, and one column. -/
def geo1 : Nat := 0x010100111111
def mm : State :=
  let s := withFormat (withDesc (vec 3 1) 5 (image 1 0 1 0 0 [(1, 1)])) 1 int8
  { (ctxOf s fun c => { c with
      latch := some { addr := 0x10000, fmt := wd int8, complete := true }
      unf := some { desc := image 1 0 1 0 0 [(1, 1)], fmt := wd int8, geo := wd geo1 } }) with
    mem := setCells [] (keyCore 64 0) [3]
    seats := [{ Seat.start 64 0 1 0 0 with
      bank := some { owner := 0, addr := 0x10000, fmt := wd int8, rows := 256, codes := [2], scales := [], lists := [] } }] }

theorem witness_MatrixArray_mwld : mm.c.vill = false ∧ fmtUse mm 1 [0, 1, 2, 3] = some (wd int8) ∧ ready mm = true ∧ mm.c.hold = none ∧
    (mm.seat? 64 0).isSome = true ∧ (0x10001 : Nat) % 256 ≠ 0 ∧ (0x10100 : Nat) % 256 = 0 := by decide +kernel
/-- A line that lies near, outside HBM, in reach and free of poison and watchpoints. -/
def nearLine (s : State) (va : Nat) : Bool :=
  match windowPlace s (fetchAgent s) va 64 with
  | some p => p.pa.isNone && !poisoned s p.key 64 && !watchHit s (fetchAgent s).part .load va 64
  | none => false

/-- A tile whose lines all lie in such windows is read with the state as before. -/
theorem readTile_windows (s : State) (addr : Nat) (hn : s.ansOf (fetchAgent s) = none) : ∀ (ls : List TLine) (got : List Byte),
    (∀ l ∈ ls, resolve s (fetchAgent s) .load (addr + l.off) 64 = resolveRaw s (fetchAgent s) .load (addr + l.off) 64 ∧ addr + l.off < 2 ^ 56 ∧
      nbits (addr + l.off) 48 8 = 0xFE ∧ nearLine s (addr + l.off) = true) → ∃ bs, readTile s addr got ls = .done bs s := by
  intro ls
  induction ls with
  | nil => exact fun got _ => ⟨got, rfl⟩
  | cons l t ih =>
    intro got h
    obtain ⟨h1, h2, h3, h4⟩ := h l (by simp)
    have : ∃ bs, loadMem s (fetchAgent s) (addr + l.off) 64 = .ok bs s := by
      unfold nearLine at h4
      split at h4
      · next p hp =>
        simp only [Bool.and_eq_true, Bool.not_eq_true', Option.isNone_iff_eq_none] at h4
        refine ⟨readPlace s p 64, ?_⟩
        unfold loadMem
        rw [hn, h1, resolveRaw, if_neg (by omega), if_pos h3, hp]
        simp [h4, cacheRead]
      · cases h4
    obtain ⟨bs, hb⟩ := this
    rw [readTile, hb]
    exact ih _ fun l hl => h l (by simp [hl])

/-- A tile of INT4 in the scratchpad of core 3. -/
def tileAt : Nat := 0xFE010000000000
def tileS : State :=
  { (ctxOf (regs (withFormat base 1 (4 + 2 ^ 18)) [(1, tileAt)]) fun c => { c with core := 3 }).setPart 0 fun p => { p with st := .live } with
    seats := [Seat.start 3 0 1 0 0] }
theorem witness_MatrixArray_tileLines : ((tileLines (wd (4 + 2 ^ 18)) 0).all fun l => decide (tileAt + l.off < 2 ^ 56) &&
    nbits (tileAt + l.off) 48 8 == 0xFE && nearLine tileS (tileAt + l.off)) = true := by decide +kernel
theorem witness_MatrixArray_tile : ∃ bs, readTile tileS tileAt [] (tileLines (wd (4 + 2 ^ 18)) 0) = .done bs tileS := by
  refine readTile_windows _ _ rfl _ _ fun l hl => ?_
  have h := List.all_eq_true.1 witness_MatrixArray_tileLines l hl
  simp only [Bool.and_eq_true, decide_eq_true_eq, beq_iff_eq] at h
  exact ⟨rfl, h.1.1, h.1.2, h.2⟩
theorem witness_MatrixArray_scratchpad : Quiet tileS tileS.c.part tileS.c.core ∧ ready tileS = true ∧ tileAt = windowAddr 1 0 ∧
    ((tileLines (wd (4 + 2 ^ 18)) 0).all fun l => decide (0 + l.off + 64 ≤ 0x300000) && ownsPos tileS 0 3 ((0 + l.off) / 0xC0000)) = true :=
  ⟨quiet_of _ _ _ (by decide +kernel), by decide +kernel, by decide, by decide +kernel⟩
theorem witness_MatrixArray_tileBad : tileBad tileS tileAt (tileElts tileS tileAt (tileLines (wd (4 + 2 ^ 18)) 0)) = none := by decide +kernel

theorem witness_MatrixArray_unf : ((mm.c.desc 5).any fun d => unfOk d (wd int8) (wd geo1)) = true ∧
    ((mm.c.desc 5).any fun d => unfOk d (wd int8) 0) = false := by decide +kernel
theorem witness_MatrixArray_mmla : mmKept mm = none ∧ (mmCapture mm ⟨4, 0, 0, 0, 0, 0, 0⟩).isSome = true ∧ ready mm = true ∧ mm.dlen ≤ 32 ∧ mm.lanes ≤ 2048 ∧ cellsWf (0 : BitVec 36) mm.c.a = true ∧
    ((mm.mySeat.bank).any fun b => b.holds mm.c.id 0x10000 (wd int8) 256) = true ∧
    ((List.range (mm.c.grp * mm.dlen)).all fun m =>
      match unfRow mm { desc := image 1 0 1 0 0 [(1, 1)], fmt := wd int8, geo := wd geo1 } 0 m with | .ok _ => true | _ => false) = true ∧
    fmtCLS (wd int8) = 1 ∧ ((ctxOf mm fun c => { c with vl := 0 }).c.actives 0 0 0) = [] := by decide +kernel
/-- 3 × 2 in accumulator a4, row 0, column 0. -/
theorem test_mmla : let t := ran (.mmla ⟨4, 0, 0, 0, 0, 0, 0⟩) mm
    t.acc 4 0 0 = 6 ∧ t.acc 4 1 0 = 0 ∧ t.c.kcur = 256 := by decide +kernel

/-- An entry of the Spillway that core 64's context owns. -/
def spillS : State := { base with seats := [{ Seat.start 64 0 1 0 0 with spill := [⟨4, 0, 7, -3⟩] }] }
theorem witness_MatrixArray_spillway : spillS.c.alive = true ∧ (spillS.seat? 64 0).any (fun x => x.spill == [⟨4, 0, 7, -3⟩] &&
    spillS.c.ownsSpill x ⟨4, 0, 7, -3⟩ && decide (x.size ≤ 4)) = true ∧ 1 ≤ spillS.c.priv.toNat ∧ cellsWf (0 : BitVec 36) spillS.c.a = true := by
  decide +kernel
theorem test_spw_drain : let t := ran (.spwDrain h1) spillS
    (t.acc 4 0 7).toInt = -3 * 2 ^ 20 ∧ t.mySeat.spill = [] := by decide +kernel

theorem witness_Accumulators : (vec 3 4).c.vill = false ∧ (vec 3 4).c.et ∈ [0, 3, 7, 11, 14] ∧ 28 % (vec 3 4).c.grp = 0 ∧ 31 + (vec 3 4).c.grp ≤ 32 ∧
    1 ≤ (vec 3 4).lanes ∧ (vec 3 4).c.vlen ≤ (vec 3 4).lanes * (vec 3 4).dlen * (vec 3 4).c.grp ∧ cellsWf (0 : BitVec 36) (vec 3 4).c.a = true ∧
    2 % groupRegs (vec 3 4).c.grp 32 32 = 0 ∧ (some (0 : Word) = some 0 ∧ hasScl 0 = false ∧ hasEsc 0 = false) ∧ (vec 3 4).mySeat.spill = [] ∧
    fmtUse (withFormat (vec 3 4) 1 e4m3) 1 [0, 1] = some (wd e4m3) ∧ (vec 3 4).rm ≠ 4 := by decide +kernel
theorem test_aci_add_saturates : let s := ran (.aci ⟨4, 0, 2, 0, 0, 3, 0⟩) (vecAB 3 [0x7FFFFFFF, 0x80000000] [])
    let step := fun (s : State) => ran (.aciAdd ⟨4, 0, 2, 0, 0, 3, 0⟩) s
    let t := (List.range 16).foldl (fun s _ => step s) s
    (t.acc 4 0 0).toInt = 2 ^ 35 - 1 ∧ (t.acc 4 0 1).toInt = -(2 ^ 35) ∧ t.c.sat.getLsbD 4 = true := by decide +kernel

/-- An image at 2^31 + 0x9000 for `dld`. -/
def dldS (img : List Byte) : State := regs (hosted (bytesAt base (2 ^ 51 + 0x9000) img)) [(1, 2 ^ 31 + 0x9000)]
def dldF : H2 := ⟨5, 0, 1, 2, 0, 0, 0⟩
def bindImg (bk : Nat) : List Byte := image 0 0x100000 5 bk 0x200000 [(64, 1)]
def reads (s : State) (P : List Byte → State → Bool) : Bool :=
  match loadLines s s.agent (2 ^ 31 + 0x9000) 2 with
  | .ok bs t => P bs t
  | _ => false

theorem witness_DescriptorsAndFormats_dld : (0x9000 : Nat) % 128 = 0 ∧ reads (dldS []) (fun bs _ => (parseDesc bs).isNone) = true ∧
    reads (dldS (bindImg 0)) (fun bs _ => (parseDesc bs).any fun d => d.bk == 0) = true ∧
    reads (dldS (bindImg 1)) (fun bs t => (parseDesc bs).any fun d => d.bk == 1 && !bindRefused t d && t.binds.isEmpty) = true ∧
    reads (dldS (bindImg 2)) (fun bs t => (parseDesc bs).any fun d => d.bk == 2 && t.copies.isEmpty) = true ∧ base.c.hold = none ∧
    reads { dldS (bindImg 1) with binds := [{ part := 0, base := 0x100000, alt := 0x200000, span := 64, cur := true, desc := [], torn := false }] }
      (fun bs t => (parseDesc bs).any fun d => d.bk == 1 && d.space == 0 && (d.dims.all fun x => decide (0 ≤ x.str)) && t.binds.any fun b =>
        b.base == d.base && b.alt == d.alt && b.span == (d.high + 1).toNat) = true := by decide +kernel
theorem witness_DescriptorsAndFormats_stores : (0x9001 : Nat) % 128 ≠ 0 ∧ isOk (storeMem (dldS []) base.agent (2 ^ 31 + 0x9000) (List.replicate 64 0)) = true ∧
    isOk (storeMem (dldS []) base.agent (2 ^ 31 + 0x9040) (List.replicate 64 0)) = true ∧ (0x9004 : Nat) % 8 ≠ 0 ∧
    isOk (loadMem base base.agent 0x9000 8) = true ∧ isOk (storeMem base base.agent 0x9000 (leBytes 8 0)) = true := by decide +kernel
/-- Its two lines lie in reach; a watchpoint covers the second alone. -/
def dstWatched : State := (dldS []).setPart 0 fun p => { p with wpt := p.wpt.set 0 (wd (2 ^ 63 + 6 * 2 ^ 56 + 2 ^ 31 + 0x9040)) }
theorem witness_DescriptorsAndFormats_dst : storeFault (dldS []) (2 ^ 31 + 0x9000) 64 = none ∧ storeFault (dldS []) (2 ^ 31 + 0x9040) 64 = none ∧
    (match resolve (dldS []) base.agent .store (2 ^ 31 + 0x9000) 64 with | .ok (.near _, _) => true | _ => false) = true ∧
    storeFault dstWatched (2 ^ 31 + 0x9000) 64 = none ∧ storeFault dstWatched (2 ^ 31 + 0x9040) 64 = some 0x0F ∧
    (match storeMem (dldS []) base.agent (2 ^ 31 + 0x9000) (List.replicate 64 0) with
      | .ok () t => isOk (storeMem t base.agent (2 ^ 31 + 0x9040) (List.replicate 64 0)) | _ => false) = true := by decide +kernel
/-- A remote leaf of 1 GiB that names this device itself, which has let it in. -/
def selfS : State :=
  { bytesAt base 12295 (leBytes 7 0xF441) with imports := [{ dev := 0, part := 0, base := 0, size := 2 ^ 30, wr := true, skew := 0 }] }
theorem witness_DescriptorsAndFormats_dst_far : storeFault selfS (2 ^ 30 + 0x9000) 64 = none ∧ storeFault selfS (2 ^ 30 + 0x9040) 64 = none ∧
    (match resolve selfS base.agent .store (2 ^ 30 + 0x9000) 64 with
      | .ok (.far d pa k, v) => decide (d = 0 ∧ pa = 0x9000) && (match resolve v base.agent .store (2 ^ 30 + 0x9040) 64 with
        | .ok (.far d' pa' _, u) => decide (d' = 0 ∧ pa' = 0x9000 + 64) && isOk (farAccess u base.agent d pa k 128 1 0 8 0 0 (List.replicate 128 0))
        | _ => false)
      | _ => false) = true := by decide +kernel
/-- `dld` binds a double-backed buffer with status 0, and unbinds with 4 where nothing is bound. -/
theorem test_dld_bind : let t := ran (.dld dldF) (dldS (bindImg 1))
    t.reg 2 = 0 ∧ t.binds.map Bind.base = [0x100000] ∧ (ran (.dld dldF) (dldS (bindImg 2))).reg 2 = 4 := by decide +kernel

/-- Two vectors of four FP32 elements in core 3's scratchpad, from 0 and from 0x100, as descriptors 5 (destination) and 6, and
descriptor 8 for the destination through the core's window. -/
def copyS : State :=
  let s := withDesc (withDesc (base.setPart 0 fun p => { p with st := .live }) 5 (image 1 0x100 11 0 0 [(4, 4)])) 6 (image 1 0 11 0 0 [(4, 4)])
  let s := ctxOf (withDesc s 8 (image 0 (windowAddr 1 0x100) 11 0 0 [(4, 4)])) fun c => { c with core := 3 }
  { bytesAt s (keyCore 3 0) [1, 2, 3, 4, 5, 6, 7, 8, 9, 10, 11, 12, 13, 14, 15, 16] with seats := base.seats ++ [Seat.start 3 0 1 0 0] }

/-- What `CopyInCsp` asks, to be computed. -/
def inCsp (s : State) (part core : Nat) (d src : Desc) (i : Nat) : Bool :=
  let own := fun (o : Nat) => decide (o + d.bytes ≤ 0x300000) && ownsPos s part core (o / 0xC0000)
  let ks := (List.range d.count).filter fun k => decide (i ≤ k)
  quiet s part core && ks.all fun k =>
    decide (dstAddr d k % d.bytes = 0) && (cspOff d.space (dstAddr d k)).any own &&
      (srcAddr d src k).all (fun a => decide (a % d.bytes = 0) && (cspOff src.space a).any own) &&
      ks.all fun k' => (k == k' || cspOff d.space (dstAddr d k) != cspOff d.space (dstAddr d k')) &&
        (srcAddr d src k').all fun a => cspOff src.space a != cspOff d.space (dstAddr d k)
theorem copyInCsp_of (s : State) (part core : Nat) (d src : Desc) (i : Nat) (h : inCsp s part core d src i = true) :
    CopyInCsp s part core d src i := by
  simp only [inCsp, Bool.and_eq_true, List.all_eq_true, List.mem_filter, List.mem_range, decide_eq_true_eq, Option.any_eq_true,
    Option.all_eq_true, Bool.or_eq_true, beq_iff_eq, bne_iff_ne] at h
  refine ⟨quiet_of _ _ _ h.1, fun k hi hk => ?_⟩
  obtain ⟨⟨⟨h1, o, h2, h3⟩, h4⟩, h5⟩ := h.2 k ⟨hk, hi⟩
  refine ⟨h1, ⟨o, h2, h3⟩, fun a ha => ?_, fun k' hi' hk' => ⟨fun hne => ?_, fun a ha => (h5 k' ⟨hk', hi'⟩).2 a ha⟩⟩
  · obtain ⟨h6, o', h7, h8⟩ := h4 a ha
    exact ⟨h6, o', h7, h8⟩
  · exact (h5 k' ⟨hk', hi'⟩).1.resolve_left hne

theorem witness_TensorCopies_scratchpad : ready copyS = true ∧ ∃ d src, copyDescs copyS 5 6 = some (d, src) ∧ CopyInCsp copyS 0 3 d src 0 :=
  ⟨by decide +kernel, _, _, rfl, copyInCsp_of _ _ _ _ _ _ (by decide +kernel)⟩
theorem witness_TensorCopies_tcopy : copyS.c.stopping = none ∧ copyS.c.perr = none ∧ copyDescs base 5 6 = none ∧ (copyDescs copyS 5 6).isSome = true ∧ copyS.c.hold = none ∧ copyS.c.stop = none ∧
    (match copyDescs copyS 5 6 with
      | some (d, src) =>
        let p := copyPlan copyS d src
        let o := uoOrder p copyS (span copyS.c.startElem d.count)
        !meetsSO copyS p ((span copyS.c.startElem d.count).flatMap p.accesses) &&
          (match vecElems p (o.1.setHold fun h => { h with pos := none }) o.2 with | .done _ => true | _ => false) && (bindOfDst copyS d).isNone
      | none => false) = true := by decide +kernel
theorem test_tcopy : let t := ran (.tcopy { h3 with d := 5, a := 6 }) copyS
    getCells t.mem (keyCore 3 0x100) 16 = [1, 2, 3, 4, 5, 6, 7, 8, 9, 10, 11, 12, 13, 14, 15, 16] := by decide +kernel
/-- A binding at 0x100000 and a destination descriptor inside it; and a queued copy of it. -/
def boundS : State :=
  { withDesc copyS 7 (image 0 0x100000 11 0 0 [(4, 4)]) with
    binds := [{ part := 0, base := 0x100000, alt := 0x200000, span := 64, cur := false, desc := bindImg 1, torn := false }] }
noncomputable def queued : State :=
  let s := ran (.tcopySh { h3 with d := 7, a := 6 }) boundS
  { s with copies := s.copies.map fun x => { x with slot := none } }
theorem witness_TensorCopies_shadow : (match copyDescs boundS 7 6 with | some (d, _) => (bindOfDst boundS d).isSome | none => false) = true ∧
    boundS.c.hold = none ∧ boundS.c.stopping = none ∧ (copyById queued 0).any (fun x => x.slot.isNone && (parseDesc x.dst).isSome && (parseDesc x.src).isSome &&
      (freeCopySlot queued x.core x.pos).isSome) = true ∧ (queued.part 0).ckPhase = 0 ∧ queued.copies.length = 1 := by decide +kernel
theorem witness_TensorCopies_completion : let s := ran (.copyHandoff 0) queued
    (copyById s 0).any (fun x => !x.due 0 && x.due (2 ^ 21) && x.got.isNone) = true := by decide +kernel
theorem witness_TensorCopies_handoff : (copyById queued 0).any (fun x => (queued.copies.filter fun y => sameSeat x y && y.slot.isNone) == [x]) = true := by
  decide +kernel
/-- A copy of `tcopy.cb` into a slot whose address lies in the core's window. -/
def slotCopy : Copy :=
  { copyX with core := 3, kind := .slot 7 0 1000, dst := image 0 (windowAddr 1 0x100) 11 0 0 [(4, 4)], src := image 1 0 11 0 0 [(4, 4)], slot := some 12,
               next := 0, fault := none }
theorem witness_TensorCopies_slot : copyById { copyS with copies := [slotCopy] } 1 = some slotCopy ∧ slotCopy.due copyS.now = true ∧
    slotCopy.got = none ∧ ∃ d src, parseDesc slotCopy.dst = some d ∧ parseDesc slotCopy.src = some src ∧
      CopyInCsp { copyS with copies := [slotCopy] } 0 3 d src 0 :=
  ⟨by decide +kernel, by decide +kernel, rfl, _, _, rfl, rfl, copyInCsp_of _ _ _ _ _ _ (by decide +kernel)⟩
/-- Its last element is done. -/
theorem witness_DescriptorsAndFormats_done : (let s := { copyS with copies := [{ slotCopy with next := 4 }] }
    (copyById s 1).any (fun x => x.due s.now && (parseDesc x.src).isSome && (parseDesc x.dst).any fun d => decide (d.count ≤ x.next)) = true) := by
  decide +kernel
theorem test_copy_completion : let t := ran (.copyCompletion 1) { copyS with copies := [slotCopy] }
    getCells t.mem (keyCore 3 0x100) 16 = [1, 2, 3, 4, 5, 6, 7, 8, 9, 10, 11, 12, 13, 14, 15, 16] ∧ t.copies = [] := by decide +kernel
theorem witness_TensorCopies_buffer : (1000 ≤ base.tick.toNat + base.myPart.whz.toNat) ∧ ¬(2 ^ 21 ≤ base.tick.toNat + base.myPart.whz.toNat) ∧
    (match copyDescs copyS 5 6 with | some (d, _) => decide (0 ≤ d.low ∧ d.high < 2 ^ 6 ∧ ¬2 ^ 3 ≤ d.low) | none => false) = true ∧
    ((bufOf (withBuf copyS (bufOf4 (List.replicate 4 .free))) 0 7).any fun b => !b.closed && decide (b.reach base < 4)) = true := by decide +kernel
theorem witness_TensorCopies_pub : ((copyS.c.desc 9).bind fun d => if d.space = 0 then bindAt copyS 0 d.base else none) = none ∧
    ((boundS.c.desc 7).bind fun d => if d.space = 0 then bindAt boundS 0 d.base else none).isSome = true ∧ shadowQueued boundS = false ∧
    fillsOut boundS = false ∧ boundS.copies = [] ∧ boundS.c.hold = none ∧
    (bindAt boundS 0 0x100000).map Bind.torn = some false ∧ fillsOut { boundS with msgs := filling.msgs } = true := by decide +kernel
/-- A handed-off shadow copy of the binding that runs, and one that has stopped at a fault. -/
def shadowCopy (fault : Option (Nat × Nat)) : Copy := { copyX with kind := .shadow 0x100000 true, fault := fault }
theorem witness_TensorCopies_pub_copies : ((shadowCopy none).shadows 0 0x100000 && (shadowCopy none).slot.isSome) = true ∧
    (shadowCopy none).fault = none ∧ (shadowCopy (some (0x06, 0xB000))).fault ≠ none ∧
    shadowQueued { boundS with copies := [shadowCopy none] } = false ∧
    ({ boundS with copies := [shadowCopy (some (0x06, 0xB000))] } : State).copies.all (fun x => !x.shadows 0 0x100000 || x.fault.isSome) = true ∧
    (bindAt { boundS with binds := boundS.binds.map fun b => { b with torn := true } } 0 0x100000).map Bind.torn = some true := by decide +kernel

/-- A dense tensor of 4 rows of 512 bytes at 0x100000, registered with tiles of 512 bytes. -/
def tensor : List Byte := image 0 0x100000 5 0 0 [(512, 1), (4, 512)]
def winS : State := regs (withDesc (bytesAt base 12288 (leBytes 7 0xF442)) 5 tensor) [(2, 9), (1, 0x100000)]
noncomputable def window : State := ran (.tcReg { h3 with d := 4, a := 5, b := 2, imm := 2 }) winS
theorem witness_TileCache_reg : base.c.desc 5 = none ∧ (winS.c.desc 5).any (fun d => denseFrom d.bytes d.dims && decide (d.space = 0)) = true := by
  decide +kernel
theorem test_tc_reg : window.reg 4 = 0 ∧ window.wins.map (fun w => (w.id, w.base, w.s0)) = [(9, 0x100000, 512)] ∧
    (ran (.tcReg { h3 with d := 4, a := 5, b := 2, imm := 2 }) window).reg 4 = 1 := by decide +kernel
theorem witness_TileCache_windows : winById winS 9 = none ∧ (winById window 9).isSome = true ∧ window.redir = [] ∧ Memory.wf window.mem = true ∧
    window.stale = [] ∧ fillsOut winS = false ∧ fillsOut window = false ∧ fillsOut { window with msgs := filling.msgs } = true ∧
    (winById window 9).any (fun w => !tensorBusy window w) = true := by decide +kernel
/-- A sector of the tensor whose bytes at its port are not those memory keeps. -/
noncomputable def staleS : State :=
  { bytesAt window 0x100000 [7] with stale := [{ sec := 0x2000, tile := ⟨0, 9, 0, 0⟩, old := List.replicate 128 1 }] }
theorem witness_TileCache_busy : (winById staleS 9).any (fun w => !tensorBusy staleS w &&
    tensorBusy { staleS with migrs := [{ src := 0x10, dst := 0x20, dirty := [], switching := true }] } w) = true := by decide +kernel
/-- `tc.inv` gives memory what the port of a dirty sector of the tensor holds, and forgets the sector. -/
theorem test_tc_inv : let t := ran (.tcInv { h3 with d := 4, a := 2 }) staleS
    t.byteAt 0x100000 = 1 ∧ t.byteAt 0x10007F = 1 ∧ t.stale = [] ∧ t.wins.map Win.gen = [1] := by decide +kernel

/-- A window of one tile of 4 rows of 16 elements of 64 bits at an address. -/
def win9 (at_ frame : Nat) : Win :=
  { part := 0, id := 9, base := at_, size := 512, desc := image 0 at_ 8 0 0 [(16, 8), (4, 128)], r0 := 128, ext1 := 4, s0 := 128, gen := 0,
    pages := [(frame, at_ / 4096)] }
/-- The window in host memory. -/
def haloS : State := { hosted base with wins := [win9 (2 ^ 31 + 0x100000) (2 ^ 39 + 0x100)] }
theorem witness_TileCache_halo : winAt winS 0x100000 = none ∧ haloS.c.hold = none ∧
    (match winAt haloS (2 ^ 31 + 0x100000) with
      | some (w, d) => decide (¬w.s0 < 1 * d.bytes ∧ 512 / w.s0 < 5 ∧ w.s0 < 17 * d.bytes) &&
          (let addrs := haloAddrs w d (2 ^ 31 + 0x100000) 1 0
           decide (0 + addrs.length * d.bytes ≤ 0xC0000 ∧ haloFault haloS d.bytes addrs = none) &&
           (match haloRead haloS d.bytes [] addrs with | (.ok _ u, _) => decide (Memory.wf u.mem = true ∧ u.c = haloS.c) | _ => false))
      | none => false) = true := by decide +kernel
/-- The window in device memory, on a page of 4 KiB whose leaf has V, RD, WR, EX, ACC and TW set; core 3's seat asks. -/
def haloN : State :=
  { (base.setPart 0 fun p => { p with st := .live }) with
    c := { base.c with core := 3 }
    seats := base.seats ++ [Seat.start 3 0 1 0 0]
    mem := setCells (setCells (setCells (setCells (setCells [] 4096 (leBytes 7 0x28000)) 8192 (leBytes 7 0x38000)) 12288 (leBytes 7 0x48000)) 16384
      (leBytes 7 0x58000)) 0x5800 (leBytes 7 0x100F40A)
    skews := [(0x100, 0)]
    wins := [win9 0x100000 0x100] }
def readable (s : State) (va n : Nat) : Bool :=
  decide (va < 2 ^ 56 ∧ nbits va 48 8 ≠ 0xFE) &&
    match walkFrom s s.agent .load va s.myPart.root [4, 3, 2, 1, 0] with
    | .leaf e _ _ => decide (eACC e = true ∧ eRD e = true ∧ eRMT e = false ∧ eKind e = 1 ∧ eSize e = 0 ∧
        physOk s s.agent (eFrame e * 4096 + va % 4096) n = true ∧ eFrame e * 4096 + va % 4096 < hbmEnd ∧
        frameSkew s (eFrame e * 4096 + va % 4096) = some (eSkew e))
    | .fault _ => false
theorem readable_of (s : State) (va n : Nat) (h : readable s va n = true) : ∃ k, Readable s va n k := by
  simp only [readable, Bool.and_eq_true, decide_eq_true_eq] at h
  obtain ⟨⟨h1, h2⟩, h3⟩ := h
  split at h3
  · next e ea line he =>
    obtain ⟨a, b, c, d, f, g, i, j⟩ := of_decide_eq_true h3
    exact ⟨_, h1, h2, e, ea, line, he, a, b, c, d, f, g, i, j, rfl⟩
  · cases h3
theorem haloN_readable : (match winAt haloN 0x100000 with
    | some (w, d) => (haloAddrs w d 0x100000 1 0).all fun x => x.all fun a => readable haloN a d.bytes | none => false) = true := by decide +kernel
theorem witness_TileCache_haloReadable : Quiet haloN haloN.c.part haloN.c.core ∧ haloN.tlb = [] ∧ haloN.c.hold = none ∧
    ∃ w d, winAt haloN 0x100000 = some (w, d) ∧ ∀ x, some x ∈ haloAddrs w d 0x100000 1 0 → ∃ k, Readable haloN x d.bytes k := by
  refine ⟨quiet_of _ _ _ (by decide +kernel), rfl, rfl, ?_⟩
  have h := haloN_readable
  split at h
  · next w d hw => exact ⟨w, d, hw, fun x hx => readable_of _ _ _ (by simpa using List.all_eq_true.1 h _ hx)⟩
  · cases h

/-! ## Witnesses: groups and reductions, wavelengths -/

/-- A group of devices 0 and 3 with its home on the member of index h: FP32, 4 elements, GRACE 60000, and member 0 the root. -/
def groupBytes (h : Nat) : List Byte :=
  [2, BitVec.ofNat 8 h, 11, 0] ++ leBytes 4 4 ++ leBytes 2 60000 ++ List.replicate 54 0 ++ leBytes 2 0 ++ leBytes 2 3 ++ List.replicate 124 0 ++
    List.replicate 64 0
def group0 (h : Nat) (reds : List Red) : Grp := { part := 0, g := 2, record := groupBytes h, me := 0, reds := reds }
def grouped (s : State) (h : Nat) (reds : List Red) : State := { s with grps := [group0 h reds] }
def gF : H3 := { h3 with d := 4, a := 2, b := 3, dl := 1, ty := 11, imm := 2 }

/-- The record in host memory, at 2^31 + 0x9000. -/
def groupAt (h : Nat) : State := regs (hosted (bytesAt base (2 ^ 51 + 0x9000) (groupBytes h))) [(1, 2 ^ 31 + 0x9000)]
theorem witness_GroupsAndReductions_def : (match loadLines (groupAt 0) base.agent (2 ^ 31 + 0x9000) 4 with
      | .ok r t => decide (r = groupBytes 0 ∧ grpOk r (boundOf t 4) = true ∧ grpMember r (grpHome r) = t.dev ∧ entryFree t 0 0 = true) | _ => false) = true ∧
    (match loadLines (groupAt 1) base.agent (2 ^ 31 + 0x9000) 4 with
      | .ok r t => decide (grpMember r (grpHome r) ≠ t.dev) | _ => false) = true ∧
    (match loadLines (hosted base) base.agent (2 ^ 31 + 0x9000) 4 with | .ok r t => !grpOk r (boundOf t 4) | _ => false) = true ∧ (0x9001 : Nat) % 64 ≠ 0 ∧
    grpMember ((groupBytes 0).set 128 0) 0 = 0 ∧ grpOk ((groupBytes 0).set 64 9) (boundOf base 4) = true ∧
    grpMember ((groupBytes 0).set 64 9) 0 = 9 := by decide +kernel
/-- `mgrp.def` gives the member's index, and sets up the meeting at its home. -/
theorem test_mgrp_def : let t := ran (.mgrpDef { h3 with d := 4, a := 1, imm := 2 }) (groupAt 0)
    t.reg 4 = 0 ∧ (grpOf t 0 2).map Grp.me = some 0 ∧ (meetOf t (.group 0 2)).map Meet.memb = some 3 := by decide +kernel

theorem witness_GroupsAndReductions_use : grpOf base 0 2 = none ∧ (grpOf (grouped base 0 []) 0 2).isSome = true ∧ grpWaits base 0 2 true = false ∧
    grpWaits (waiting base (.plain 4 0) (some (.group 0 2)) 0 1500) 0 2 true = true ∧ base.uns = true ∧ (synced base).uns = false ∧ fillsOut base = false ∧ fillsOut filling = true ∧
    redShapeOk (vec 11 4) gF = true ∧ redShapeOk (vec 11 4) { gF with a := 4 } = false ∧ (vec 11 4).c.vlen = 4 ∧ grpLen (groupBytes 0) = 4 ∧
    grpTy (groupBytes 0) = 11 ∧ (vec 11 3).c.vlen ≠ 4 ∧
    (1000 ≤ base.tick.toNat + base.myPart.whz.toNat ∧ base.tick.toNat + base.myPart.whz.toNat < 0x200000) := by decide +kernel
theorem witness_GroupsAndReductions_mst : mstFault (grouped (vec 11 4) 0 []) gF = none ∧ mstFault (vec 11 4) gF ≠ none ∧
    (vec 11 4).c.actives 0 0 4 = [0, 1, 2, 3] ∧ (vec 11 0).c.actives 0 0 0 = [] ∧ mstMembers (group0 0 []) = [1] ∧ (vec 11 4).c.hold = none := by
  decide +kernel
/-- A multicast store that waits for member 1, and one whose answer has come. -/
def mstHeld (a : Option FAns) : State := ctxOf base fun c => { c with hold := some { stamp := 990, aux := [1], many := [(0, a)] } }
theorem witness_GroupsAndReductions_mstHeld : (mstHeld none).c.hold.any (fun h => h.many.any fun x => x.2.isNone) = true ∧
    (mstHeld (some ⟨0, 0⟩)).c.hold.any (fun h => h.many.all fun x => x.2.isSome) = true := by decide +kernel
theorem test_mst_mask : (ran (.mst gF) (mstHeld (some ⟨0, 0⟩))).reg 4 = 0 ∧ (ran (.mst gF) (mstHeld (some ⟨3, 0⟩))).reg 4 = 2 := by decide +kernel

/-- The root's reduction of four ones, whose verdict has come, with this context's `mld.red` waiting. -/
def red0 : Red :=
  { arrivals := [⟨0, 1000, List.replicate 4 0x3F800000, true⟩],
    verdict := some { gen := 0, code := wsMET, absent := 0, joined := 0, pres := 3 }, parts := [], sent := false, result := none }
def redS (r : Red) : State := waiting (grouped (vec 11 4) 0 [r]) (.reduce 4 5 6 2) (some (.group 0 2)) 0 1500
theorem witness_GroupsAndReductions_steps : grpOf base 0 2 = none ∧ grpOf (redS red0) 0 2 = some (group0 0 [red0]) ∧ grpLen (group0 0 [red0]).record = 4 ∧
    (redS red0).c.alive = true ∧ (redS red0).c.entering = false ∧ (redS red0).c.wait = some ⟨.reduce 4 5 6 2, some (.group 0 2), 0, 1000, 1500, none⟩ ∧
    (32 ∈ [8, 16, 32, 64] ∧ 1 ≤ (redS red0).lanes ∧ (redS red0).lanes ≤ 2048 ∧ (redS red0).dlen ≤ 32 ∧
      (redS red0).c.vlen ≤ (redS red0).groupCap 32 1 ∧ Memory.wf (redS red0).c.v = true) ∧ 4 ≤ (redS red0).groupCap 32 1 ∧
    effectiveKids (effectiveTree (groupBytes 0) 3) 0 = [1] ∧ (effectiveTree (groupBytes 0) 3).getD 0 64 = 0 ∧
    ({ red0 with verdict := none } : Red).verdict = none ∧ ({ red0 with verdict := none } : Red).sent = false ∧ ({ red0 with sent := true } : Red).sent = true := by decide +kernel
/-- 1 + 2 at the root ends the `mld.red` with 3. -/
theorem test_reduction_partial : let t := ran (.reductionPartial 0 2 1 (List.replicate 4 0x40000000)) (redS red0)
    t.elem 32 4 0 = 0x40400000 ∧ t.c.wait = none ∧ t.c.pc = (redS red0).c.nextPc := by decide +kernel

/-- Wavelengths: destination 1 with 48 and share 20 of partition 0, and destination 2, both up. -/
def waves (s : State) : State :=
  let up := fun (l : Link) => { l with up := true, rtt := 100 }
  ((s.setLink 1 up).setLink 2 up).setPart 0 fun p => { p with share := (p.share.setIfInBounds 1 20).setIfInBounds 2 20 }
/-- A lease of 4 wavelengths from 1 to 2. -/
def lease0 (state : Nat) : Lease :=
  { part := 0, id := 0, state := state, end_ := 0, taker := 2, giver := 1, k := 4, kGot := if state = 3 then 4 else 0, term := 5000, start := 990,
    drained := false, ctx := none, endAt := (0, 0) }
def leased (l : Lease) : State := { waves base with leases := [l] }
def bwlF : H3 := { h3 with d := 4, a := 1, b := 2, imm := 0x12 }
theorem witness_Leases_bwl : (2000 : Nat) ≤ base.tick.toNat + base.myPart.whz.toNat ∧ base.tick.toNat + base.myPart.whz.toNat < 0x200000 ∧
    (unitBusy (leased (lease0 1)) = true ∧ unitBusy (leased (lease0 2)) = false ∧ (waves base).leaseQ = [] ∧
      ({ leased (lease0 1) with leaseQ := [.ask ⟨0, 4, 0, 4, 2000, 2, 1, 1000⟩] } : State).leaseQ ≠ []) ∧
    leaseReason (waves base) ⟨0, 4, 0, 4, 2000, 2, 1, 1000⟩ = none ∧ leaseReason base ⟨0, 4, 0, 4, 2000, 2, 1, 1000⟩ = some 3 ∧
    leaseReason (waves base) ⟨0, 4, 0, 0, 2000, 2, 1, 1000⟩ = some 2 ∧ leaseReason (waves base) ⟨0, 4, 0, 4, 1032, 2, 1, 1000⟩ = some 4 := by
  decide +kernel
theorem test_bwl : let t := ran (.bwl bwlF) (regs (waves base) [(1, 100), (2, 2000)])
    t.leases.map (fun l => (l.giver, l.taker, l.k, l.state)) = [(1, 2, 20, 1)] ∧ t.c.wait.isSome = true := by decide +kernel
theorem witness_Leases_bwr : leaseOf base 0 0 = none ∧ ([1, 2, 3, 4].all fun n => leaseOf (leased (lease0 n)) 0 0 == some (lease0 n)) = true ∧
    (lease0 3).endAt ≠ clockNow base ∧ ({ lease0 3 with endAt := clockNow base } : Lease).endAt = clockNow base ∧ (lease0 3).end_ ≠ 2 ∧
    2 < endRow 3 ∧ returned (leased (lease0 1)) (lease0 1) = false ∧ (lease0 1).inc = base.myPart.inc ∧
    ({ lease0 1 with inc := 1 } : Lease).inc ≠ base.myPart.inc := by decide +kernel
theorem witness_Leases_steps : (lease0 2).term ≤ ({ leased (lease0 2) with tick := 5000 } : State).now ∧ (leased (lease0 2)).now < (lease0 2).term ∧
    starvedNow (leased (lease0 2)) 1 = false ∧ starvedNow { ((leased (lease0 2)).setLink 1 fun l => { l with clocks := [⟨0, 0, blankFlit, 0⟩], w := 10 }) with tick := 0x20000 } 1 = true ∧
    (leased (lease0 1)).now < (lease0 1).start + 2 ^ 16 ∧ (lease0 1).start + 2 ^ 16 ≤ ({ leased (lease0 1) with tick := 0x20000 } : State).now ∧
    (leased (lease0 3)).leaseQ = [] ∧ (1 : Nat) ≠ 2 ∧ ([1, 3].all fun n => drainDue (leased (lease0 n)) (lease0 n)) = true ∧
    drainDue (leased (lease0 2)) (lease0 2) = false ∧ ((leased (lease0 3)).link 2).up = true := by decide +kernel
/-- A grant of 3 of the 4 wavelengths moves 3. -/
theorem test_lease_grant : let t := ran (.leaseGrant 0 0 3) (leased { lease0 1 with drained := true })
    (t.link 1).w = 45 ∧ (t.link 2).w = 51 ∧ shareOf t 0 1 = 17 ∧ shareOf t 0 2 = 23 ∧ (leaseOf t 0 0).map Lease.state = some 2 := by decide +kernel
/-- 96 of the 144 receive channels are free beside the 48 tuned to the peer (R370, R375). -/
theorem test_lease_peer : let t := ran (.leaseRequestAtPeer 1 200) ((waves base).setLink 1 fun l => { l with inbound := 48 })
    (t.link 1).inbound = 144 ∧ (t.out.any fun o => match o with
      | .flit 1 f => f.kind == 4 && f.cls == 3 && f.op == 2 && f.opd == 96 | _ => false) = true := by decide +kernel

/-! ## Witnesses: the routing engine -/

/-- An open side of partition 0 on die 0 with one expert, on this device, and a list. -/
def side0 (l : List RItem) : RSide :=
  { part := 0, die := 0, isOpen := true, map := [0], lists := [(0, l)], counters := Vector.replicate 6 0, going := none, delivered := 0, queue := [] }
def routed (s : State) (x : RSide) : State := { s with sides := [x] }
/-- An item whose payload has been read, and one that has been sent. -/
def item0 : RItem := { payload := 0x9000, core := 64, header := 0, got := List.replicate 512 7, rd := none, data := none, tag := none }
def sentItem : RItem := { item0 with tag := some 9, header := 1 <<< 64 }
def rtF : H3 := { h3 with d := 4, a := 1, b := 2 }

theorem witness_RoutingEngine_waits : (routed { base with others := [Ctx.start 7 3 0 0 0 1 0x8000] } { side0 [] with going := some 7 }).side.going = some 7 ∧
    ({ base with others := [Ctx.start 7 3 0 0 0 1 0x8000] } : State).ctx? 7 ≠ none ∧ (7 : Nat) ≠ base.c.id ∧ base.side.going = none ∧
    base.side.queue = [] ∧ base.side.isOpen = false ∧ (routed base (side0 [])).side = side0 [] := by decide +kernel
theorem witness_RoutingEngine_open : (let s := bytesAt (regs base [(1, 0x9000), (2, 2)]) 0x9000 (leBytes 2 3)
      let v := setSide s { s.side with queue := [s.c.id] }
      match loadLines v s.agent 0x9000 1 with
      | .ok bs u => decide (u.c = s.c ∧ u.e1 = s.e1 ∧ u.e2 = s.e2 ∧ u.sides = v.sides ∧
          (List.range 2).map (fun i => leNat ((bs.drop (2 * i)).take 2)) = [3, 0] ∧ inDomain s 3 = false ∧ inDomain s 0 = true) | _ => false) = true ∧
    (1 ≤ 256 ∧ (0x9001 : Nat) % 64 ≠ 0) := by decide +kernel
theorem test_rt_open : let t := ran (.rtOpen rtF) (regs base [(1, 0x9000), (2, 2)])
    t.reg 4 = 0 ∧ t.side.map = [0, 0] ∧ t.side.lists = [(0, [])] ∧
    (ran (.rtOpen rtF) (bytesAt (regs base [(1, 0x9000), (2, 2)]) 0x9000 (leBytes 2 3))).reg 4 = 3 := by decide +kernel
theorem witness_RoutingEngine_add : (side0 []).map.length ≤ 1 ∧ 0 < (side0 []).map.length ∧ (2 ^ 54 / 2 ^ 54 ≠ 0) ∧
    (side0 [item0]).lists.find? (fun l => l.1 == 0) = some (0, [item0]) ∧
    (side0 (List.replicate 1024 item0)).lists.any (fun l => l.1 == 0 && decide (1024 ≤ l.2.length)) = true := by decide +kernel
/-- Token 5, gate 6 and second choice 1 for expert 0. -/
theorem test_rt_add : let t := ran (.rtAdd rtF) (regs (routed base (side0 [])) [(1, 0x9000), (2, 5 * 2 ^ 16 + 6 * 2 ^ 32 + 2 ^ 8)])
    t.reg 4 = 0 ∧ (t.side.lists.flatMap Prod.snd).map (fun it => (it.payload, it.header.toNat)) = [(0x9000, 5 * 2 ^ 32 + 6 * 2 ^ 48 + 2 ^ 64)] ∧
    t.side.counters[0]? = some 1 := by decide +kernel
/-- An `rt.go` as it begins to send. -/
def goS (s : State) : State :=
  let v := setSide s { s.side with queue := [s.c.id] }
  sendSide (setSide (releaseAt v 4) { s.side with queue := [s.c.id], going := some s.c.id, delivered := 0 }) s.c.part (dieOfCore s.c.core)
/-- An item whose payload cannot be read leaves its list, and one that waits for its answer stays. -/
theorem witness_RoutingEngine_go : (let s := routed base (side0 [{ item0 with payload := 2 ^ 40, got := [] }])
    decide ((goS s).c = s.c ∧ (sideOf (goS s) 0 0).items = 0 ∧ s.side.items = 1 ∧ s.side.isOpen = true ∧ fillsOut s = false)) = true ∧
    (let s := routed base (side0 [sentItem])
     decide ((goS s).c = s.c ∧ (sideOf (goS s) 0 0).items ≠ 0)) = true ∧ fillsOut (routed filling (side0 [sentItem])) = true ∧ (side0 []).items = 0 ∧ dieOfCore base.c.core = 0 := by decide +kernel

/-- A buffer of four slots of 1024 bytes that takes the items of expert 0. -/
def bufRx : Buf := { bufOf4 (List.replicate 4 .free) with lgsz := 10, expert := some 0, rpos := 0 }
theorem witness_RoutingEngine_rx : bufOf (withBuf base bufRx) 0 7 = some bufRx ∧ bufRx.home = base.dev ∧ bufOf base 0 7 = none ∧
    (bufRx.recvs = [] ∧ 10 ≤ bufRx.lgsz ∧ (bufOf4 []).lgsz < 10) ∧ base.uns = true ∧ (synced base).uns = false ∧ bufRx.reach base < 4 ∧
    4 ≤ ({ bufRx with home := 3 } : Buf).reach base ∧
    (1000 ≤ base.tick.toNat + base.myPart.whz.toNat ∧ base.tick.toNat + base.myPart.whz.toNat < 0x200000) := by decide +kernel
theorem test_rt_open_rx : let f : H3 := { h3 with d := 4, a := 1, imm := 7 }
    ((ran (.rtOpenRx f) (regs (withBuf base bufRx) [(1, 0)])).reg 4 = 0) ∧ ((ran (.rtOpenRx f) (regs (withBuf base bufRx) [(1, 9)])).reg 4 = 4) ∧
    ((ran (.rtOpenRx f) (regs (withBuf base (bufOf4 [.free])) [(1, 9)])).reg 4 = 2) ∧ (ran (.rtCloseRx f) (withBuf base bufRx)).reg 4 = 0 := by
  decide +kernel

/-- An item of device 3 for partition 5. -/
def itemIn : Flit :=
  { blankFlit with kind := 6, ddev := 0, sdev := 3, dpart := 5, spart := 5, dinc := 1, sinc := 1, oseq := 4, len := 512, payload := List.replicate 512 7 }
def live5 : State := base.setPart 5 fun p => { p with st := .live, inc := 1, root := 1 }
/-- The stream of that item, of which some requests were answered and some wait. -/
def streamS (next : Nat) (seen : List (Nat × Flit)) (ahead : List Flit) : State :=
  { live5 with streams := [{ sdev := 3, spart := 5, sinc := 1, next := BitVec.ofNat 16 next, seen := seen, ahead := ahead }] }
theorem witness_RoutingEngine_next : NextHere (streamS 4 [(3, blankFlit)] []) itemIn := by unfold NextHere; decide +kernel
theorem witness_RoutingEngine_item : (itemIn.kind = 6 ∧ itemIn.ddev.toNat = base.dev ∧ itemIn.sdev.toNat ≠ base.dev) ∧ takesFor base itemIn = false ∧
    takesFor (streamS 4 [] []) itemIn = true ∧ takesFor (streamS 2 [] []) itemIn = true ∧
    ([blankFlit, { blankFlit with op := 1 }].all fun a => (streamOf (streamS 5 [(4, a)] []) itemIn).seen.any fun y => y.1 == 4 && y.2 == a) = true ∧
    seqBefore itemIn.oseq (streamOf (streamS 5 [] []) itemIn).next = true ∧ (streamOf (streamS 2 [] [itemIn]) itemIn).ahead = [itemIn] ∧
    seqBefore itemIn.oseq (streamOf (streamS 2 [] []) itemIn).next = false ∧ seqBefore itemIn.oseq (streamOf base itemIn).next = false ∧
    (applyItem (turnOf (streamS 4 [] []) itemIn) 3 5 0 itemIn.payload).2.streams = (turnOf (streamS 4 [] []) itemIn).streams ∧
    (applyItem (turnOf (streamS 4 [] []) itemIn) 3 5 0 itemIn.payload).1 = some 3 ∧
    ((live5.part 5).ckPhase = 0 ∧ ((live5.setPart 5 fun p => { p with ckPhase := 1 }).part 5).ckPhase ≠ 0) := by decide +kernel
/-- Behind a busy request of its granule; with its expert's buffer full before and at the end of a cycle's frees; and with a slot
whose page is mapped, is not, or lies in a block in SWITCH. -/
def bound5 (slots : List SlotSt) : State :=
  withBuf { streamS 4 [] [] with cursor := 3 } { bufRx with part := 5, slots := slots, rsv := BitVec.ofNat 32 (slots.filter (· != .free)).length }
theorem witness_RoutingEngine_order :
    (let s := { streamS 4 [] [] with streams := (streamS 4 [] []).streams.map fun x => { x with busied := [{ itemIn with oseq := 3 }] } }
     takeDue (turnOf s itemIn) 5 (.fabricRequest itemIn) = turnOf s itemIn ∧ behindBusy (turnOf s itemIn) itemIn = true) ∧
    behindBusy (turnOf (streamS 4 [] []) itemIn) itemIn = false ∧ itemWaits (bound5 (List.replicate 4 .taken)) itemIn = true ∧
    itemWaits { bound5 (List.replicate 4 .taken) with cursor := cycleGrants } itemIn = false ∧ itemWaits (bound5 (List.replicate 4 .free)) itemIn = false ∧
    slotOk base 0 0xA000 1024 = true ∧ slotOk base 0 (2 ^ 40) 1024 = false := by decide +kernel
theorem witness_RoutingEngine_switch :
    (applyItem { withBuf base { bufRx with base := 0xA000 } with migrs := [{ src := 0, dst := 1, dirty := [], switching := true }] }
      3 0 0 itemIn.payload).1 = none := by decide +kernel
theorem witness_RoutingEngine_apply : (live5.bufs.find? fun b => b.part == 5 && b.expert == some 0 && b.home == live5.dev) = none ∧
    ((withBuf base bufRx).bufs.find? fun b => b.part == 0 && b.expert == some 0 && b.home == base.dev) = some bufRx ∧
    bufFree { bufRx with rsv := 4 } = 0 ∧ bufFree bufRx ≠ 0 ∧ bufRx.claims = [] ∧ bufRx.recvs = [] ∧
    (match writeItem (withBuf (hosted base) { bufRx with base := 2 ^ 31 }) 0 (watchWho 3 0 0 1) (2 ^ 31) (leBytes 16 0 ++ List.replicate 48 0 ++ List.replicate 512 0) 9 with
      | .ok _ u => decide (u.bufs = [{ bufRx with base := 2 ^ 31 }]) | _ => false) = true := by decide +kernel
/-- Items answered: delivered, and refused with a second choice. -/
def answeredS : State := { routed base (side0 [sentItem]) with
  resvs := [{ tag := 9, ctx := engineId, flit := blankFlit, start := 990, busyUntil := none }] }
theorem witness_RoutingEngine_answer : (answeredS.resvs.any fun r => r.tag == 9) = true ∧ (base.resvs.any fun r => r.tag == 9) = false ∧
    (pullItem (sideOf answeredS 0 0) 9).any (fun p => p.1 == sentItem && hdrRank p.1.header == 0 && !hasSecond p.2 p.1.header) = true ∧
    hasSecond { side0 [] with map := [0, 0] } sentItem.header = true := by decide +kernel
theorem test_routing_answer : ((ran (.routingAnswer 0 0 9 0) answeredS).side.delivered = 1) ∧
    (let t := (ran (.routingAnswer 0 0 9 3) { answeredS with sides := [{ side0 [sentItem] with map := [0, 0] }] }).side
     (t.lists.flatMap Prod.snd).map (fun it => (hdrExp it.header, hdrRank it.header, it.tag)) = [(1, 1, none)] ∧ t.counters[4]? = some 1) := by
  decide +kernel

/-! ## Witnesses: meters, digests, checkpoints and the life of a partition -/

theorem witness_MetersAndCheckpoints_meters : base.c.priv = 2 ∧ (ctxOf base fun c => { c with priv := 1 }).c.priv ≠ 2 ∧ ((regs base [(1, 63)]).reg 1).toNat < 64 ∧
    64 ≤ ((regs base [(1, 64)]).reg 1).toNat ∧ (base.part 5).st = .free ∧ (live5.part 5).st ≠ .free ∧
    meterDue base = false ∧ meterDue { base with tick := 0x100000 } = true := by decide +kernel
theorem test_flm_rd : (ran (.flmRd { h2 with d := 4, a := 1, imm := 3 }) (regs (base.setPart 5 fun p => { p with meters := p.meters.setIfInBounds 3 77 })
    [(1, 5)])).reg 4 = 77 := by decide +kernel

/-- The three bytes of `abc` at 2^31 + 0xA001, and 64 bytes for the digest at 2^31 + 0xB000, in host memory. -/
def abcS : State :=
  regs (hosted (bytesAt base (2 ^ 51 + 0xA001) [0x61, 0x62, 0x63])) [(1, 2 ^ 31 + 0xB000), (2, 2 ^ 31 + 0xA001), (3, 3)]
theorem witness_MetersAndCheckpoints_digest : abcS.c.hold = none ∧ abcS.c.resume = none ∧ (0xB001 : Nat) % 64 ≠ 0 ∧ 0xB000 < 0xB03F + 3 ∧ 0xB03F < 0xB000 + 64 ∧
    (match digestRead abcS (2 ^ 31 + 0xA001) 3 { sha := shaInit, blk := [], k := 0 } 3 with
      | (.ok x u, _) => isOk (storeMem u u.agent (2 ^ 31 + 0xB000) ((shaEnd x.sha x.blk 3).bytes.take 48 ++ leBytes 8 3 ++ List.replicate 8 0)) | _ => false) = true ∧
    2 ^ 52 < 2 ^ 52 + 1 ∧ ([[1, 2, 3, 4, 5, 6, 7, 8], [9]] : List (List Byte)).all (fun p => decide (p.length ≤ 8)) = true := by decide +kernel
/-- FIPS 180-4's value for `abc`, most significant byte first. -/
theorem test_sha384_abc : digestVal (sha384 [0x61, 0x62, 0x63]) =
    0xcb00753f45a35e8bb5a03d699ac65007272c32ab0eded1631a8b605a43ff5bed8086072ba1e7cc2358baeca134c825a7 := by decide +kernel
theorem test_dgst : let t := ran (.dgst { h2 with d := 1, a := 2, b := 3 }) abcS
    t.reg 1 = 0 ∧ getCells t.mem (2 ^ 51 + 0xB000) 4 = [0xcb, 0x00, 0x75, 0x3f] ∧ getCells t.mem (2 ^ 51 + 0xB030) 8 = [3, 0, 0, 0, 0, 0, 0, 0] := by decide +kernel

/-- Partition 5 LIVE with checkpoints enabled. -/
def ckp (f : Part → Part) : State := (regs live5 [(1, 5)]).setPart 5 fun p => f { p with cke := true }
theorem witness_MetersAndCheckpoints_program : (ckp id).c.priv = 2 ∧ ((ckp id).reg 1).toNat = 5 ∧ ((ckp id).part 5).st = .live ∧ ((ckp id).part 5).cke = true ∧
    ((ckp id).part 5).ckPhase = 0 ∧ ((ckp fun p => { p with ckHas := true }).part 5).ckHas = true ∧ (ckp id).c.part ≠ 5 ∧
    ((ckp id).part 5).ckPhase < 8 ∧ ((ckp id).part 5).ckLast < 16 := by decide +kernel
theorem test_ckp_go : let t := ran (.ckpGo { h3 with d := 4, a := 1 }) (ckp id)
    t.reg 4 = 0 ∧ (t.part 5).ckPhase = 1 ∧ (ran (.ckpRb { h3 with d := 4, a := 1 }) (ckp id)).reg 4 = 2 := by decide +kernel
theorem witness_MetersAndCheckpoints_steps : ((ckp fun p => { p with ckPhase := 3, ckStart := 990 }).part 5).ckPhase = 3 ∧
    ({ ckp (fun p => { p with ckPhase := 3, ckStart := 990 }) with tick := 0x20000 } : State).now ≥ 990 + 2 ^ 16 ∧ base.now < 990 + 2 ^ 16 ∧
    ((ckp fun p => { p with ckHas := true }).part 5).stop = none ∧ (base.part 5).st = .free := by decide +kernel
/-- A slice of partition 5 with a line whose tag fails. -/
theorem witness_MetersAndCheckpoints_tag : let s := { ckp (fun p => { p with ckHas := true }) with smap := base.smap.setIfInBounds 7 5 }
    ((s.smap[7]?.getD 0).extractLsb' 0 6).toNat = 5 ∧ (s.part 5).st = .live ∧ (s.part 5).stop = none ∧ (s.part 5).cke = true ∧ (s.part 5).ckHas = true ∧
    (s.part 5).ckPhase ≠ 4 := by decide +kernel
theorem test_checkpoint_commit : let t := ran (.checkpointCommitAck 5 true) (ckp fun p => { p with ckPhase := 3, ckN := 7 })
    (t.part 5).ckHas = true ∧ (t.part 5).ckN = 8 ∧ (t.part 5).ckPhase = 0 := by decide +kernel

/-- Partition 5 in a state, with its number in s1. -/
def slot5 (f : Part → Part) : State := (regs base [(1, 5), (2, 0x9000)]).setPart 5 f
def pF : H3 := { h3 with d := 4, a := 1, b := 2 }
theorem witness_PartitionLife_life : (slot5 id).c.priv = 2 ∧ ((slot5 id).part 5).st = .free ∧ (slot5 id).c.part ≠ 5 ∧ (slot5 id).c.hold = none ∧
    ([PState.assigned, .live, .stopped, .scrub].all fun x => ((slot5 fun p => { p with st := x }).part 5).st == x) = true ∧
    (ctxOf (slot5 fun p => { p with st := .live, stop := some ⟨990, false, false, 0, false, []⟩ }) fun c => { c with hold := some { stamp := 990 } }).c.hold ≠ none ∧
    (((slot5 fun p => { p with st := .live, stop := some ⟨990, false, false, 0, false, []⟩ }).part 5).stop) = some ⟨990, false, false, 0, false, []⟩ := by decide +kernel
/-- A stop whose every wait is over. -/
theorem witness_PartitionLife_stop : let s : State := { slot5 fun p => { p with st := .live, stop := some ⟨990, false, false, 0, false, []⟩ } with tick := 3000 }
    (s.part 5).stop = some ⟨990, false, false, 0, false, []⟩ ∧ 990 + 1260 ≤ s.now ∧ s.leases = [] ∧ dueDone s 5 = true ∧
      dueDone { s with later := [.hostMemoryRequest 6 0x600000 true [7] 1] } 5 = false := by decide +kernel
theorem test_prt_asg : let t := ran (.prtAsg pF) (slot5 id)
    t.reg 4 = 0 ∧ (t.part 5).st = .assigned ∧ (t.part 5).owner = 0x9000 ∧ (t.part 5).inc = 1 ∧
    (ran (.prtStop pF) (slot5 id)).reg 4 = 2 := by decide +kernel

/-- A record of one seat of core 3, granules 0 to 3, root at page 1, ENTRY 0x8000 and a save area of 53 units at granule 1. -/
def partRecord : List Byte :=
  leBytes 5 1 ++ List.replicate 3 0 ++ leBytes 8 0x200000 ++ leBytes 4 53 ++ List.replicate 28 0 ++ leBytes 7 0x8000 ++ List.replicate 169 0 ++
    [0x83, 0, 0, 0] ++ List.replicate 124 0 ++ leBytes 8 (4 * 2 ^ 32) ++ List.replicate 664 0
def newS : State :=
  regs (hosted (bytesAt (slot5 fun p => { p with st := .assigned, kz := false }) (2 ^ 51 + 0x9000) partRecord)) [(2, 2 ^ 31 + 0x9000)]
theorem witness_PartitionLife_new : (match loadLines newS newS.agent (2 ^ 31 + 0x9000) 16 with
      | .ok r t => decide (r = partRecord ∧ recWellFormed t partRecord = true ∧ recHeld t 5 partRecord = false ∧ saveShort t 5 partRecord = false ∧ t.rots = [] ∧ t.stale = [] ∧
          t.c.alive = true ∧ (t.part 5).kz = false) && t.seats.all (fun x => decide (0 < x.size)) | _ => false) = true ∧ (0x9001 : Nat) % 1024 ≠ 0 := by
  decide +kernel
theorem witness_PartitionLife_newFails : recWellFormed newS (List.replicate 1024 0) = false ∧
    recHeld (newS.setPart 6 fun p => { p with ranges := [(0, 1)] }) 5 partRecord = true ∧ saveShort newS 5 (partRecord.set 16 52) = true := by
  decide +kernel
theorem test_prt_new : let t := ran (.prtNew pF) newS
    t.reg 4 = 0 ∧ (t.part 5).st = .live ∧ t.others.map (fun c => (c.part, c.core, c.pc.toNat, c.reg 1)) = [(5, 3, 0x8000, 5)] := by decide +kernel

theorem witness_PartitionLife_keys : (match loadLines newS newS.agent (2 ^ 31 + 0x9000) 1 with
      | .ok img t => decide (img.take 32 ≠ (img.drop 32).take 32 ∧ (t.part 5).st = .assigned) | _ => false) = true ∧
    (match loadLines base base.agent 0xA000 1 with | .ok img _ => decide (img.take 32 = (img.drop 32).take 32) | _ => false) = true := by decide +kernel
/-- A partition of one granule whose scrub is due. -/
def scrubS : State := slot5 fun p => { p with st := .scrub, scrt := 512, scrStart := 990, scrDone := 2, ranges := [(3, 1)] }
theorem witness_PartitionLife_scrub : scrubDue scrubS 5 = true ∧ scrubDue base 5 = false ∧
    scrubPlace scrubS (scrubS.part 5) 2 = some (0x602000, some 0x602000) ∧ switching scrubS 0x602000 = false ∧ Memory.wf scrubS.mem = true := by
  decide +kernel
/-- The last block of a scrub is done, in the last cycle of the scrub's last tick and before it. -/
theorem witness_PartitionLife_reset : (let s := slot5 fun p => { p with st := .scrub, scrt := 16, scrStart := 985, scrDone := 16 }
    scrubEnds { s with cyc := 12 } (s.part 5) = true ∧ scrubEnds s (s.part 5) = false ∧ (s.part 5).st = .scrub) := by decide +kernel
theorem test_scrub_block : let t := ran (.scrubBlock 5) (bytesAt scrubS 0x601FFF [1, 2, 3])
    getCells t.mem 0x601FFF 3 = [1, 0, 0] ∧ (t.part 5).scrDone = 3 := by decide +kernel

/-! ## Witnesses: the host and the device -/

/-- Partition 5 LIVE with granules 3 and 4. -/
def hostS : State := live5.setPart 5 fun p => { p with ranges := [(3, 2)] }
/-- With a write of the host that waits to be tried again. -/
def waitS : State := { hostS with later := [.hostMemoryRequest 6 0x600000 true [7] 1] }
theorem witness_HostAndDevice_host : hostS.boot = .running ∧ (hostS.part 5).st ≠ .free ∧ (hostS.part 5).ckPhase = 0 ∧ State.reset.boot ≠ .running ∧
    ((hostS.setPart 5 fun p => { p with ckPhase := 1 }).part 5).ckPhase ≠ 0 ∧ hostS.redir = [] ∧ Memory.wf hostS.mem = true ∧
    0x600000 + 8 ≤ hbmEnd ∧ hostCut hostS 5 (.hostMemoryRequest 6 0x600000 false [] 8) = false ∧ hostReach hostS 5 0x600000 8 = true ∧ hostReach hostS 5 0x9FFFF8 8 = true ∧
    hostReach hostS 5 0x9FFFF9 8 = false ∧ hostPosted hostS 6 = false ∧ hostPosted waitS 6 = true ∧
    hostWaiting hostS 0x600000 8 = false ∧ hostWaiting waitS 0x600000 8 = true ∧ hostCut (hostS.setPart 5 fun p => { p with st := .stopped }) 5 (.hostMemoryRequest 6 0x600000 false [] 8) = true ∧
    poisoned hostS 0x600000 8 = false ∧ switching hostS 0x600000 = false ∧ (hostS.bufs.all fun b => b.part != 5) = true := by decide +kernel
theorem test_host_memory_request : getCells (ran (.hostMemoryRequest 6 0x600000 true [7, 8] 2) hostS).mem 0x5FFFFF 4 = [0, 7, 8, 0] ∧
    (ran (.hostMemoryRequest 6 0x600000 false [] 2) (bytesAt hostS 0x600000 [7, 8])).out = [.completion (some [7, 8])] ∧
    (ran (.hostMemoryRequest 6 0xA00000 false [] 2) hostS).out = [.completion none] := by decide +kernel
theorem test_notify : let t := ran (.notify 6 7 true) hostS
    (t.part 5).ntf = 1 ∧ (t.part 5).ronc = 1 ∧ (ran (.notify 6 7 true) State.reset).parts = State.reset.parts := by decide +kernel
theorem witness_HostAndDevice_host_requests : hostKey ≤ 2 ^ 51 ∧ 2 ^ 51 + 1 ≤ 2 ^ 52 ∧ ([7] : List Byte).length = 1 ∧ (2 ≤ 4 ∧ 4 ≤ 4) ∧
    (base.part 5).tdisp = 0 ∧ ((base.setPart 5 fun p => { p with tdisp := 1 }).part 5).tdisp = 1 := by decide +kernel
theorem test_tdisp : ((ran (.tdispRequest 6 1) base).part 5).tdisp = 1 ∧ ((ran (.tdispRequest 6 2) base).part 5).tdisp = 0 := by decide +kernel

theorem witness_HostAndDevice_device : ({ base with boot := .thermalHold } : State).boot = .thermalHold ∧ base.boot ≠ .thermalHold ∧
    (base.life, 3) ∈ [(0, 1), (1, 2), (2, 3), (3, 1)] ∧ (base.life, 1) ∉ [(0, 1), (1, 2), (2, 3), (3, 1)] ∧ Memory.wf base.mem = true := by decide +kernel
theorem test_life_cycle : (ran (.lifeCycleChange true 3) base).life = 3 ∧ (ran (.lifeCycleChange true 3) base).byteAt 4098 = 0 ∧
    base.byteAt 4098 = 2 ∧ (ran (.lifeCycleChange false 3) base).life = 2 := by decide +kernel

/-- A migration of block 0x60 to the spare block 0x70, with two dirty granules or with all. -/
def migrS (dirty : Nat) (sw : Bool) : State := { base with migrs := [{ src := 0x60, dst := 0x70, dirty := List.range dirty, switching := sw }] }
theorem witness_HostAndDevice_migration : spareBlock base 0x70 = true ∧ spareBlock (migrS 2 false) 0x70 = false ∧ (base.migrs.all fun m => m.src != 0x60) = true ∧
    ([migrS 2 true, migrS 2 false, migrS 17 false].all fun s => (s.migrs.find? fun m => m.src == 0x60).isSome) = true ∧ Memory.wf base.mem = true ∧
    spareBlock hostS 0x70 = false := by decide +kernel
theorem test_migration_switch : (ran (.migrationSwitch 0x60) (migrS 2 false)).migrs.map (fun m => (m.switching, m.since)) = [(true, base.now)] := by decide +kernel
/-- In SWITCH, with a write to the block that waits. -/
theorem witness_HostAndDevice_waiting : let m : Migr := { src := 0x60, dst := 0x70, dirty := [], switching := true, waiting := [(0x600010, [7, 8])] }
    ({ base with migrs := [m] } : State).migrs.find? (fun m => m.src == 0x60) = some m ∧ 0x600010 / 65536 = 0x60 ∧ 0x600010 % 128 + 2 ≤ 128 ∧
    closedFrame base 0x600010 = false ∧ closedFrame (hostS.setPart 5 fun p => { p with st := .stopped }) 0x600010 = true := by
  decide +kernel

/-! ## Witnesses: the fabric's transport and the common tick -/

/-- A read of 8 bytes at 0x600000 for partition 5 by partition 5 of device 3, which has the import. -/
def reqIn (op : BitVec 8) : Flit :=
  { blankFlit with kind := 1, ddev := 0, sdev := 3, dpart := 5, spart := 5, dinc := 1, sinc := 1, oseq := 4, lgw := 3, op := op, addr := 0x600000,
                   opd := 0x0807060504030201 }
def importS : State := { hostS with imports := [{ dev := 3, part := 5, base := 0x600000, size := 8, wr := true, skew := 0 }] }
/-- With the stream of that request: the next one, what was answered, and what came early. -/
def orderS (s : State) (next : Nat) (seen : List (Nat × Flit)) (ahead : List Flit) : State :=
  { s with streams := [{ sdev := 3, spart := 5, sinc := 1, next := BitVec.ofNat 16 next, seen := seen, ahead := ahead }] }
def nextS (s : State) : State := orderS s 4 [] []
theorem witness_FabricAndLinks_next : NextHere (nextS importS) (reqIn 0) := by unfold NextHere; decide +kernel
theorem witness_FabricAndLinks_order : isRequestHere importS (reqIn 0) = true ∧ isRequestHere importS blankFlit = false ∧
    ([blankFlit, { blankFlit with op := 1 }].all fun a => (streamOf (orderS importS 5 [(4, a)] []) (reqIn 0)).seen.any fun y => y.1 == 4 && y.2 == a) = true ∧
    seqBefore (reqIn 0).oseq (streamOf (orderS importS 5 [] []) (reqIn 0)).next = true ∧
    (streamOf (orderS importS 2 [] [reqIn 0]) (reqIn 0)).ahead = [reqIn 0] ∧
    seqBefore (reqIn 0).oseq (streamOf (orderS importS 2 [] []) (reqIn 0)).next = false ∧ takesFor (orderS importS 2 [] []) (reqIn 0) = true ∧
    takesFor (nextS base) (reqIn 0) = false := by decide +kernel
theorem witness_FabricAndLinks_requests : takesFor (nextS importS) (reqIn 0) = true ∧ behindBusy (turnOf (nextS importS) (reqIn 0)) (reqIn 0) = false ∧
    behindBusy (turnOf { importS with streams := (nextS importS).streams.map fun x => { x with busied := [{ reqIn 0 with oseq := 3 }] } } (reqIn 0)) (reqIn 0) = true ∧
    takeDue (turnOf (nextS importS) (reqIn 0)) 5 (.fabricRequest (reqIn 0)) = turnOf (nextS importS) (reqIn 0) ∧
    (importS.part 5).ckPhase = 0 ∧ (importS.part (ownerOf importS (0x600000 / 2 ^ 21))).st = .live ∧ poisoned importS 0x600000 8 = false ∧
    switching importS 0x600000 = false ∧ switching { importS with migrs := [{ src := 0x60, dst := 0x70, dirty := [], switching := true }] } 0x600000 = true ∧
    importS.redir = [] ∧ Memory.wf importS.mem = true ∧ hostS.imports = [] ∧ poisoned { importS with poison := [0x18000] } 0x600000 8 = true := by
  decide +kernel
theorem test_fabric_request_write : let t := ran (.fabricRequest (reqIn 1)) (nextS importS)
    getCells t.mem 0x5FFFFF 10 = [0, 1, 2, 3, 4, 5, 6, 7, 8, 0] ∧
    getCells (ran (.fabricRequest (reqIn 1)) (nextS hostS)).mem 0x600000 2 = [0, 0] := by decide +kernel
/-- A multicast store of one element, with its import and without. -/
def mstIn : Flit :=
  { reqIn 1 with kind := 7, fn := 1, len := 16, payload := leBytes 8 0x100000 ++ leBytes 8 9 }
def mstS : State := live5.setPart 5 fun p => { p with ranges := [(0, 4)] }
theorem witness_FabricAndLinks_requests_mst : let v := turnOf (nextS mstS) mstIn
    mstRefused v mstIn = false ∧
    (match mstStore v mstIn 8 (mstElems mstIn) with | (false, [], u) => u.poison.isEmpty && decide (u.streams = v.streams) | _ => false) = true ∧
    (match mstStore v mstIn 8 [(2 ^ 50, 9)] with | (true, _, u) => u.poison.isEmpty && decide (u.streams = v.streams) | _ => false) = true ∧
    (({ mstIn with fn := 0 } : Flit).fn ≠ 1 ∧ mstIn.kind = 7) := by
  decide +kernel

/-- An answer to the request of tag 9, for which this context is held. -/
def heldS : State := { ctxOf base (fun c => { c with hold := some { stamp := 990, tag := some 9 } }) with
  resvs := [{ tag := 9, ctx := 0, flit := reqIn 0, start := 990, busyUntil := none }] }
def ansIn (op : BitVec 8) : Flit := { blankFlit with kind := 2, tag := 9, op := op, opd := 77, retry := 50 }
theorem witness_FabricAndLinks_answers : (ansIn 0).ddev.toNat = heldS.dev ∧ freshAnswer heldS (ansIn 0) = true ∧ (heldS.resvs.any fun r => r.tag == 9) = true ∧
    sideWith heldS 9 = none ∧ heldS.now < 990 + 2 ^ 16 ∧ 990 + 2 ^ 16 ≤ ({ heldS with tick := 0x20000 } : State).now ∧
    (heldS.c.hold.map Hold.tag) = some (some 9) ∧ (ansIn 1).op = 1 ∧
    (heldS.resvs.all fun r => r.msg.isNone && r.host.isNone) = true ∧ mstQueued heldS 9 = false := by decide +kernel
theorem test_fabric_answer : ((ran (.fabricAnswer (ansIn 0)) heldS).c.hold.bind Hold.ans) = some ⟨0, 77⟩ ∧
    (ran (.fabricAnswer (ansIn 0)) heldS).resvs = [] := by decide +kernel
/-- A request that was answered busy until a tick. -/
def busyS (t : Nat) : State := { heldS with resvs := heldS.resvs.map fun r => { r with busyUntil := some t } }
theorem witness_FabricAndLinks_busyretry : ((busyS 1000).resvs.find? fun r => r.tag == 9).any (retryDue (busyS 1000)) = true ∧
    ((busyS 1001).resvs.find? fun r => r.tag == 9).any (retryDue (busyS 1001)) = false := by decide +kernel

/-- Destination 1 with its link up to device 1. -/
def linkS (f : Link → Link) : State := { base with e1 := 1, e2 := 2 }.setLink 1 fun l => f { l with up := true, peer := 1, rtt := 100 }
def goodFlit (kind : BitVec 4) : Flit :=
  let f := { blankFlit with kind := kind, ddev := 0, sdev := 1 }
  { f with crc := flitCrc f }
/-- What the manager writes with a training: nothing, or the coordinate (peer 4 by t1 and the extents 1 and 2). -/
def noSetup : LinkSetup := { tick := none, place := none, tr := none, cap := none, keep := false, far := none }
theorem witness_FabricAndLinks_training : (let u := applySetup { base with e2 := 2 } 8 noSetup
      trainOk u 8 (peerOf u.dev u.e1 u.e2 8) 1 2 = true) ∧ trainOk (applySetup base 6 noSetup) 6 0 1 1 = false ∧
    ((base.link 1).queue = [] ∧ (base.links.toList.all fun l => l.escQ.isEmpty) = true ∧ base.unrouted = [] ∧ (base.link 8).rtt = 0) ∧
    bringUp State.reset = true ∧ (applySetup State.reset 8 noSetup).tickSet = false ∧ bringUp base = false ∧
    ((List.range 10).all fun k => (State.reset.link k).rtt == 0) = true := by decide +kernel
/-- The CRC does not look at itself. -/
theorem witness_FabricAndLinks_crc (kind : BitVec 4) : (goodFlit kind).crc = flitCrc (goodFlit kind) := by
  simp only [goodFlit, flitCrc, flitHead]
theorem witness_FabricAndLinks_badCrc (f : Flit) : ({ f with crc := flitCrc f + 1 } : Flit).crc ≠ flitCrc { f with crc := flitCrc f + 1 } := by
  have h : flitCrc { f with crc := flitCrc f + 1 } = flitCrc f := by simp only [flitCrc, flitHead]
  rw [h]
  generalize flitCrc f = x
  bv_omega
theorem witness_FabricAndLinks_links : ((linkS id).link 1).up = true ∧ (base.link 1).up = false ∧ (goodFlit 2).nak = false ∧
    ((linkS id).link 1).queue = [] ∧ ((linkS id).link 1).escQ = [] ∧
    (goodFlit 2).seq = ((linkS id).link 1).rxSeq ∧ (goodFlit 2).ddev.toNat = (linkS id).dev ∧ (goodFlit 2).rsv = 0 ∧
    ackedRest 4 [{ blankFlit with seq := 4 }, { blankFlit with seq := 5 }] = some [{ blankFlit with seq := 5 }] ∧
    ((goodFlit 2).seq ≠ ((linkS fun l => { l with rxSeq := 9 }).link 1).rxSeq) := by decide +kernel
/-- The published check value of ECMA-182's CRC-64, of `123456789`. -/
theorem test_crc64 : crc64 [0x31, 0x32, 0x33, 0x34, 0x35, 0x36, 0x37, 0x38, 0x39] = 0x6C40DF5F0B497347 := by decide +kernel
theorem witness_FabricAndLinks_cut : let l := (linkS id).link 1
    l.nakSent = false ∧ (goodFlit 0).kind = 0 ∧ (goodFlit 0).rsv = 0 ∧ (goodFlit 2).cls ≠ 2 ∧ l.replays < 16 ∧
    (16 ≤ ((linkS fun l => { l with replays := 16 }).link 1).replays) := by decide +kernel
/-- A read that has stood at the head of its queue since the reset, in the tick 2 ^ 20. -/
def stuckS : State :=
  { linkS fun l => { l with queue := [(0, { blankFlit with ddev := 1 })], clocks := [⟨0, 0, { blankFlit with ddev := 1 }, 0⟩] } with tick := 0x100000 }
theorem witness_FabricAndLinks_moments : replayDue (linkS id) 1 = false ∧ idleDue base 1 = false ∧ escapeDue (linkS id) 1 = false ∧
    replayDue { (linkS fun l => { l with retry := [blankFlit], lastAck := 0 }) with tick := 0x100000 } 1 = true ∧
    idleDue { linkS id with tick := 0x100000 } 1 = true ∧
    stuckQueue stuckS 1 = some (queueNo (0, { blankFlit with ddev := 1 })) := by decide +kernel
theorem witness_FabricAndLinks_lease : (let s := { linkS id with leases := [{ lease0 2 with taker := 1, giver := 2 }] }
    (leaseOf s 0 0).map (fun y => (y.state, y.taker)) = some (2, 1)) := by decide +kernel
/-- A domain of two devices with every link up. -/
def upS : State := { base with e1 := 1, e2 := 2, links := base.links.map fun l => { l with up := true, rtt := 100 } }
theorem witness_FabricAndLinks_time : anyDown upS = false ∧ anyDown (linkS id) = true ∧ (upS.link 8).up = true ∧
    lastCycle upS = false ∧ lastCycle { upS with cyc := 12 } = true ∧ linkWorks upS 0 8 = true ∧ peerOf upS.dev upS.e1 upS.e2 8 = 1 := by
  decide +kernel
/-- Where the reference is device 1 and the tree reaches it by destination 8, that is the way up. -/
theorem witness_FabricAndLinks_tree (h : Config.reference 0 = 1) (h' : Config.treeParent 0 0 % 10 = 8) : treeUp upS = some 8 := by
  have hl : treeLink upS 0 = some 8 := by
    unfold treeLink
    rw [show upS.tree = 0 from rfl, h, h']
    decide +kernel
  have hp : treePath upS 0 (65534 + 1 + 1) = some [0, 1] := by
    have h1 : treePath upS 1 (65534 + 1) = some [1] := by
      rw [treePath, show upS.tree = 0 from rfl, h, if_pos rfl]
    rw [treePath, hl, show upS.tree = 0 from rfl, h, if_neg (by decide), Option.bind_some,
      show peerOf 0 upS.e1 upS.e2 8 = 1 by decide +kernel, h1]
    rfl
  rw [treeUp, show upS.dev = 0 from rfl, show 2 ^ 16 = 65534 + 1 + 1 from rfl, hp]
  exact hl
/-- A replay sends what is not acknowledged again, and an idle flit carries the ACK. -/
theorem test_replay : let t := ran (.replayTimeout 1) { (linkS fun l => { l with retry := [blankFlit], lastAck := 0 }) with tick := 0x100000 }
    (t.link 1).replays = 1 ∧ t.out.length = 1 := by decide +kernel
theorem test_idle : (ran (.idleFlit 1) { linkS id with tick := 0x100000 }).out.length = 1 ∧ (ran (.idleFlit 1) base).out = [] := by decide +kernel

/-- The peer's answer with an offset of 3 makes the tick not synchronised; two of at most 1 in a row make it so; it measures the round trip. -/
theorem test_time_flit : (ran (.timeFlitAnswer 990 998 ⟨998, 1, none⟩) base).goodTime = 0 ∧ (ran (.timeFlitAnswer 990 998 ⟨998, 1, none⟩) base).tickAdj = 1 ∧
    (ran (.timeFlitAnswer 990 995 ⟨995, 1, none⟩) { base with goodTime := 1 }).uns = false ∧ base.refPresent = false ∧
    ((ran (.timeFlitAnswer 990 995 ⟨995, 1, some 40⟩) (linkS id)).link 1).rtt = 40 := by decide +kernel
theorem test_pps : (ran .ppsPulse { base with refPresent := true }).ppsOff = -1000 ∧ (ran .ppsPulse base).ppsOff = 0 := by decide +kernel

/-! ## Witnesses: decoding, the step, and its invariants -/

theorem witness_RoundTrip : (Instr.addReg ⟨3, 0, 1, 2⟩).wf = true ∧ encode (.addReg ⟨3, 0, 1, 2⟩) = some (0x4118, 0x0880) ∧
    (0x0880 : BitVec 48).toNat < 2 ^ (16 * ((0x4118 : BitVec 16).extractLsb' 14 2).toNat) := by decide +kernel

/-- `add s3, s1, s2` placed after reset, with 2^64 − 1 and 2 in its sources. -/
def placed : State := (regs State.reset [(1, 2 ^ 64 - 1), (2, 2)]).withFetchWord 32 (0x0880 * 2 ^ 16 + 0x4118)
theorem witness_StepRunsDecoded : placed.inputs = [] ∧ placed.boot = .running ∧ placed.issue = [] ∧ placed.c.vq = [] ∧ placed.lag = [] ∧
    placed.cursor ≠ 0 ∧ usesArray (.addReg ⟨3, 0, 1, 2⟩) = false ∧
    (nextSeq placed placed.cursor).any (fun q => decide (seqPick placed q = some placed.c)) = true ∧ placed.c.alive = true ∧
    copyFault placed placed.c.id = none ∧ copyWaits placed = false ∧ placed.c.op.any vecOp = false ∧
    placed.c.line.any (fun l => match decodeLine l.bytes (headIdx placed.c.pc.toNat) with
      | .ok i => decide (i = .addReg ⟨3, 0, 1, 2⟩) | .error _ => false) = true ∧
    (placed.c.hold.isNone && execHit placed placed.c.pc.toNat && placed.c.bpExempt != some placed.c.pc) = false := by decide +kernel
/-- A vector instruction placed after reset, in a beat of its seat. -/
def placedVec : State := State.reset.withFetchWord 48 0b00101_00110_0101_1000_000000_00000000_10_010100_00011_000
theorem witness_StepRunsDecoded_vector : placedVec.c.line.any (fun l => match decodeLine l.bytes (headIdx placedVec.c.pc.toNat) with
      | .ok i => decide (i = .vadd ⟨3, 0, 5, 6, 5, 8, 0⟩) | .error _ => false) = true ∧
    (placedVec.c.op.any vecOp && placedVec.c.hold.isNone) = true ∧
    (nextSeq placedVec placedVec.cursor).any (fun q => decide (seqPick placedVec q = some placedVec.c) &&
      mayPass { placedVec with c := { placedVec.c with waittDone := false }, cursor := q + 1, lastRun := [(q, placedVec.c.slot)] } &&
      placedVec.lastRun.isEmpty) = true := by decide +kernel
/-- The first sequencer of a cycle: nothing starts, and the gangs stand. -/
theorem witness_StepRunsDecoded_cycle : startStep { placed with cursor := 0 } = none ∧ settleGangs { placed with cursor := 0 } = { placed with cursor := 0 } :=
  ⟨by decide +kernel, rfl⟩
theorem witness_StepRunsDecoded_outside : ({ base with inputs := [.ppsPulse] } : State).inputs = .ppsPulse :: [] ∧ isOutside .ppsPulse = true ∧
    (base.ctxs.all fun c => c.vq.isEmpty) = true := by
  decide +kernel
theorem witness_StepRunsDecoded_rom : reachesRom (.spdmGetMeasurements none 1 5) = true ∧ isOutside (.spdmGetMeasurements none 1 5) = true ∧
    reachesRom .ppsPulse = false ∧ ({ base with boot := .romOnly } : State).boot = .romOnly := by decide +kernel
theorem witness_StepRunsDecoded_illegal : copyWaits (State.reset.withFetchWord 16 0x3600) = false ∧ (State.reset.withFetchWord 16 0x3600).c.tst.getLsbD 2 = false ∧ (State.reset.withFetchWord 16 0x3600).c.vq = [] ∧
    ((State.reset.withFetchWord 16 0x3600).c.line).any (fun l => match decodeLine l.bytes (headIdx (State.reset.withFetchWord 16 0x3600).c.pc.toNat) with
      | .error _ => true | .ok _ => false) = true := by decide +kernel
/-- The step adds, wraps and moves past the head. -/
theorem test_step_add_wraps : (match step placed with
    | .next t => decide (t.reg 3 = 1 ∧ t.c.pc = placed.c.nextPc ∧ t.c.id = 0) | _ => false) = true := by decide +kernel
/-- A reserved MAJ traps with cause 0x01 at device level. -/
theorem test_step_reserved : (match step (State.reset.withFetchWord 16 0x3600) with
    | .next t => decide (t.c.cause = 1 ∧ t.c.tval = 0x3600 ∧ t.c.priv = 2) | _ => false) = true := by decide +kernel

/-- The state after reset has the invariant, and the first step after it answers a next state. -/
theorem witness_StepKeepsInv : (Memory.wf State.reset.mem && State.reset.seats.all (fun t => decide (t.size ≤ 4)) &&
    State.reset.parts.toList.all (fun p => p.seatRecs.all fun r => decide (r.size ≤ 4)) && decide (State.reset.c.priv.toNat ≤ 2) &&
    State.reset.c.part == 0 && Memory.wf State.reset.c.v && cellsWf (0 : BitVec 36) State.reset.c.a && State.reset.others.isEmpty &&
    State.reset.saved.isEmpty && State.reset.ckpts.isEmpty && State.reset.c.gang.isEmpty) = true ∧
    ∃ t, step State.reset = .next t := ⟨by decide +kernel, _, rfl⟩
theorem witness_LifeCycleMoves : ∃ t, step placed = .next t := ⟨_, rfl⟩

/-! ## Scalar tests -/

theorem test_sub_and_shift : (ran (.subReg ⟨3, 0, 1, 2⟩) (regs base [(1, 1), (2, 2)])).reg 3 = 0xFFFFFFFFFFFFFFFF ∧
    (ran (.shlReg ⟨3, 0, 1, 2⟩) (regs base [(1, 3), (2, 65)])).reg 3 = 6 ∧
    (ran (.sraReg ⟨3, 0, 1, 2⟩) (regs base [(1, 2 ^ 63), (2, 63)])).reg 3 = 0xFFFFFFFFFFFFFFFF := by decide +kernel
theorem test_register_zero : (ran (.addReg ⟨0, 0, 1, 2⟩) (regs base [(1, 1), (2, 2)])).reg 0 = 0 := by decide +kernel
theorem test_add_imm_sign : (ran (.addImm { h3 with d := 3, a := 1, imm := 0xFFFF }) (regs base [(1, 5)])).reg 3 = 4 := by decide +kernel

end Sys2Proof.Tests
end

section
/-! SUPPORT. The statements of the scope: loads and stores in the window of a core's own scratchpad (O22), the state after reset (O6),
and a state whose step breaks the invariant (O5). -/
namespace Sys2Proof.Machine

/-! ## Little-endian values (R1) -/

theorem leBytes_length (n v : Nat) : (leBytes n v).length = n := by
  induction n generalizing v with
  | zero => rfl
  | succ n ih => simp [leBytes, ih]

/-- Byte i of a value's bytes is bits 8i to 8i + 7 of the value. -/
theorem leBytes_getD (n v i : Nat) (hi : i < n) : (leBytes n v).getD i 0 = BitVec.ofNat 8 (v >>> (8 * i)) := by
  induction n generalizing v i with
  | zero => omega
  | succ n ih =>
    cases i with
    | zero => rfl
    | succ i =>
      have h : v / 256 = v >>> 8 := by simp [Nat.shiftRight_eq_div_pow]
      calc (leBytes (n + 1) v).getD (i + 1) 0 = (leBytes n (v / 256)).getD i 0 := by simp [leBytes]
        _ = BitVec.ofNat 8 (v >>> (8 * (i + 1))) := by
          rw [ih _ _ (by omega), h, ← Nat.shiftRight_add, show 8 + 8 * i = 8 * (i + 1) by omega]

/-- Bit i of the value of bytes is bit i mod 8 of byte i / 8. -/
theorem testBit_leNat (l : List Byte) (i : Nat) : (leNat l).testBit i = (l.getD (i / 8) 0).getLsbD (i % 8) := by
  induction l generalizing i with
  | nil => simp [leNat]
  | cons b bs ih =>
    have hb : b.toNat < 2 ^ 8 := b.isLt
    rw [leNat, Nat.add_comm, show 256 = 2 ^ 8 by rfl, Nat.testBit_two_pow_mul_add _ hb]
    split
    · rename_i h
      rw [Nat.div_eq_of_lt h, Nat.mod_eq_of_lt h]
      rfl
    · rename_i h
      rw [ih, show i / 8 = (i - 8) / 8 + 1 by omega, show i % 8 = (i - 8) % 8 by omega]
      rfl

/-- Bit i of the value of n stored bytes. -/
theorem testBit_leNat_getCells (m : List Host.Cell) (k n i : Nat) (hi : i < 8 * n) :
    (leNat (getCells m k n)).testBit i = (getCell unwritten (k + i / 8) m).getLsbD (i % 8) := by
  rw [testBit_leNat, getCells_eq, List.getD_eq_getElem?_getD, List.getElem?_map, List.getElem?_range (by omega)]
  rfl

/-! ## Extension by type (R111) -/

/-- The width of a type is one, two, four or eight bytes. -/
theorem tyWidth_bytes (t : Nat) : ∃ n, tyWidth t = 8 * n ∧ (n = 1 ∨ n = 2 ∨ n = 4 ∨ n = 8) := by
  have h : tyWidth t = 8 ∨ tyWidth t = 16 ∨ tyWidth t = 32 ∨ tyWidth t = 64 := by
    unfold tyWidth
    split <;> decide
  exact ⟨tyWidth t / 8, by omega, by omega⟩

theorem wrap64_eq_ofInt (x : Int) : wrap64 x = BitVec.ofInt 64 x := by
  apply BitVec.eq_of_toNat_eq
  rw [wrap64, wrapN, BitVec.toNat_ofNat, BitVec.toNat_ofInt]
  omega

theorem sval_eq_toInt (w x : Nat) (hw : 0 < w) : sval w x = (BitVec.ofNat w x).toInt := by
  obtain ⟨w, rfl⟩ : ∃ v, w = v + 1 := ⟨w - 1, by omega⟩
  have hcast : ((2 ^ (w + 1) : Nat) : Int) = 2 ^ (w + 1) := by norm_cast
  rw [sval, BitVec.toInt_eq_toNat_cond, BitVec.toNat_ofNat, Nat.add_sub_cancel, hcast]
  have hhalf : x % 2 ^ (w + 1) < 2 ^ w ↔ 2 * (x % 2 ^ (w + 1)) < 2 ^ (w + 1) := by rw [Nat.pow_succ]; omega
  simp only [hhalf]

/-- An unsigned value is extended with zeros. -/
theorem extendTy_getLsbD_unsigned (ty x i : Nat) (h : tySigned ty = false) (hi : i < 64) :
    (extendTy ty x).getLsbD i = (decide (i < tyWidth ty) && x.testBit i) := by
  rw [extendTy, h, if_neg (by decide), BitVec.getLsbD_ofNat, Nat.testBit_mod_two_pow, decide_eq_true hi, Bool.true_and]

/-- A signed value is extended with its highest bit. -/
theorem extendTy_getLsbD_signed (ty x i : Nat) (h : tySigned ty = true) (hi : i < 64) :
    (extendTy ty x).getLsbD i = if i < tyWidth ty then x.testBit i else x.testBit (tyWidth ty - 1) := by
  have hw : 0 < tyWidth ty := by
    obtain ⟨n, hn, hmem⟩ := tyWidth_bytes ty
    omega
  have e : extendTy ty x = (BitVec.ofNat (tyWidth ty) x).signExtend 64 := by
    simp only [extendTy, tyInt, h, if_true, wrap64_eq_ofInt, sval_eq_toInt _ _ hw, BitVec.signExtend]
  have hlast : tyWidth ty - 1 < tyWidth ty := by omega
  rw [e, BitVec.getLsbD_signExtend, BitVec.getLsbD_ofNat, BitVec.msb_eq_getLsbD_last, BitVec.getLsbD_ofNat, decide_eq_true hi,
    decide_eq_true hlast, Bool.true_and, Bool.true_and]
  by_cases hin : i < tyWidth ty
  · rw [if_pos hin, if_pos hin, decide_eq_true hin, Bool.true_and]
  · rw [if_neg hin, if_neg hin]

/-! ## The window of a core's own scratchpad (R174, R175) -/

/-- The virtual address of byte o of the window. -/
def cspAddr (o : Nat) : Nat := 0xFE01 * 2 ^ 40 + o

/-- The place of byte o of a core's scratchpad, as an access through the window reaches it. -/
def cspPlace (core o : Nat) : Place :=
  { key := keyCore core o, kind := 1, tile := none, pa := none, line := none, die := dieOfCore core }

/-- The window, its reserved bits and the offset, as they stand in an address. -/
theorem nbits_cspAddr {o : Nat} (h : o < 0x300000) :
    nbits (cspAddr o) 48 8 = 0xFE ∧ nbits (cspAddr o) 40 8 = 1 ∧ nbits (cspAddr o) 22 18 = 0 ∧ cspAddr o % 2 ^ 22 = o := by
  unfold nbits cspAddr
  omega

/-- The key of a byte that the agent's partition owns. -/
theorem windowKey_cspAddr (s : State) (ag : Agent) {o : Nat} (h : o < 0x300000) (own : ownsPos s ag.part ag.core (o / 0xC0000) = true) :
    windowKey s ag (cspAddr o) = some (keyCore ag.core o) := by
  obtain ⟨-, hwin, hres, hoff⟩ := nbits_cspAddr h
  simp only [windowKey, hwin, hres, hoff, own]
  simp [Nat.not_le.2 h]

/-- Bytes in one position of the window, which the agent's partition owns and which runs. -/
theorem windowPlace_cspAddr (s : State) (ag : Agent) {o n : Nat} (hn : 0 < n) (h : o + n ≤ 0x300000)
    (hpos : o / 0xC0000 = (o + n - 1) / 0xC0000) (own : ownsPos s ag.part ag.core (o / 0xC0000) = true)
    (live : (s.part ag.part).st = .live) : windowPlace s ag (cspAddr o) n = some (cspPlace ag.core o) := by
  have hlast : cspAddr o + n - 1 = cspAddr (o + n - 1) := by unfold cspAddr; omega
  have hkey : keyCore ag.core (o + n - 1) = keyCore ag.core o + n - 1 := by unfold keyCore; omega
  have first := windowKey_cspAddr s ag (by omega) own
  have last := windowKey_cspAddr s ag (o := o + n - 1) (by omega) (hpos ▸ own)
  have hdie : windowDie ag.core (cspAddr o) = dieOfCore ag.core := by
    simp [windowDie, (nbits_cspAddr (o := o) (by omega)).2.1]
  simp [windowPlace, live, hlast, first, last, hkey, hdie, cspPlace]

/-- An access to such bytes, not of a fetch, reaches them and changes nothing in being resolved. -/
theorem resolve_cspAddr (s : State) (ag : Agent) (acc : Acc) {o n : Nat} (hacc : acc ≠ .fetch) (hn : 0 < n) (h : o + n ≤ 0x300000)
    (hpos : o / 0xC0000 = (o + n - 1) / 0xC0000) (own : ownsPos s ag.part ag.core (o / 0xC0000) = true)
    (live : (s.part ag.part).st = .live) (unbound : sluiceFor s ag (cspAddr o) = cspAddr o) :
    resolve s ag acc (cspAddr o) n = .ok (.near (cspPlace ag.core o), s) := by
  have hlow : ¬ 2 ^ 56 ≤ cspAddr o := by unfold cspAddr; omega
  rw [resolve, if_neg hacc, unbound, resolveRaw, if_neg hlow, if_pos (nbits_cspAddr (by omega)).1,
    windowPlace_cspAddr s ag hn h hpos own live]

/-- A partition without an enabled watchpoint. -/
theorem watchHit_eq_false (s : State) (part : Nat) (acc : Acc) (va n : Nat)
    (off : ∀ w ∈ (s.part part).wpt.toList, w.getLsbD 63 = false ∧ w.getLsbD 62 = false) : watchHit s part acc va n = false := by
  rw [watchHit, List.any_eq_false]
  intro w hw
  simp only [off w hw]
  simp

/-- No unit is poisoned. -/
theorem poisoned_eq_false (s : State) (key n : Nat) (h : s.poison = []) : poisoned s key n = false := by simp [poisoned, h]

/-- What an access to the running context's own scratchpad meets: it runs, owns the position, and no answer, binding, watchpoint
or poison is in its way. -/
structure CspOpen (s : State) (o n : Nat) : Prop where
  pos : 0 < n
  inWindow : o + n ≤ 0x300000
  onePos : o / 0xC0000 = (o + n - 1) / 0xC0000
  own : ownsPos s s.c.part s.c.core (o / 0xC0000) = true
  live : s.myPart.st = .live
  unbound : sluiceFor s s.agent (cspAddr o) = cspAddr o
  noAns : s.ansOf s.agent = none
  unpoisoned : s.poison = []
  unwatched : ∀ w ∈ s.myPart.wpt.toList, w.getLsbD 63 = false ∧ w.getLsbD 62 = false

/-- A load reads the bytes and changes nothing. -/
theorem loadMem_csp {s : State} {o n : Nat} (h : CspOpen s o n) :
    loadMem s s.agent (cspAddr o) n = .ok (getCells s.mem (keyCore s.c.core o) n) s := by
  have hres := resolve_cspAddr s s.agent .load (by decide) h.pos h.inWindow h.onePos h.own h.live h.unbound
  have hwatch : watchHit s s.agent.part .load (cspAddr o) n = false := watchHit_eq_false _ _ _ _ _ h.unwatched
  simp only [loadMem, h.noAns, hres, hwatch, poisoned_eq_false _ _ _ h.unpoisoned]
  rfl

/-! ## Stores -/

@[simp] theorem shootLine_c (o s : State) (by_ line : Nat) : (shootLine o s by_ line).c = s.c := by
  unfold shootLine
  simp only []
  repeat' split
  all_goals rfl

@[simp] theorem shootLines_c (o s : State) (by_ pa n : Nat) : (shootLines o s by_ pa n).c = s.c := by
  unfold shootLines
  split
  · rfl
  · exact foldl_keeps (fun t : State => t.c = s.c) _ (fun t i h => (shootLine_c o t _ _).trans h) _ _ rfl

@[simp] theorem unpoison_c (s : State) (k n : Nat) : (unpoison s k n).c = s.c := by
  unfold unpoison
  split <;> rfl

/-- A store to a core's scratchpad writes the bytes at the place's key. -/
theorem writePlace_csp_mem (s : State) (ag : Agent) (core o : Nat) (bs : List Byte) :
    (writePlace s ag (cspPlace core o) bs).mem = setCells s.mem (keyCore core o) bs := by
  simp [writePlace, cspPlace, cacheWrite]

@[simp] theorem writePlace_csp_c (s : State) (ag : Agent) (core o : Nat) (bs : List Byte) :
    (writePlace s ag (cspPlace core o) bs).c = s.c := by
  simp [writePlace, cspPlace, cacheWrite]

/-- A store writes the bytes; of the context nothing changes but what its next fetch may miss (R78). -/
theorem storeMem_csp {s : State} {o : Nat} {bs : List Byte} (h : CspOpen s o bs.length) :
    ∃ t, storeMem s s.agent (cspAddr o) bs = .ok () t ∧ t.mem = setCells s.mem (keyCore s.c.core o) bs ∧
      t.c = { s.c with unseen := t.c.unseen } := by
  have hres := resolve_cspAddr s s.agent .store (by decide) h.pos h.inWindow h.onePos h.own h.live h.unbound
  have hwatch : watchHit s s.agent.part .store (cspAddr o) bs.length = false := watchHit_eq_false _ _ _ _ _ h.unwatched
  refine ⟨noteUnseen s (writePlace s s.agent (cspPlace s.c.core o) bs) s.agent (keyCore s.c.core o) bs.length, ?_, ?_, ?_⟩
  · simp only [storeMem, h.noAns, hres, hwatch]
    rfl
  · exact writePlace_csp_mem s s.agent s.c.core o bs
  · simp [noteUnseen, State.agent]

/-! ## `ld` and `st` in the window -/

/-- An aligned offset is an aligned address. -/
theorem cspAddr_aligned {o ty : Nat} (h : o % (tyWidth ty / 8) = 0) : cspAddr o % (tyWidth ty / 8) = 0 := by
  obtain ⟨n, hn, hmem⟩ := tyWidth_bytes ty
  rw [hn, Nat.mul_div_cancel_left _ (by decide)] at h ⊢
  unfold cspAddr
  rcases hmem with rfl | rfl | rfl | rfl <;> omega

section
variable {s : State} {f : H3} {o : Nat}

/-- `ld` writes the extended value of the bytes. -/
theorem execLd_csp (h : CspOpen s o (tyWidth f.ty.toNat / 8)) (ha : (scalarAddr s f).toNat = cspAddr o)
    (hal : o % (tyWidth f.ty.toNat / 8) = 0) :
    exec (.ld f) s = .next (s.setReg f.d.toNat
      (extendTy f.ty.toNat (leNat (getCells s.mem (keyCore s.c.core o) (tyWidth f.ty.toNat / 8))))).adv := by
  change scalarLoad f s = _
  simp [scalarLoad, ha, cspAddr_aligned hal, loadMem_csp h, endAccess]

/-- `st` writes the bytes of register B, and no register. -/
theorem execSt_csp (h : CspOpen s o (tyWidth f.ty.toNat / 8)) (ha : (scalarAddr s f).toNat = cspAddr o)
    (hal : o % (tyWidth f.ty.toNat / 8) = 0) :
    ∃ t, exec (.st f) s = .next t ∧ Retired s t ∧ (∀ r, t.reg r = s.reg r) ∧
      t.mem = setCells s.mem (keyCore s.c.core o) (leBytes (tyWidth f.ty.toNat / 8) (s.num f.b)) := by
  obtain ⟨t, ht, hmem, hc⟩ := storeMem_csp (bs := leBytes (tyWidth f.ty.toNat / 8) (s.num f.b)) (by rwa [leBytes_length])
  refine ⟨t.adv, ?_, ?_, fun r => ?_, hmem⟩
  · change scalarStore f s = _
    simp [scalarStore, ha, cspAddr_aligned hal, ht, endAccess]
  · obtain ⟨hpc, halive, hid, hhold⟩ := retired_adv t
    rw [hc] at hpc halive hid
    exact ⟨hpc, halive, hid, hhold⟩
  · change t.c.adv.reg r = s.c.reg r
    rw [Ctx.adv_reg, hc]
    rfl

end

/-- A byte of storage after bytes of a value have been stored. -/
theorem getCell_setCells_leBytes {m : List Host.Cell} (hm : Memory.wf m = true) (key n v k : Nat) :
    getCell unwritten k (setCells m key (leBytes n v)) =
      if key ≤ k ∧ k < key + n then BitVec.ofNat 8 (v >>> (8 * (k - key))) else getCell unwritten k m := by
  split
  · rename_i h
    have hin := getCell_setCells_in (leBytes n v) m key (k - key) hm (by rw [leBytes_length]; omega)
    rw [Nat.add_sub_cancel' h.1] at hin
    rw [hin, leBytes_getD _ _ _ (by omega)]
  · rename_i h
    exact getCell_setCells_out _ _ _ _ hm (by rw [leBytes_length]; omega)

/-- The destination of an instruction that writes one register and goes on. -/
theorem reg_setReg_adv (s : State) (d : BitVec 5) (hd : d ≠ 0) (x : Word) : (s.setReg d.toNat x).adv.reg d.toNat = x := by
  have h0 : d.toNat ≠ 0 := fun h => hd (BitVec.eq_of_toNat_eq h)
  change (s.c.setReg d.toNat x).adv.reg d.toNat = x
  rw [Ctx.adv_reg, Ctx.reg_setReg_same _ _ _ h0 d.isLt]

/-- Bit i of an extended value of stored bytes: a bit of a byte, or past the type's width the sign of a signed type. -/
theorem extendTy_leNat_getLsbD (m : List Host.Cell) (key ty i : Nat) (hi : i < 64) (h1 : 1 ≤ ty) :
    (extendTy ty (leNat (getCells m key (tyWidth ty / 8)))).getLsbD i =
      if i < tyWidth ty then (getCell unwritten (key + i / 8) m).getLsbD (i % 8)
      else decide (ty ≤ 4) && (getCell unwritten (key + tyWidth ty / 8 - 1) m).getLsbD 7 := by
  obtain ⟨n, hn, hmem⟩ := tyWidth_bytes ty
  have hbit : ∀ j < tyWidth ty, (leNat (getCells m key (tyWidth ty / 8))).testBit j = (getCell unwritten (key + j / 8) m).getLsbD (j % 8) :=
    fun j hj => testBit_leNat_getCells m key _ j (by omega)
  by_cases hs : ty ≤ 4
  · rw [extendTy_getLsbD_signed _ _ _ (by simp [tySigned, h1, hs]) hi]
    split
    · exact hbit i ‹_›
    · rw [hbit _ (by omega), show key + (tyWidth ty - 1) / 8 = key + tyWidth ty / 8 - 1 by omega,
        show (tyWidth ty - 1) % 8 = 7 by omega, decide_eq_true hs, Bool.true_and]
  · rw [extendTy_getLsbD_unsigned _ _ _ (by simp [tySigned, hs]) hi]
    by_cases h : i < tyWidth ty
    · rw [if_pos h, decide_eq_true h, Bool.true_and]
      exact hbit i h
    · rw [if_neg h, decide_eq_false h, decide_eq_false hs, Bool.false_and, Bool.false_and]

/-! ## States with the invariant -/

/-- A state with nothing in memory, the partitions of reset, seats of at most four positions, and one context that is `Ok`. -/
theorem inv_of_alone {s : State} (hmem : s.mem = []) (hseats : ∀ t ∈ s.seats, t.size ≤ 4) (hparts : s.parts = State.reset.parts)
    (hc : s.c.Ok) (hothers : s.others = []) (hsaved : s.saved = []) (hckpts : s.ckpts = []) : s.Inv := by
  refine ⟨by rw [hmem]; rfl, hseats, fun p hp r hr => ?_, hc, by simp [hothers], by simp [hsaved], by simp [hckpts]⟩
  have hfresh : p = Part.reset := by simpa [hparts, State.reset] using hp
  simp [hfresh, Part.reset] at hr

/-- The management context as reset leaves it (R6, R10). -/
theorem reset_c_ok : State.reset.c.Ok := ⟨⟨by decide, by decide⟩, by decide, rfl, rfl⟩

theorem reset_inv : State.reset.Inv := inv_of_alone rfl (by decide) rfl reset_c_ok rfl rfl rfl

theorem reset_part (p : Fin 64) : State.reset.parts[p] = Part.reset := by simp [State.reset]

theorem reset_link (d : Fin 10) : State.reset.links[d] = Link.reset := by simp [State.reset]

/-! ## A waiting `vgang` may hold more seats than a gang has -/

/-- Eight seats, each the first of its core. -/
def eightSeats : List (Nat × Nat) := (List.range 8).map fun core => (core, 0)

/-- A running device with eight free seats of partition 0, whose context waits for all eight in a `vgang`. The instruction itself
asks for at most seven (R149); `State.Inv` says nothing of the seats that a context waits for. -/
def waitsForEight : State :=
  { State.reset with
    boot := .running
    seats := State.reset.seats ++ eightSeats.map fun x => Seat.start x.1 x.2 1 0 0
    c := { State.reset.c with
      line := some ⟨0, []⟩
      wait := some { op := .gang 0 eightSeats 0, obj := none, dev := 0, stamp := 0, u := 0, limit := none } } }

theorem waitsForEight_inv : waitsForEight.Inv := inv_of_alone rfl (by decide) rfl reset_c_ok rfl rfl rfl

/-- The wait ends in the next step, and its eight seats are attached. -/
theorem step_waitsForEight : ∃ t, step waitsForEight = .next t ∧ t.c.gang.length = 8 := ⟨_, rfl, by decide +kernel⟩

end Sys2Proof.Machine

namespace Sys2Proof
open Machine

/-- Refutes O5: in a state with the invariant whose context waits in a `vgang` for eight free seats, the wait ends with eight
attached seats. -/
theorem not_stepKeepsInv : ¬ Obligations.StepKeepsInv := by
  intro h
  obtain ⟨t, hstep, hgang⟩ := step_waitsForEight
  obtain ⟨-, -, -, ⟨-, hle, -⟩, -⟩ := h waitsForEight t waitsForEight_inv hstep
  omega

/-- Settles O6: the control registers are read one by one, and every partition, slice and link is its reset value. -/
theorem resetHasInv : Obligations.ResetHasInv := by
  refine ⟨reset_inv, rfl, rfl, rfl, rfl, rfl, by decide +kernel, fun p => ?_, fun i => ?_, fun k => rfl, fun d => ?_,
    rfl, rfl, rfl, rfl, rfl, rfl, rfl, rfl, rfl, rfl, rfl, rfl, rfl, rfl⟩
  · rw [reset_part]
    exact ⟨rfl, rfl, rfl, fun i => by simp [Part.reset]⟩
  · simp [State.reset]
  · rw [reset_link]
    rfl

/-- Settles O22: resolved through the window, a load returns and a store writes the bytes of the core's scratchpad. -/
theorem windowAccess : Obligations.WindowAccess := by
  intro s f o n a key ha hin hal hpos hty own live unbound noAns unpoisoned unwatched hwf
  obtain ⟨hn, hn0, hn8⟩ : tyWidth f.ty.toNat = 8 * n ∧ 0 < n ∧ n ≤ 8 := by
    obtain ⟨w, hw, hcases⟩ := tyWidth_bytes f.ty.toNat
    simp only [n]
    omega
  have hty1 : 1 ≤ f.ty.toNat := by
    have hne : f.ty ≠ 0 := by rintro h; simp [h] at hty
    exact Nat.one_le_iff_ne_zero.2 fun h => hne (BitVec.eq_of_toNat_eq h)
  have ha' : (scalarAddr s f).toNat = cspAddr o := ha
  have hopen : CspOpen s o n := ⟨hn0, hin, hpos, own, live, by rw [← ha']; exact unbound, noAns, unpoisoned, unwatched⟩
  constructor
  · have hbits := fun i hi => extendTy_leNat_getLsbD s.mem key f.ty.toNat i hi hty1
    refine ⟨_, execLd_csp hopen ha' hal, frame_setReg_adv _ _ _, fun hd i hi => ?_, fun hd i hlo hi => ?_⟩
    · rw [reg_setReg_adv s f.d hd]
      exact (hbits i (by omega)).trans (if_pos (hn ▸ hi))
    · rw [reg_setReg_adv s f.d hd]
      exact (hbits i hi).trans (if_neg (by omega))
  · obtain ⟨t, hexec, hret, hreg, hmem⟩ := execSt_csp hopen ha' hal
    refine ⟨t, hexec, hret, hreg, fun k => ?_⟩
    rw [State.byteAt, hmem]
    exact getCell_setCells_leBytes hwf key n (s.reg f.b.toNat).toNat k

end Sys2Proof
end
